-- ==== Sys2Proof/Word.lean ====
section
/-! DEFINITION. The word types and the sparse map in its one canonical form.

Bits are numbered as R6 states: bit 0 is the least significant. -/

namespace Sys2Proof

/-- A scalar register, a special register, a syllable (R22, R47). -/
abbrev Word := BitVec 64
/-- A vector register (R22). -/
abbrev Vec := BitVec 2048
/-- A predicate register, one bit per byte position of a vector (R29). -/
abbrev Pred := BitVec 256
/-- A byte of memory. -/
abbrev Byte := BitVec 8
/-- A 128-byte line of global memory (R84). -/
abbrev Line := BitVec 1024

/-- A map from numbers to values, held as pairs. Keys rise strictly and no listed value is the default, so equal maps
are equal lists. -/
abbrev SMap (α : Type) := List (Nat × α)

namespace SMap

variable {α : Type}

/-- The value at a key: the default where the key is not listed. -/
def get [Inhabited α] : SMap α → Nat → α
  | [], _ => default
  | (i, v) :: r, k => if k = i then v else if k < i then default else get r k

/-- The entries above a key. -/
def after (k : Nat) : SMap α → SMap α
  | [] => []
  | (i, v) :: r => if k < i then (i, v) :: r else after k r

/-- Writes a value at a key; writing the default removes the entry. -/
def set [Inhabited α] [DecidableEq α] : SMap α → Nat → α → SMap α
  | [], k, v => if v = default then [] else [(k, v)]
  | (i, w) :: r, k, v =>
    if k < i then (if v = default then (i, w) :: r else (k, v) :: (i, w) :: r)
    else if k = i then (if v = default then after k r else (k, v) :: r)
    else (i, w) :: set r k v

/-- Every key of the map is above a bound. -/
def above (b : Nat) : SMap α → Bool
  | [] => true
  | (i, _) :: r => decide (b < i) && above b r

/-- The canonical form: keys strictly rising, no default value listed. -/
def wf [Inhabited α] [DecidableEq α] : SMap α → Bool
  | [] => true
  | (i, v) :: r => decide (v ≠ default) && above i r && wf r

/-- The keys listed. -/
def keys (m : SMap α) : List Nat := m.map Prod.fst

/-- Applies a function to the value at a key. -/
def update [Inhabited α] [DecidableEq α] (m : SMap α) (k : Nat) (f : α → α) : SMap α := set m k (f (get m k))

end SMap

end Sys2Proof
end

