-- ==== Sys2Proof/Syntax.lean ====
section
/-! DEFINITION. The instructions: one constructor of Instr for every row of spec/opcode_table.json.

The first 166 constructors are the syllables of the opcode map (R65), their operands as the entries of spec/03 and 08 to 18
give them. The last 98 are the machine's own steps that spec/95 lists; they have no encoding and carry the object they act
on. -/

namespace Sys2Proof

/-- A guard: predicate GP and the negate bit GN (R30, R47). -/
structure Guard where
  neg : Bool
  p : BitVec 4
  deriving DecidableEq, Repr, Inhabited

/-- The two vector slots (R48). -/
inductive VSlot where
  | va | vb
  deriving DecidableEq, Repr, Inhabited

/-- A decoded 7-bit vector-class field (R58). -/
inductive VOp where
  | v (k : BitVec 5)
  | y (k : BitVec 3)
  | q (k : BitVec 3)
  | p (k : BitVec 4)
  deriving DecidableEq, Repr, Inhabited

/-- Element types (R64). -/
inductive ET where
  | i8 | n8 | i16 | n16 | i32 | n32 | f32 | bf16 | f16 | e4m3 | e5m2 | e2m1 | cb16 | e8m0 | b1
  deriving DecidableEq, Repr, Inhabited

/-- Rounding modes (R64). -/
inductive RM where
  | rne | rtz | rdn | rup | rna | sr | dyn
  deriving DecidableEq, Repr, Inhabited

/-- Conditions of `br`, `set`, `seti` and `setp` (R61). -/
inductive Cond where
  | eq | ne | lt | ge | ltu | geu
  deriving DecidableEq, Repr, Inhabited

/-- Conditions of `vcmp` (R210). -/
inductive VCond where
  | eq | ne | lt | le | gt | ge | uo | ord
  deriving DecidableEq, Repr, Inhabited

/-- Memory spaces of the MS format that an entry can accept (R60); SPACE 4 is never accepted there (R158). -/
inductive Space where
  | spad | lane | cluster | die
  deriving DecidableEq, Repr, Inhabited

/-- Scopes (R60). -/
inductive Scope where
  | dom | pkg | die
  deriving DecidableEq, Repr, Inhabited

/-- Widths 0 to 3 of the MS format (R59). -/
inductive Width where
  | w8 | w16 | w32 | w64
  deriving DecidableEq, Repr, Inhabited

/-- Guard granule of `vld` and `vst` (R161). -/
inductive Gran where
  | g32 | g16 | g8
  deriving DecidableEq, Repr, Inhabited

/-- Modes of `mulh` (R173). -/
inductive MulhMode where
  | ss | uu | su
  deriving DecidableEq, Repr, Inhabited

/-- Modes of `brp` (R179). -/
inductive BrpMode where
  | any | all | none
  deriving DecidableEq, Repr, Inhabited

/-- Shifts of `vshi` (R209). -/
inductive ShiKind where
  | shl | shr | sar | rol
  deriving DecidableEq, Repr, Inhabited

/-- Block sizes of `vscale` (R220). -/
inductive ScaleBlock where
  | b1 | b16 | b32
  deriving DecidableEq, Repr, Inhabited

/-- Destinations of `vcbdec` (R221). -/
inductive CbDst where
  | f32 | bf16 | f16
  deriving DecidableEq, Repr, Inhabited

/-- Modes of `vshuf` (R232). -/
inductive ShufMode where
  | table | lo | hi | even | odd
  deriving DecidableEq, Repr, Inhabited

/-- Operations of `ldg` (R114). -/
inductive LdgOp where
  | b | bu | h | hu | w | wu | d
  deriving DecidableEq, Repr, Inhabited

/-- Operations of `amo` and `amol` (R116). -/
inductive AmoOp where
  | add | and | or | xor | min | max | minn | maxn | fadd | swap | cas | casw
  deriving DecidableEq, Repr, Inhabited

/-- Operations of `red` (R117). -/
inductive RedOp where
  | addI32 | addI64 | addF32 | minI32 | maxI32 | minF32 | maxF32
  deriving DecidableEq, Repr, Inhabited

/-- Operations of `tew` (R261). -/
inductive TewOp where
  | add | sub | mul | min | max
  deriving DecidableEq, Repr, Inhabited

/-- Operations of `tews` (R261). -/
inductive TewsOp where
  | add | sub | rsub | mul | min | max
  deriving DecidableEq, Repr, Inhabited

/-- Functions of `tfn` (R262). -/
inductive TfnOp where
  | abs | neg | relu | exp2 | rcpa | rsqa | log2
  deriving DecidableEq, Repr, Inhabited

/-- Destination types of `tcvt`, and output types of a chain close (R264, R273). -/
inductive TileDst where
  | f32 | bf16 | f16 | e4m3 | e5m2 | e2m1
  deriving DecidableEq, Repr, Inhabited

/-- Operand shapes. A scalar register number is six bits, a predicate number four. -/
structure ScR3 where
  g : Guard
  sd : BitVec 6
  sa : BitVec 6
  sb : BitVec 6
  deriving DecidableEq, Repr, Inhabited

/-- Three scalars and the unsigned form bit of `min`, `max`, `div` and `rem`. -/
structure ScR3u where
  g : Guard
  u : Bool
  sd : BitVec 6
  sa : BitVec 6
  sb : BitVec 6
  deriving DecidableEq, Repr, Inhabited

/-- Destination and one source. -/
structure ScR2 where
  g : Guard
  sd : BitVec 6
  sa : BitVec 6
  deriving DecidableEq, Repr, Inhabited

/-- Destination, source and a 32-bit immediate (R177). -/
structure ScI where
  g : Guard
  sd : BitVec 6
  sa : BitVec 6
  imm : BitVec 32
  deriving DecidableEq, Repr, Inhabited

/-- Destination, source and a shift count 0 to 63 (R177). -/
structure ScSh where
  g : Guard
  sd : BitVec 6
  sa : BitVec 6
  n : BitVec 6
  deriving DecidableEq, Repr, Inhabited

/-- Integer vector arithmetic and vector floating-point arithmetic (R206, R223): `c` is used by the three-source entries. -/
structure VAr where
  g : Guard
  sl : VSlot
  ws : Bool
  d : VOp
  a : VOp
  b : VOp
  et : ET
  sat : Bool
  deriving DecidableEq, Repr, Inhabited

/-- Vector result from two sources with no SAT (R207, R208, R224). -/
structure V2 where
  g : Guard
  sl : VSlot
  ws : Bool
  d : VOp
  a : VOp
  b : VOp
  et : ET
  deriving DecidableEq, Repr, Inhabited

/-- Vector result from one source (R214, R225). -/
structure V1 where
  g : Guard
  sl : VSlot
  ws : Bool
  d : VOp
  a : VOp
  et : ET
  deriving DecidableEq, Repr, Inhabited

/-- Vector result from three sources with SAT (`vmac`, R206). -/
structure VAr3 where
  g : Guard
  sl : VSlot
  ws : Bool
  d : VOp
  a : VOp
  b : VOp
  c : VOp
  et : ET
  sat : Bool
  deriving DecidableEq, Repr, Inhabited

/-- Floating-point arithmetic with rounding (R223): two sources. -/
structure VFl2 where
  g : Guard
  sl : VSlot
  ws : Bool
  d : VOp
  a : VOp
  b : VOp
  et : ET
  rm : RM
  sat : Bool
  deriving DecidableEq, Repr, Inhabited

/-- Floating-point arithmetic with rounding (R223): three sources. -/
structure VFl3 where
  g : Guard
  sl : VSlot
  ws : Bool
  d : VOp
  a : VOp
  b : VOp
  c : VOp
  et : ET
  rm : RM
  sat : Bool
  deriving DecidableEq, Repr, Inhabited

/-- Predicate logic (R211). -/
structure P3 where
  g : Guard
  sl : VSlot
  d : BitVec 4
  a : BitVec 4
  b : BitVec 4
  deriving DecidableEq, Repr, Inhabited

/-- Special functions of f32 (R226). -/
structure VFn where
  g : Guard
  sl : VSlot
  ws : Bool
  d : VOp
  a : VOp
  deriving DecidableEq, Repr, Inhabited

/-- Reductions with a mask predicate (R233). -/
structure VRed where
  g : Guard
  sl : VSlot
  ws : Bool
  d : VOp
  a : VOp
  pm : BitVec 4
  et : ET
  deriving DecidableEq, Repr, Inhabited

/-- `vmaxi` and `vmini` (R235). -/
structure VMi where
  g : Guard
  sl : VSlot
  ws : Bool
  acc : Bool
  d : VOp
  a : VOp
  s : BitVec 6
  pm : BitVec 4
  deriving DecidableEq, Repr, Inhabited

/-- A memory address of the MS format (R59). -/
structure MAddr where
  sbase : BitVec 6
  off : BitVec 20
  space : Space
  deriving DecidableEq, Repr, Inhabited

/-- `amo` and `amol` operands (R116, R164). -/
structure Amo where
  g : Guard
  op : AmoOp
  sd : BitVec 6
  sa : BitVec 6
  sb : BitVec 6
  sc : BitVec 6
  deriving DecidableEq, Repr, Inhabited

/-- AS instructions with a descriptor address: guard, CUE bit, status, descriptor. -/
structure AsD where
  g : Guard
  cue : Bool
  sd : BitVec 6
  sa : BitVec 6
  deriving DecidableEq, Repr, Inhabited

/-- AS instructions on a chain handle in sb (R290, R291). -/
structure AsH where
  g : Guard
  cue : Bool
  sd : BitVec 6
  sb : BitVec 6
  deriving DecidableEq, Repr, Inhabited

/-- Where firmware on the management cores writes: a register of the system region (R9), a whole line of memory (R108), or a
measurement register, which it extends (R388). -/
inductive FwPlace where
  | reg (off : Nat)
  | line (pa : Nat)
  | mr (i : Nat)
  deriving DecidableEq, Repr, Inhabited

/-- The configuration that boot measures and installs (R388): its digest, disabled cores as packed core ids, PINLIM, the multicast
groups with their members (R298), and the power limit in watts. -/
structure BootConfig where
  digest : BitVec 384
  disabled : List Nat
  pinlim : BitVec 64
  groups : List (Nat × List Nat)
  watts : Nat
  deriving DecidableEq, Repr, Inhabited

/-- Where an SPDM request arrives (R389): the mailbox of the host port, or MCTP on the side-band. -/
inductive SpdmPort where
  | host | sideband
  deriving DecidableEq, Repr, Inhabited

/-- The package that an SPDM request is for, and where it arrives there. -/
structure SpdmTo where
  pkg : Nat
  port : SpdmPort
  deriving DecidableEq, Repr, Inhabited

/-- A flit of the message at an index of those in flight, and how many of its transmissions have failed (R307). -/
structure FlitFails where
  msg : Nat
  fails : Nat
  deriving DecidableEq, Repr, Inhabited

/-- Every row of spec/opcode_table.json. -/
inductive Instr where
  -- SCL, format SR (R173)
  | nop (g : Guard)
  | add (x : ScR3)
  | sub (x : ScR3)
  | and (x : ScR3)
  | or (x : ScR3)
  | xor (x : ScR3)
  | andn (x : ScR3)
  | shl (x : ScR3)
  | shr (x : ScR3)
  | sar (x : ScR3)
  | rol (x : ScR3)
  | min (x : ScR3u)
  | max (x : ScR3u)
  | mul (x : ScR3)
  | mulh (mode : MulhMode) (x : ScR3)
  | div (x : ScR3u)
  | rem (x : ScR3u)
  | clz (x : ScR2)
  | ctz (x : ScR2)
  | popc (x : ScR2)
  | ext (sg : Bool) (x : ScR3) (sc : BitVec 6)
  | set (cond : Cond) (x : ScR3)
  | csel (x : ScR3) (sc : BitVec 6)
  | setp (cond : Cond) (g : Guard) (pd : BitVec 4) (sa sb : BitVec 6)
  -- SCL, format SI (R177)
  | addi (x : ScI)
  | andi (x : ScI)
  | ori (x : ScI)
  | xori (x : ScI)
  | shli (x : ScSh)
  | shri (x : ScSh)
  | sari (x : ScSh)
  | muli (x : ScI)
  | movi (g : Guard) (sd : BitVec 6) (imm : BitVec 32)
  | movhi (x : ScI)
  | seti (cond : Cond) (x : ScI)
  -- SCL, format SB (R179, R180)
  | br (cond : Cond) (g : Guard) (sa sb : BitVec 6) (off : BitVec 32)
  | jmp (g : Guard) (off : BitVec 32)
  | call (g : Guard) (off : BitVec 32)
  | jr (g : Guard) (sa : BitVec 6) (off : BitVec 32)
  | callr (g : Guard) (sa : BitVec 6) (off : BitVec 32)
  | loop (g : Guard) (off : BitVec 32)
  | brp (mode : BrpMode) (g : Guard) (p : BitVec 4) (off : BitVec 32)
  -- VA and VB, integer (R206 to R209)
  | vadd (x : VAr)
  | vsub (x : VAr)
  | vmul (x : VAr)
  | vmulh (x : V2)
  | vmac (x : VAr3)
  | vabsd (x : V2)
  | vmin (x : V2)
  | vmax (x : V2)
  | vand (x : V2)
  | vor (x : V2)
  | vxor (x : V2)
  | vandn (x : V2)
  | vshl (x : V2)
  | vshr (x : V2)
  | vsar (x : V2)
  | vshi (kind : ShiKind) (x : V1) (n : BitVec 12)
  -- compares, predicates, moves (R210 to R217)
  | vcmp (cond : VCond) (g : Guard) (sl : VSlot) (d : BitVec 4) (a b : VOp) (et : ET)
  | pand (x : P3)
  | por (x : P3)
  | pxor (x : P3)
  | pandn (x : P3)
  | pcnt (first : Bool) (g : Guard) (sl : VSlot) (sd : BitVec 6) (a : BitVec 4) (et : ET)
  | pmov (g : Guard) (sl : VSlot) (d a : BitVec 4)
  | pmovV2P (g : Guard) (sl : VSlot) (d : BitVec 4) (a : VOp) (et : ET)
  | pmovP2V (g : Guard) (sl : VSlot) (ws : Bool) (d : VOp) (a : BitVec 4) (et : ET)
  | vsel (x : V2) (pc : BitVec 4)
  | vmov (x : V1)
  | vbcst (imm : Option (BitVec 12)) (g : Guard) (sl : VSlot) (ws : Bool) (d : VOp) (s : BitVec 6) (et : ET)
  | vext (sg : Bool) (g : Guard) (sl : VSlot) (sd : BitVec 6) (a : VOp) (idx : BitVec 12) (et : ET)
  | vins (x : V1) (s : BitVec 6) (idx : BitVec 12)
  | vidx (g : Guard) (sl : VSlot) (ws : Bool) (d : VOp) (s : BitVec 6) (step : BitVec 12) (et : ET)
  -- floating point (R223 to R229)
  | vfadd (x : VFl2)
  | vfsub (x : VFl2)
  | vfmul (x : VFl2)
  | vfma (x : VFl3)
  | vfms (x : VFl3)
  | vfmin (x : V2)
  | vfmax (x : V2)
  | vfabs (x : V1)
  | vfneg (x : V1)
  | vrcpa (x : VFn)
  | vrsqa (x : VFn)
  | vexp2 (x : VFn)
  | vlog2 (x : VFn)
  | vgkey (x : VFn) (s : BitVec 6) (pm : BitVec 4)
  -- conversion (R218 to R221)
  | vcvt (x : V1) (dst : ET) (rm : RM) (sat : Bool) (part : BitVec 3)
  | vcbdec (g : Guard) (sl : VSlot) (ws : Bool) (d a : VOp) (s : BitVec 6) (dst : CbDst) (t : BitVec 2) (grp : BitVec 4)
  | vscale (x : VFl2) (blk : ScaleBlock)
  -- permutes, reductions, dot (R230 to R237)
  | vtlu (x : V2) (c : Option VOp)
  | vrot (x : V1) (s : BitVec 6) (k : BitVec 12)
  | vshuf (x : V2) (mode : ShufMode) (c : Option VOp)
  | vredsum (x : VRed) (sat : Bool)
  | vredmax (x : VRed)
  | vredmin (x : VRed)
  | vmaxi (x : VMi)
  | vmini (x : VMi)
  | vdot (g : Guard) (sl : VSlot) (ws : Bool) (d a b c : VOp) (ta tb : ET)
  -- MTX (R260 to R267, R277, R281, R283)
  | tld (g : Guard) (zd : BitVec 6) (tid : BitVec 6) (s : BitVec 6)
  | tew (op : TewOp) (g : Guard) (rm : RM) (zd a b : BitVec 6)
  | tews (op : TewsOp) (g : Guard) (rm : RM) (zd a s : BitVec 6)
  | tfn (op : TfnOp) (g : Guard) (zd a : BitVec 6)
  | tmap (g : Guard) (zd a s : BitVec 6)
  | tcvt (dst : TileDst) (g : Guard) (rm : RM) (sat : Bool) (zd a : BitVec 6)
  | tmma (g : Guard) (ta tb : Bool) (a b s pos : BitVec 6)
  | tst (g : Guard) (tid s a : BitVec 6) (mask : BitVec 8)
  | tforce (g : Guard) (a : BitVec 6) (mask : BitVec 8)
  | tforceLink (g : Guard) (s pos : BitVec 6)
  | tdrop (g : Guard) (a : BitVec 6)
  | tmov (g : Guard) (zd a : BitVec 6)
  | chclose (g : Guard) (zd s : BitVec 6)
  -- LDS and STS (R160 to R164, R114 to R117)
  | lds (zx : Bool) (g : Guard) (sd : BitVec 6) (m : MAddr) (w : Width)
  | vld (g : Guard) (d : VOp) (m : MAddr) (gran : Gran) (rot : BitVec 6)
  | vldl (g : Guard) (d : VOp) (sbase : BitVec 6) (off : BitVec 20)
  | vgth (g : Guard) (d : VOp) (sbase : BitVec 6) (off : BitVec 20) (idx : VOp)
  | vldb (g : Guard) (d : VOp) (m : MAddr) (w : Width)
  | ldg (op : LdgOp) (g : Guard) (sc : Scope) (sd sa : BitVec 6)
  | sts (g : Guard) (sb : BitVec 6) (m : MAddr) (w : Width)
  | vst (g : Guard) (a : VOp) (m : MAddr) (gran : Gran) (rot : BitVec 6)
  | vstl (g : Guard) (a : VOp) (sbase : BitVec 6) (off : BitVec 20)
  | vsct (g : Guard) (a : VOp) (sbase : BitVec 6) (off : BitVec 20) (idx : VOp)
  | amol (x : Amo)
  | stg (w : Width) (g : Guard) (sc : Scope) (sa sb : BitVec 6)
  | amo (x : Amo) (sc : Scope)
  | red (op : RedOp) (g : Guard) (sc : Scope) (sa sb : BitVec 6)
  -- ASY (R130, R136 to R138, R141, R144, R305, R275, R289 to R291, R316 to R318)
  | cpy (x : AsD)
  | subs (x : AsD) (n : BitVec 5)
  | unsub (g : Guard) (cue : Bool) (sd : BitVec 6) (n : BitVec 5)
  | rrel (g : Guard) (cue : Bool) (sd : BitVec 6) (n : BitVec 5) (m : BitVec 8)
  | rfin (g : Guard) (cue : Bool) (sd : BitVec 6) (n : BitVec 5) (m : BitVec 8)
  | strb (x : AsD) (n : BitVec 5)
  | stru (g : Guard) (cue : Bool) (sd : BitVec 6) (n : BitVec 5)
  | qfence (g : Guard) (cue : Bool) (sd : BitVec 6) (mask : BitVec 6)
  | cttset (x : AsD) (clr : Bool) (n : BitVec 5)
  | cttrdy (g : Guard) (cue : Bool) (sd : BitVec 6) (n : BitVec 5)
  | cttrdyQ (g : Guard) (sd : BitVec 6) (n : BitVec 5)
  | chbuild (x : AsD) (sb : BitVec 6)
  | chsplice (x : AsD) (sb : BitVec 6) (pos : BitVec 8)
  | chresume (x : AsH)
  | chfree (x : AsH)
  | gload (x : AsD) (sb : BitVec 6) (cap : BitVec 11)
  | gstep (x : AsH)
  | gmask (words : Bool) (x : AsD) (sb : BitVec 6) (n : BitVec 8)
  -- SYN (R329, R350, R352, R346, R347, R371, R370, R372, R288, R199, R353, R349)
  | fence (g : Guard) (sc : Option Scope) (q : Option (BitVec 6)) (n : Bool)
  | waitT (g : Guard) (sa : BitVec 6) (n : BitVec 3)
  | waitGe (g : Guard) (sd sa sb : BitVec 6)
  | signal (g : Guard) (sd : BitVec 6) (b : BitVec 4)
  | bar (g : Guard) (sd : BitVec 6) (b : BitVec 4)
  | barSet (g : Guard) (sa : BitVec 6) (b : BitVec 4)
  | spawn (g : Guard) (sd sa : BitVec 6)
  | yield (g : Guard)
  | halt (g : Guard)
  | trap (g : Guard) (sa : BitVec 6) (code : BitVec 12)
  | tret (g : Guard)
  | cret (g : Guard)
  | rds (g : Guard) (sd : BitVec 6) (num : BitVec 12)
  | wrs (g : Guard) (sa : BitVec 6) (num : BitVec 12)
  | chstat (g : Guard) (sd sa : BitVec 6) (pos : BitVec 6)
  | chstatSlot (g : Guard) (sd : BitVec 6) (k : BitVec 3)
  | tidset (g : Guard) (n : BitVec 6) (sa : BitVec 6)
  | tidsetInv (g : Guard) (n : BitVec 6)
  | tidsetCb (g : Guard) (t : BitVec 2) (sa : BitVec 6)
  | frwait (g : Guard) (sa : BitVec 6)
  | frwaitFrame (g : Guard) (sa : BitVec 6)
  | cancel (g : Guard) (sa : BitVec 6)
  -- steps of the machine (spec/95). c is a CTXID [18:0], core a packed core id, pkg a package, m the place of a message
  -- in the list of messages in flight, fails how often a flit of it has failed.
  | bundleIssue
  | resultDelivery (c : Nat)
  | userTrapEntry (c : Nat)
  | firmwareTrapDelivery (c : Nat)
  | cueTaken (c : Nat)
  | preEmption (c : Nat)
  | taskResume (c : Nat)
  | taskPlacement (pkg : Nat)
  | primarySwitch (core : Nat)
  | secondaryPromotion (core : Nat)
  | dueCountEngineWait (c : Nat)
  | pinExpiry (c line : Nat)
  | asyncTrapDelivery (c : Nat)
  | ctxcmdResume (c : Nat)
  | ctxcmdDeliver (c cause : Nat)
  | ctxcmdDiscard (c : Nat)
  | faultRingRecord (pkg : Nat)
  | firmwareRegisterWrite (pkg : Nat) (off : FwPlace) (v : BitVec 1024)
  | migClear (pkg : Nat) (v : BitVec 64)
  | admitJob (pkg : Nat) (bytes : Nat) (v : BitVec 64) (firmware : Bool)
  | jobCapture (pkg : Nat)
  | memberCapture (m : Nat)
  | jobCompletionRound (pkg job : Nat)
  | spawnReceive (m : Nat)
  | spawnAck (m : Nat)
  | cancelPacket (m : Nat)
  | callSheetRelease (pkg job : Nat)
  | frameStart (pkg job : Nat)
  | retirementReport (m : Nat)
  | frameStartMessage (m : Nat)
  | engineOperationStart (c q : Nat)
  | engineOperationCompletion (c q : Nat)
  | copyFault (c : Nat)
  | enginePageFault (c q : Nat)
  | subscriptionFill (c n : Nat)
  | storerWrite (c n : Nat)
  | ringFault (c n : Nat)
  | streamPrefetch (c n : Nat)
  | streamPushPerform (c n : Nat)
  | streamElementFault (c n : Nat)
  | randomWordGeneration (c : Nat)
  | tokenBucketRefill (c : Nat)
  | transientRead (m : Nat)
  | transientWrite (m : Nat)
  | attemptTimeout (line holder : Nat)
  | forwardedRead (m : Nat)
  | forwardedWrite (m : Nat)
  | activation (m : Nat)
  | deactivation (m : Nat)
  | holderTokensArrive (m : Nat)
  | homeTokensArrive (m : Nat)
  | eviction (line holder : Nat)
  | belayRequest (m : Nat)
  | belayCompletion (m : Nat)
  | deactivationAcknowledged (m : Nat)
  | updateJoin (m : Nat)
  | updateMerge (line : Nat)
  | updateBufferEviction (die : Nat)
  | forcedMerge (pkg home : Nat)
  | tlbInvalidation (pkg job : Nat) (va len : Nat)
  | pageTableWalk (die job : Nat) (va : BitVec 64)
  | dieShutdown (die : Nat)
  | packageMachineCheck (pkg : Nat) (die : Nat)
  | contextStateError (c : Nat)
  | panelForce (c node panel : Nat)
  | tstStoreWrite (c node : Nat)
  | heldDemandProceed (core slot : Nat)
  | linkBinding (pkg num pos : Nat)
  | linkAdvance (core slot : Nat)
  | hopArrival (m : Nat)
  | chainFreeze (core slot : Nat)
  | closeDone (pkg num : Nat)
  | collectiveFiring (c n : Nat)
  | peerWrite (c n : Nat)
  | firingCompletion (c n : Nat)
  | deadlineReached (c n : Nat)
  | deadlineNotice (m : Nat)
  | packageUnreachable (pkg : Nat)
  | flitRetransmit (pkg port : Nat) (m : FlitFails)
  | frameCounterSync (pkg : Nat) (v : BitVec 64)
  | hostCxlAccess (pkg : Nat) (write : Option (BitVec 64)) (pa : Nat)
  | boot (pkg : Nat) (sigOk : Bool) (d0 d1 : BitVec 384) (d2 : BootConfig)
  | getVersion (pkg : SpdmTo)
  | getCapabilities (pkg : SpdmTo)
  | negotiateAlgorithms (pkg : SpdmTo)
  | getDigests (pkg : SpdmTo)
  | getCertificate (pkg : SpdmTo) (slot : Nat)
  | challenge (pkg : SpdmTo) (nonce : BitVec 256)
  | getMeasurements (pkg : SpdmTo) (index : Nat)
  | pldmMonitoring (pkg : Nat)
  | pldmFirmwareUpdate (pkg : Nat) (image : BitVec 384)
  | packageResetRequest (pkg : Nat)
  | powerCap (pkg watts : Nat)
  | thermalShutdown (die : Nat) (celsius : Nat)
  | packageReset (pkg : Nat)
  | hostFunctionReset (pkg : Nat)
  | linkPortReset (pkg port : Nat)
  | sidebandReset (pkg : Nat)
  deriving DecidableEq, Repr, Inhabited

end Sys2Proof
end

