-- ==== Sys2Proof/WellFormed.lean ====
section
/-! DEFINITION. Which instructions an encoding admits: operand classes, element types, rounding and immediate ranges.

A term that breaks one of these is refused by the decoder with ILLEGAL_OPERAND (R58, R64, R67). -/

namespace Sys2Proof

namespace ET

/-- Element width in bits (R204); 16 for an index, 8 for `b1`, whose guard granule is a byte. -/
def width : ET → Nat
  | i8 | n8 | e4m3 | e5m2 | e8m0 | b1 => 8
  | i16 | n16 | f16 | bf16 | cb16 => 16
  | i32 | n32 | f32 => 32
  | e2m1 => 4

/-- The set INT of R204. -/
def isInt : ET → Bool
  | i8 | n8 | i16 | n16 | i32 | n32 => true
  | _ => false

/-- The set FL of R204. -/
def isFl : ET → Bool
  | f32 | bf16 | f16 => true
  | _ => false

def isIntB (e : ET) : Bool := e.isInt || e == b1
def isCmp (e : ET) : Bool := e.isInt || e.isFl
def isBits (e : ET) : Bool := !(e == cb16 || e == b1)
def isCvt (e : ET) : Bool := e.isCmp || e == e4m3 || e == e5m2 || e == e2m1 || e == e8m0

/-- Signed integer types (R206). -/
def signed : ET → Bool
  | i8 | i16 | i32 => true
  | _ => false

end ET

namespace VOp

/-- A vector register. -/
def isV : VOp → Bool
  | v _ => true
  | _ => false

/-- A vector source of R203; `y6` and `y7` are reserved (R32). -/
def isSrc : VOp → Bool
  | v _ | q _ => true
  | y k => decide (k.toNat < 6)
  | p _ => false

/-- A vector destination of R203, with write-suppress allowed on registers alone (R34). -/
def isDst (ws : Bool) : VOp → Bool
  | v _ => true
  | q _ => !ws
  | _ => false

/-- An index operand of a gather or scatter (R163). -/
def isIdx : VOp → Bool
  | v _ => true
  | y k => decide (k.toNat < 6)
  | _ => false

end VOp

/-- Bytes of a width. -/
def Width.bytes : Width → Nat
  | w8 => 1
  | w16 => 2
  | w32 => 4
  | w64 => 8

/-- Compare-and-swap operations use sc (R116). -/
def AmoOp.isCas : AmoOp → Bool
  | cas | casw => true
  | _ => false

/-- Spaces of vector loads and stores (R161). -/
def Space.isVec : Space → Bool
  | lane => false
  | _ => true

/-- Special-register numbers of R37. -/
def sprNumbers : List Nat :=
  [0x000, 0x001, 0x002, 0x003, 0x004, 0x010, 0x011, 0x012, 0x020, 0x021, 0x030, 0x031, 0x032, 0x040, 0x041, 0x042] ++
  [0x050, 0x051, 0x052, 0x053, 0x054, 0x055, 0x056, 0x057, 0x058, 0x059, 0x05A, 0x060, 0x061, 0x062, 0x063, 0x070] ++
  [0x080, 0x090, 0x091, 0x0A0, 0x0A1, 0x0B0, 0x0C0, 0x0C1, 0x0C2, 0x0D0, 0x0E0, 0x0E1]

namespace WellFormed

def vAr (x : VAr) : Bool := x.d.isDst x.ws && x.a.isSrc && x.b.isSrc && x.et.isInt
def v2 (x : V2) (ok : ET → Bool) : Bool := x.d.isDst x.ws && x.a.isSrc && x.b.isSrc && ok x.et
def v1 (x : V1) (ok : ET → Bool) : Bool := x.d.isDst x.ws && x.a.isSrc && ok x.et
def vFl2 (x : VFl2) : Bool := x.d.isDst x.ws && x.a.isSrc && x.b.isSrc && x.et.isFl
def vFl3 (x : VFl3) : Bool := x.d.isDst x.ws && x.a.isSrc && x.b.isSrc && x.c.isSrc && x.et.isFl
def vFn (x : VFn) : Bool := x.d.isDst x.ws && x.a.isSrc
def vRed (x : VRed) : Bool := x.d.isDst x.ws && x.a.isSrc && x.et.isCmp
def amo (x : Amo) : Bool := x.op.isCas || x.sc == 0#6
/-- Branch offsets of R53. -/
def off (o : BitVec 32) : Bool := o.extractLsb' 0 3 == 0#3
/-- An accumulating maximum or minimum reads its destination (log entry 8). -/
def vMi (x : VMi) : Bool := x.d.isDst x.ws && x.a.isSrc && (!x.acc || x.d.isV)

/-- Parts of a conversion (R218). -/
def parts (s d : ET) : Nat := max s.width d.width / min s.width d.width

def vcvt (x : V1) (dst : ET) (rm : RM) (part : BitVec 3) : Bool :=
  v1 x ET.isCvt && dst.isCvt && decide (part.toNat < parts x.et dst) &&
  !((x.et == .e8m0 && dst.isInt) || (dst == .e8m0 && x.et.isInt)) && (rm == .rne || !(x.et.isInt && dst.isInt))

end WellFormed

open WellFormed in
/-- The terms that stand for an encoding. The machine's own steps have none. -/
def Instr.wf : Instr → Bool
  | .br _ _ _ _ o | .jmp _ o | .call _ o | .loop _ o | .brp _ _ _ o => off o
  | .vadd x | .vsub x | .vmul x => vAr x
  | .vmulh x | .vabsd x | .vmin x | .vmax x | .vshl x | .vshr x | .vsar x => v2 x ET.isInt
  | .vmac x => x.d.isDst x.ws && x.a.isSrc && x.b.isSrc && x.c.isSrc && x.et.isInt
  | .vand x | .vor x | .vxor x | .vandn x => v2 x ET.isIntB
  | .vshi _ x n => v1 x ET.isInt && decide (n.toNat < x.et.width)
  | .vcmp c _ _ _ a b et => a.isSrc && b.isSrc && et.isCmp && (et.isFl || !(c == .uo || c == .ord))
  | .pcnt _ _ _ _ _ et => et.isInt
  | .pmovV2P _ _ _ a et => a.isSrc && et.isInt
  | .pmovP2V _ _ ws d _ et => d.isDst ws && et.isInt
  | .vsel x _ => v2 x ET.isBits
  | .vmov x => v1 x ET.isBits
  | .vbcst imm _ _ ws d s et => d.isDst ws && et.isBits && (imm.isNone || s == 0#6)
  | .vext _ _ _ _ a idx et => a.isSrc && et.isBits && decide (idx.toNat < 2048 / et.width)
  | .vins x _ idx => v1 x ET.isBits && decide (idx.toNat < 2048 / x.et.width)
  | .vidx _ _ ws d _ _ et => d.isDst ws && et.isInt
  | .vfadd x | .vfsub x | .vfmul x | .vscale x _ => vFl2 x
  | .vfma x | .vfms x => vFl3 x
  | .vfmin x | .vfmax x => v2 x ET.isFl
  | .vfabs x | .vfneg x => v1 x ET.isFl
  | .vrcpa x | .vrsqa x | .vexp2 x | .vlog2 x | .vgkey x _ _ => vFn x
  | .vcvt x dst rm _ part => WellFormed.vcvt x dst rm part
  | .vcbdec _ _ ws d a _ dst _ grp => d.isDst ws && a.isSrc && (dst == .f32 || decide (grp.toNat < 8))
  | .vtlu x c => v2 x ET.isBits && c.all VOp.isSrc
  | .vrot x _ _ => v1 x ET.isBits
  | .vshuf x mode c => v2 x ET.isBits && c.all VOp.isSrc && ((mode == .table) == c.isSome)
  | .vredsum x sat => vRed x && (!sat || x.et.isInt)
  | .vredmax x | .vredmin x => vRed x
  | .vmaxi x | .vmini x => vMi x
  | .vdot _ _ ws d a b c ta tb =>
    d.isDst ws && a.isSrc && b.isSrc && c.isSrc && (ta == .e4m3 || ta == .e5m2) && (tb == .e4m3 || tb == .e5m2)
  | .tew op _ rm _ _ _ => rm == .rne || !(op == .min || op == .max)
  | .tews op _ rm _ _ _ => rm == .rne || !(op == .min || op == .max)
  | .tst _ _ _ _ mask | .tforce _ _ mask => mask != 0#8
  | .lds zx _ _ _ w => !zx || w != .w64
  | .vld _ d m _ _ => d.isV && m.space.isVec
  | .vldl _ d _ _ => d.isV
  | .vgth _ d _ _ idx => d.isV && idx.isIdx
  | .vldb _ d m _ => d.isV && m.space.isVec
  | .vst _ a m _ _ => a.isSrc && m.space.isVec
  | .vstl _ a _ _ => a.isSrc
  | .vsct _ a _ _ idx => a.isSrc && idx.isIdx
  | .amol x | .amo x _ => WellFormed.amo x
  | .subs _ n | .unsub _ _ _ n | .strb _ n | .stru _ _ _ n => decide (n.toNat < 8)
  | .rrel _ _ _ n m | .rfin _ _ _ n m => decide (n.toNat < 8) && m != 0#8
  | .qfence _ _ _ mask => mask != 0#6
  | .gload _ _ cap => cap != 0#11 && decide (cap.toNat ≤ 1024)
  | .gmask _ _ _ n => n != 0#8 && decide (n.toNat ≤ 128)
  | .fence _ sc q n => (sc.isSome || q.isSome || n) && q.all (· != 0#6)
  | .waitT _ _ n => decide (n.toNat < 6)
  | .rds _ _ n | .wrs _ _ n => sprNumbers.contains n.toNat
  | .nop _ | .add _ | .sub _ | .and _ | .or _ | .xor _ | .andn _ | .shl _ | .shr _ | .sar _ | .rol _ | .min _ | .max _
  | .mul _ | .mulh _ _ | .div _ | .rem _ | .clz _ | .ctz _ | .popc _ | .ext _ _ _ | .set _ _ | .csel _ _
  | .setp _ _ _ _ _ | .addi _ | .andi _ | .ori _ | .xori _ | .shli _ | .shri _ | .sari _ | .muli _ | .movi _ _ _
  | .movhi _ | .seti _ _ | .jr _ _ _ | .callr _ _ _ | .pand _ | .por _ | .pxor _ | .pandn _ | .pmov _ _ _ _
  | .tld _ _ _ _ | .tfn _ _ _ _ | .tmap _ _ _ _ | .tcvt _ _ _ _ _ _ | .tmma _ _ _ _ _ _ _ | .tforceLink _ _ _
  | .tdrop _ _ | .tmov _ _ _ | .chclose _ _ _ | .ldg _ _ _ _ _ | .sts _ _ _ _ | .stg _ _ _ _ _ | .red _ _ _ _ _
  | .cpy _ | .cttset _ _ _ | .cttrdy _ _ _ _ | .cttrdyQ _ _ _ | .chbuild _ _ | .chsplice _ _ _ | .chresume _
  | .chfree _ | .gstep _ | .waitGe _ _ _ _ | .signal _ _ _ | .bar _ _ _ | .barSet _ _ _ | .spawn _ _ _ | .yield _
  | .halt _ | .trap _ _ _ | .tret _ | .cret _ | .chstat _ _ _ _ | .chstatSlot _ _ _ | .tidset _ _ _ | .tidsetInv _ _
  | .tidsetCb _ _ _ | .frwait _ _ | .frwaitFrame _ _ | .cancel _ _ => true
  | .bundleIssue | .resultDelivery _ | .userTrapEntry _ | .firmwareTrapDelivery _ | .cueTaken _ | .preEmption _
  | .taskResume _ | .taskPlacement _ | .primarySwitch _ | .secondaryPromotion _ | .dueCountEngineWait _ | .pinExpiry _ _
  | .asyncTrapDelivery _ | .ctxcmdResume _ | .ctxcmdDeliver _ _ | .ctxcmdDiscard _ | .faultRingRecord _
  | .firmwareRegisterWrite _ _ _ | .migClear _ _ | .admitJob _ _ _ _ | .jobCapture _ | .memberCapture _
  | .jobCompletionRound _ _ | .spawnReceive _ | .spawnAck _ | .cancelPacket _ | .callSheetRelease _ _ | .frameStart _ _
  | .retirementReport _ | .frameStartMessage _ | .engineOperationStart _ _ | .engineOperationCompletion _ _
  | .copyFault _ | .enginePageFault _ _ | .subscriptionFill _ _ | .storerWrite _ _ | .ringFault _ _
  | .streamPrefetch _ _ | .streamPushPerform _ _ | .streamElementFault _ _ | .randomWordGeneration _
  | .tokenBucketRefill _ | .transientRead _ | .transientWrite _ | .attemptTimeout _ _ | .forwardedRead _
  | .forwardedWrite _ | .activation _ | .deactivation _ | .holderTokensArrive _ | .homeTokensArrive _ | .eviction _ _
  | .belayRequest _ | .belayCompletion _ | .deactivationAcknowledged _ | .updateJoin _ | .updateMerge _
  | .updateBufferEviction _ | .forcedMerge _ _ | .tlbInvalidation _ _ _ _ | .pageTableWalk _ _ _ | .dieShutdown _
  | .packageMachineCheck _ _ | .contextStateError _ | .panelForce _ _ _ | .tstStoreWrite _ _ | .heldDemandProceed _ _
  | .linkBinding _ _ _ | .linkAdvance _ _ | .hopArrival _ | .chainFreeze _ _ | .closeDone _ _ | .collectiveFiring _ _
  | .peerWrite _ _ | .firingCompletion _ _ | .deadlineReached _ _ | .deadlineNotice _ | .packageUnreachable _
  | .flitRetransmit _ _ _ | .frameCounterSync _ _ | .hostCxlAccess _ _ _ | .boot _ _ _ _ _ | .getVersion _
  | .getCapabilities _ | .negotiateAlgorithms _ | .getDigests _ | .getCertificate _ _ | .challenge _ _
  | .getMeasurements _ _ | .pldmMonitoring _ | .pldmFirmwareUpdate _ _ | .packageResetRequest _ | .powerCap _ _
  | .thermalShutdown _ _ | .packageReset _ | .hostFunctionReset _ | .linkPortReset _ _ | .sidebandReset _ => false

end Sys2Proof
end

