-- ==== Sys2Proof/Decode.lean ====
section
/-! DEFINITION. The decoder of syllables, total on 64-bit words, and the encoder beside it (R47 to R67).

The decoder reads every field that an entry uses and then accepts the word only if the encoder gives the same word back
for the term it read: so a nonzero zero field or a field the entry does not use is refused (R67). -/

namespace Sys2Proof

/-! ## Codes of the minor fields -/

def ET.code : ET → BitVec 4
  | i8 => 0 | n8 => 1 | i16 => 2 | n16 => 3 | i32 => 4 | n32 => 5 | f32 => 6 | bf16 => 7 | f16 => 8 | e4m3 => 9
  | e5m2 => 10 | e2m1 => 11 | cb16 => 12 | e8m0 => 13 | b1 => 14

/-- R64. -/
def ET.ofCode (c : Nat) : Option ET :=
  [ET.i8, .n8, .i16, .n16, .i32, .n32, .f32, .bf16, .f16, .e4m3, .e5m2, .e2m1, .cb16, .e8m0, .b1][c]?

def RM.code : RM → BitVec 3
  | rne => 0 | rtz => 1 | rdn => 2 | rup => 3 | rna => 4 | sr => 5 | dyn => 6

/-- R64. -/
def RM.ofCode (c : Nat) : Option RM := [RM.rne, .rtz, .rdn, .rup, .rna, .sr, .dyn][c]?

def Cond.code : Cond → Nat
  | eq => 0 | ne => 1 | lt => 2 | ge => 3 | ltu => 4 | geu => 5

/-- R61. -/
def Cond.ofCode (c : Nat) : Option Cond := [Cond.eq, .ne, .lt, .ge, .ltu, .geu][c]?

def VCond.code : VCond → Nat
  | eq => 0 | ne => 1 | lt => 2 | le => 3 | gt => 4 | ge => 5 | uo => 6 | ord => 7

/-- R210. -/
def VCond.ofCode (c : Nat) : Option VCond := [VCond.eq, .ne, .lt, .le, .gt, .ge, .uo, .ord][c]?

def Space.code : Space → BitVec 3
  | spad => 0 | lane => 1 | cluster => 2 | die => 3

/-- R60. -/
def Space.ofCode (c : Nat) : Option Space := [Space.spad, .lane, .cluster, .die][c]?

def Scope.code : Scope → BitVec 2
  | dom => 0 | pkg => 1 | die => 2

/-- R60. -/
def Scope.ofCode (c : Nat) : Option Scope := [Scope.dom, .pkg, .die][c]?

def Width.code : Width → Nat
  | w8 => 0 | w16 => 1 | w32 => 2 | w64 => 3

/-- R59, R115. -/
def Width.ofCode (c : Nat) : Option Width := [Width.w8, .w16, .w32, .w64][c]?

def Gran.code : Gran → BitVec 2
  | g32 => 0 | g16 => 1 | g8 => 2

/-- R161. -/
def Gran.ofCode (c : Nat) : Option Gran := [Gran.g32, .g16, .g8][c]?

def MulhMode.code : MulhMode → BitVec 5
  | ss => 0 | uu => 1 | su => 2

def MulhMode.ofCode (c : Nat) : Option MulhMode := [MulhMode.ss, .uu, .su][c]?

def BrpMode.code : BrpMode → BitVec 6
  | any => 0 | all => 1 | none => 2

def BrpMode.ofCode (c : Nat) : Option BrpMode := [BrpMode.any, .all, .none][c]?

def ShiKind.code : ShiKind → BitVec 10
  | shl => 0 | shr => 1 | sar => 2 | rol => 3

def ShiKind.ofCode (c : Nat) : Option ShiKind := [ShiKind.shl, .shr, .sar, .rol][c]?

def ScaleBlock.code : ScaleBlock → BitVec 10
  | b1 => 0 | b16 => 1 | b32 => 2

def ScaleBlock.ofCode (c : Nat) : Option ScaleBlock := [ScaleBlock.b1, .b16, .b32][c]?

def CbDst.code : CbDst → BitVec 10
  | f32 => 0 | bf16 => 1 | f16 => 2

def CbDst.ofCode (c : Nat) : Option CbDst := [CbDst.f32, .bf16, .f16][c]?

def ShufMode.code : ShufMode → BitVec 10
  | table => 0 | lo => 1 | hi => 2 | even => 3 | odd => 4

def ShufMode.ofCode (c : Nat) : Option ShufMode := [ShufMode.table, .lo, .hi, .even, .odd][c]?

def LdgOp.code : LdgOp → BitVec 4
  | b => 0 | bu => 1 | h => 2 | hu => 3 | w => 4 | wu => 5 | d => 6

/-- R114. -/
def LdgOp.ofCode (c : Nat) : Option LdgOp := [LdgOp.b, .bu, .h, .hu, .w, .wu, .d][c]?

def AmoOp.code : AmoOp → BitVec 4
  | add => 0 | and => 1 | or => 2 | xor => 3 | min => 4 | max => 5 | minn => 6 | maxn => 7 | fadd => 8 | swap => 9
  | cas => 10 | casw => 11

/-- R116. -/
def AmoOp.ofCode (c : Nat) : Option AmoOp :=
  [AmoOp.add, .and, .or, .xor, .min, .max, .minn, .maxn, .fadd, .swap, .cas, .casw][c]?

def RedOp.code : RedOp → BitVec 4
  | addI32 => 0 | addI64 => 1 | addF32 => 2 | minI32 => 3 | maxI32 => 4 | minF32 => 5 | maxF32 => 6

/-- R117. -/
def RedOp.ofCode (c : Nat) : Option RedOp := [RedOp.addI32, .addI64, .addF32, .minI32, .maxI32, .minF32, .maxF32][c]?

def TewOp.code : TewOp → BitVec 4
  | add => 0 | sub => 1 | mul => 2 | min => 3 | max => 4

def TewOp.ofCode (c : Nat) : Option TewOp := [TewOp.add, .sub, .mul, .min, .max][c]?

def TewsOp.code : TewsOp → BitVec 4
  | add => 0 | sub => 1 | rsub => 2 | mul => 3 | min => 4 | max => 5

def TewsOp.ofCode (c : Nat) : Option TewsOp := [TewsOp.add, .sub, .rsub, .mul, .min, .max][c]?

def TfnOp.code : TfnOp → BitVec 4
  | abs => 0 | neg => 1 | relu => 2 | exp2 => 3 | rcpa => 4 | rsqa => 5 | log2 => 6

def TfnOp.ofCode (c : Nat) : Option TfnOp := [TfnOp.abs, .neg, .relu, .exp2, .rcpa, .rsqa, .log2][c]?

def TileDst.code : TileDst → BitVec 4
  | f32 => 6 | bf16 => 7 | f16 => 8 | e4m3 => 9 | e5m2 => 10 | e2m1 => 11

/-- R264. -/
def TileDst.ofCode (c : Nat) : Option TileDst :=
  if c < 6 then none else [TileDst.f32, .bf16, .f16, .e4m3, .e5m2, .e2m1][c - 6]?

/-- R58. -/
def VOp.code : VOp → BitVec 7
  | v k => 0#2 ++ k
  | y k => 4#4 ++ k
  | q k => 6#4 ++ k
  | p k => 5#3 ++ k

/-- R58: none for a reserved encoding. -/
def VOp.ofCode (c : BitVec 7) : Option VOp :=
  if c.extractLsb' 5 2 = 0#2 then some (.v (c.extractLsb' 0 5))
  else if c.extractLsb' 3 4 = 4#4 then some (.y (c.extractLsb' 0 3))
  else if c.extractLsb' 3 4 = 6#4 then some (.q (c.extractLsb' 0 3))
  else if c.extractLsb' 4 3 = 5#3 then some (.p (c.extractLsb' 0 4))
  else none

/-- A predicate-class field. -/
def VOp.pred (k : BitVec 4) : BitVec 7 := (VOp.p k).code

/-- The predicate a field names. -/
def VOp.predOf (c : BitVec 7) : Option (BitVec 4) :=
  match VOp.ofCode c with
  | some (.p k) => some k
  | _ => none

def VSlot.code : VSlot → BitVec 3
  | va => 1 | vb => 2

/-! ## The ten body formats (R56) -/

namespace Enc

/-- A bit as a field. -/
def bit (b : Bool) : BitVec 1 := BitVec.ofBool b

/-- The header over a body (R47). -/
def word (bs : Bool) (slot : BitVec 3) (opc : Nat) (g : Guard) (body : BitVec 47) : Word :=
  bit bs ++ slot ++ BitVec.ofNat 8 opc ++ bit g.neg ++ g.p ++ body

def sr (sd sa sb sc : BitVec 6) (fn : BitVec 5) : BitVec 47 := sd ++ sa ++ sb ++ sc ++ fn ++ 0#18
def si (sd sa : BitVec 6) (imm : BitVec 32) (fn : BitVec 3) : BitVec 47 := sd ++ sa ++ imm ++ fn
def sb (sa sb : BitVec 6) (cond : BitVec 3) (off : BitVec 32) : BitVec 47 := sa ++ sb ++ cond ++ off
def vr (d : BitVec 7) (ws : Bool) (a b c : BitVec 7) (et : BitVec 4) (rm : BitVec 3) (sat : Bool) (fn : BitVec 10) :
    BitVec 47 := d ++ bit ws ++ a ++ b ++ c ++ et ++ rm ++ bit sat ++ fn
def vx (d : BitVec 7) (ws : Bool) (a : BitVec 7) (s : BitVec 6) (imm : BitVec 12) (et : BitVec 4) (fn : BitVec 10) :
    BitVec 47 := d ++ bit ws ++ a ++ s ++ imm ++ et ++ fn
def ms (data : BitVec 7) (sbase : BitVec 6) (off : BitVec 20) (space : BitVec 3) (width : BitVec 3) (fn : BitVec 8) :
    BitVec 47 := data ++ sbase ++ off ++ space ++ width ++ fn
def mg (sd sa sb sc : BitVec 6) (op : BitVec 4) (scope : BitVec 2) : BitVec 47 :=
  sd ++ sa ++ sb ++ sc ++ op ++ scope ++ 0#17
def tl (zd a : BitVec 6) (at_ : Bool) (b : BitVec 6) (bt : Bool) (s pos : BitVec 6) (op : BitVec 4)
    (flags : BitVec 11) : BitVec 47 := zd ++ a ++ bit at_ ++ b ++ bit bt ++ s ++ pos ++ op ++ flags
def as (sa sb sd : BitVec 6) (idx : BitVec 5) (imm : BitVec 8) (cue : Bool) (flags : BitVec 15) : BitVec 47 :=
  sa ++ sb ++ sd ++ idx ++ imm ++ bit cue ++ flags
def sy (sd sa sb : BitVec 6) (imm : BitVec 12) (fn : BitVec 17) : BitVec 47 := sd ++ sa ++ sb ++ imm ++ fn

/-! Shapes that several entries share. -/

def scR3 (bs : Bool) (opc : Nat) (x : ScR3) (fn : BitVec 5) : Word := word bs 0 opc x.g (sr x.sd x.sa x.sb 0 fn)
def scR3u (bs : Bool) (opc : Nat) (x : ScR3u) : Word :=
  word bs 0 opc x.g (sr x.sd x.sa x.sb 0 (0#4 ++ bit x.u))
def scR2 (bs : Bool) (opc : Nat) (x : ScR2) : Word := word bs 0 opc x.g (sr x.sd x.sa 0 0 0)
def scI (bs : Bool) (opc : Nat) (x : ScI) (fn : BitVec 3) : Word := word bs 0 opc x.g (si x.sd x.sa x.imm fn)
def scSh (bs : Bool) (opc : Nat) (x : ScSh) : Word := word bs 0 opc x.g (si x.sd x.sa (0#26 ++ x.n) 0)
def vAr (bs : Bool) (opc : Nat) (x : VAr) : Word :=
  word bs x.sl.code opc x.g (vr x.d.code x.ws x.a.code x.b.code 0 x.et.code 0 x.sat 0)
def v2 (bs : Bool) (opc : Nat) (x : V2) (c : BitVec 7) (fn : BitVec 10) : Word :=
  word bs x.sl.code opc x.g (vr x.d.code x.ws x.a.code x.b.code c x.et.code 0 false fn)
def v1 (bs : Bool) (opc : Nat) (x : V1) : Word :=
  word bs x.sl.code opc x.g (vr x.d.code x.ws x.a.code 0 0 x.et.code 0 false 0)
def v1x (bs : Bool) (opc : Nat) (x : V1) (s : BitVec 6) (imm : BitVec 12) (fn : BitVec 10) : Word :=
  word bs x.sl.code opc x.g (vx x.d.code x.ws x.a.code s imm x.et.code fn)
def vFl2 (bs : Bool) (opc : Nat) (x : VFl2) (fn : BitVec 10) : Word :=
  word bs x.sl.code opc x.g (vr x.d.code x.ws x.a.code x.b.code 0 x.et.code x.rm.code x.sat fn)
def vFl3 (bs : Bool) (opc : Nat) (x : VFl3) : Word :=
  word bs x.sl.code opc x.g (vr x.d.code x.ws x.a.code x.b.code x.c.code x.et.code x.rm.code x.sat 0)
def p3 (bs : Bool) (opc : Nat) (x : P3) : Word :=
  word bs x.sl.code opc x.g (vr (VOp.pred x.d) false (VOp.pred x.a) (VOp.pred x.b) 0 0 0 false 0)
def vFn (bs : Bool) (opc : Nat) (x : VFn) : Word :=
  word bs x.sl.code opc x.g (vr x.d.code x.ws x.a.code 0 0 ET.f32.code 0 false 0)
def vRed (bs : Bool) (opc : Nat) (x : VRed) (sat : Bool) : Word :=
  word bs x.sl.code opc x.g (vr x.d.code x.ws x.a.code 0 (VOp.pred x.pm) x.et.code 0 sat 0)
def vMi (bs : Bool) (opc : Nat) (x : VMi) : Word :=
  word bs x.sl.code opc x.g (vx x.d.code x.ws x.a.code x.s (0#8 ++ x.pm) ET.f32.code (0#9 ++ bit x.acc))
def amo (bs : Bool) (opc : Nat) (x : Amo) (sc : BitVec 2) : Word :=
  word bs 5 opc x.g (mg x.sd x.sa x.sb x.sc x.op.code sc)
def asD (bs : Bool) (opc : Nat) (x : AsD) (sb : BitVec 6) (idx : BitVec 5) (imm : BitVec 8) (flags : BitVec 15) : Word :=
  word bs 6 opc x.g (as x.sa sb x.sd idx imm x.cue flags)
def asH (bs : Bool) (opc : Nat) (x : AsH) : Word := word bs 6 opc x.g (as 0 x.sb x.sd 0 0 x.cue 0)
def asN (bs : Bool) (opc : Nat) (g : Guard) (cue : Bool) (sd : BitVec 6) (n : BitVec 5) (m : BitVec 8) : Word :=
  word bs 6 opc g (as 0 0 sd n m cue 0)
def tile (bs : Bool) (opc : Nat) (g : Guard) (zd a b s : BitVec 6) (op : BitVec 4) (rm : RM) (sat : Bool) : Word :=
  word bs 3 opc g (tl zd a false b false s (0#5 ++ bit sat) op (rm.code ++ 0#8))
def syn (bs : Bool) (opc : Nat) (g : Guard) (sd sa sb : BitVec 6) (imm : BitVec 12) (fn : BitVec 17) : Word :=
  word bs 7 opc g (sy sd sa sb imm fn)
def mem (bs : Bool) (slot : BitVec 3) (opc : Nat) (g : Guard) (data : BitVec 7) (m : MAddr) (w : BitVec 3)
    (fn : BitVec 8) : Word := word bs slot opc g (ms data m.sbase m.off m.space.code w fn)
def br (bs : Bool) (opc : Nat) (g : Guard) (sa sb_ : BitVec 6) (cond : BitVec 3) (off : BitVec 32) : Word :=
  word bs 0 opc g (sb sa sb_ cond off)

end Enc

/-- The pad syllable (R51). -/
def padWord : Word := BitVec.allOnes 64

open Enc in
/-- The word of an instruction, with its bundle-start bit (R47, R56, R65 and the entries). The machine's own steps have no
encoding and give the pad. -/
def encode (bs : Bool) : Instr → Word
  | .nop g => word bs 0 0x00 g 0
  | .add x => scR3 bs 0x01 x 0
  | .sub x => scR3 bs 0x02 x 0
  | .and x => scR3 bs 0x03 x 0
  | .or x => scR3 bs 0x04 x 0
  | .xor x => scR3 bs 0x05 x 0
  | .andn x => scR3 bs 0x06 x 0
  | .shl x => scR3 bs 0x07 x 0
  | .shr x => scR3 bs 0x08 x 0
  | .sar x => scR3 bs 0x09 x 0
  | .rol x => scR3 bs 0x0A x 0
  | .min x => scR3u bs 0x0B x
  | .max x => scR3u bs 0x0C x
  | .mul x => scR3 bs 0x0D x 0
  | .mulh m x => scR3 bs 0x0E x m.code
  | .div x => scR3u bs 0x0F x
  | .rem x => scR3u bs 0x10 x
  | .clz x => scR2 bs 0x11 x
  | .ctz x => scR2 bs 0x12 x
  | .popc x => scR2 bs 0x13 x
  | .ext sg x sc => word bs 0 0x14 x.g (sr x.sd x.sa x.sb sc (0#4 ++ bit sg))
  | .set c x => scR3 bs 0x15 x (BitVec.ofNat 5 c.code)
  | .csel x sc => word bs 0 0x16 x.g (sr x.sd x.sa x.sb sc 0)
  | .setp c g pd sa sb => word bs 0 0x17 g (sr (0#2 ++ pd) sa sb 0 (BitVec.ofNat 5 c.code))
  | .addi x => scI bs 0x20 x 0
  | .andi x => scI bs 0x21 x 0
  | .ori x => scI bs 0x22 x 0
  | .xori x => scI bs 0x23 x 0
  | .shli x => scSh bs 0x24 x
  | .shri x => scSh bs 0x25 x
  | .sari x => scSh bs 0x26 x
  | .muli x => scI bs 0x27 x 0
  | .movi g sd imm => word bs 0 0x28 g (si sd 0 imm 0)
  | .movhi x => scI bs 0x29 x 0
  | .seti c x => scI bs 0x2A x (BitVec.ofNat 3 c.code)
  | .br c g sa sb o => br bs 0x40 g sa sb (BitVec.ofNat 3 c.code) o
  | .jmp g o => br bs 0x41 g 0 0 0 o
  | .call g o => br bs 0x42 g 0 0 0 o
  | .jr g sa o => br bs 0x43 g sa 0 0 o
  | .callr g sa o => br bs 0x44 g sa 0 0 o
  | .loop g o => br bs 0x45 g 0 0 0 o
  | .brp m g p o => br bs 0x46 g (0#2 ++ p) m.code 0 o
  | .vadd x => vAr bs 0x01 x
  | .vsub x => vAr bs 0x02 x
  | .vmul x => vAr bs 0x03 x
  | .vmulh x => v2 bs 0x04 x 0 0
  | .vmac x => word bs x.sl.code 0x05 x.g (vr x.d.code x.ws x.a.code x.b.code x.c.code x.et.code 0 x.sat 0)
  | .vabsd x => v2 bs 0x06 x 0 0
  | .vmin x => v2 bs 0x07 x 0 0
  | .vmax x => v2 bs 0x08 x 0 0
  | .vand x => v2 bs 0x10 x 0 0
  | .vor x => v2 bs 0x11 x 0 0
  | .vxor x => v2 bs 0x12 x 0 0
  | .vandn x => v2 bs 0x13 x 0 0
  | .vshl x => v2 bs 0x14 x 0 0
  | .vshr x => v2 bs 0x15 x 0 0
  | .vsar x => v2 bs 0x16 x 0 0
  | .vshi k x n => v1x bs 0x17 x 0 n k.code
  | .vcmp c g sl d a b et =>
    word bs sl.code 0x20 g (vr (VOp.pred d) false a.code b.code 0 et.code 0 false (BitVec.ofNat 10 c.code))
  | .pand x => p3 bs 0x21 x
  | .por x => p3 bs 0x22 x
  | .pxor x => p3 bs 0x23 x
  | .pandn x => p3 bs 0x24 x
  | .pcnt f g sl sd a et => word bs sl.code 0x25 g (vx 0 false (VOp.pred a) sd 0 et.code (0#9 ++ bit f))
  | .pmov g sl d a => word bs sl.code 0x26 g (vr (VOp.pred d) false (VOp.pred a) 0 0 0 0 false 0)
  | .pmovV2P g sl d a et => word bs sl.code 0x26 g (vr (VOp.pred d) false a.code 0 0 et.code 0 false 1)
  | .pmovP2V g sl ws d a et => word bs sl.code 0x26 g (vr d.code ws (VOp.pred a) 0 0 et.code 0 false 2)
  | .vsel x pc => v2 bs 0x28 x (VOp.pred pc) 0
  | .vmov x => v1 bs 0x29 x
  | .vbcst imm g sl ws d s et =>
    word bs sl.code 0x2A g (vx d.code ws 0 s (imm.getD 0) et.code (0#9 ++ bit imm.isSome))
  | .vext sg g sl sd a idx et => word bs sl.code 0x2B g (vx 0 false a.code sd idx et.code (0#9 ++ bit sg))
  | .vins x s idx => v1x bs 0x2C x s idx 0
  | .vidx g sl ws d s step et => word bs sl.code 0x2D g (vx d.code ws 0 s step et.code 0)
  | .vfadd x => vFl2 bs 0x30 x 0
  | .vfsub x => vFl2 bs 0x31 x 0
  | .vfmul x => vFl2 bs 0x32 x 0
  | .vfma x => vFl3 bs 0x33 x
  | .vfms x => vFl3 bs 0x34 x
  | .vfmin x => v2 bs 0x35 x 0 0
  | .vfmax x => v2 bs 0x36 x 0 0
  | .vfabs x => v1 bs 0x37 x
  | .vfneg x => v1 bs 0x38 x
  | .vrcpa x => vFn bs 0x40 x
  | .vrsqa x => vFn bs 0x41 x
  | .vexp2 x => vFn bs 0x42 x
  | .vlog2 x => vFn bs 0x43 x
  | .vgkey x s pm => word bs x.sl.code 0x44 x.g (vx x.d.code x.ws x.a.code s (0#8 ++ pm) ET.f32.code 0)
  | .vcvt x dst rm sat part =>
    word bs x.sl.code 0x50 x.g
      (vr x.d.code x.ws x.a.code 0 0 x.et.code rm.code sat (0#3 ++ part ++ dst.code))
  | .vcbdec g sl ws d a s dst t grp =>
    word bs sl.code 0x51 g (vx d.code ws a.code s (0#6 ++ grp ++ t) ET.cb16.code dst.code)
  | .vscale x blk => vFl2 bs 0x52 x blk.code
  | .vtlu x c => v2 bs 0x60 x ((c.map VOp.code).getD 0) (0#9 ++ bit c.isNone)
  | .vrot x s k => v1x bs 0x61 x s k 0
  | .vshuf x mode c => v2 bs 0x62 x ((c.map VOp.code).getD 0) mode.code
  | .vredsum x sat => vRed bs 0x70 x sat
  | .vredmax x => vRed bs 0x71 x false
  | .vredmin x => vRed bs 0x72 x false
  | .vmaxi x => vMi bs 0x73 x
  | .vmini x => vMi bs 0x74 x
  | .vdot g sl ws d a b c ta tb =>
    word bs sl.code 0x78 g (vr d.code ws a.code b.code c.code ta.code 0 false (0#6 ++ tb.code))
  | .tld g zd tid s => word bs 3 0x01 g (tl zd tid true 0 false s 0 0 0)
  | .tew op g rm zd a b => tile bs 0x02 g zd a b 0 op.code rm false
  | .tews op g rm zd a s => tile bs 0x03 g zd a 0 s op.code rm false
  | .tfn op g zd a => tile bs 0x04 g zd a 0 0 op.code .rne false
  | .tmap g zd a s => tile bs 0x05 g zd a 0 s 0 .rne false
  | .tcvt dst g rm sat zd a => tile bs 0x06 g zd a 0 0 dst.code rm sat
  | .tmma g ta tb a b s pos => word bs 3 0x07 g (tl 0 a false b false s pos 0 (bit ta ++ bit tb ++ 0#9))
  | .tst g tid s a mask => word bs 3 0x08 g (tl 0 a false tid true s 0 0 (0#3 ++ mask))
  | .tforce g a mask => word bs 3 0x09 g (tl 0 a false 0 false 0 0 0 (0#3 ++ mask))
  | .tforceLink g s pos => word bs 3 0x09 g (tl 0 0 false 0 false s pos 1 0)
  | .tdrop g a => word bs 3 0x0A g (tl 0 a false 0 false 0 0 0 0)
  | .tmov g zd a => word bs 3 0x0B g (tl zd a false 0 false 0 0 0 0)
  | .chclose g zd s => word bs 3 0x0C g (tl zd 0 false 0 false s 0 0 0)
  | .lds zx g sd m w => mem bs 4 0x01 g (sd ++ 0#1) m (BitVec.ofNat 3 w.code) (0#7 ++ bit zx)
  | .vld g d m gr rot => mem bs 4 0x02 g d.code m 4 (rot ++ gr.code)
  | .vldl g d b o => word bs 4 0x03 g (ms d.code b o 1 4 0)
  | .vgth g d b o idx => word bs 4 0x04 g (ms d.code b o 0 2 (0#1 ++ idx.code))
  | .vldb g d m w => mem bs 4 0x05 g d.code m (BitVec.ofNat 3 w.code) 0
  | .ldg op g sc sd sa => word bs 4 0x06 g (mg sd sa 0 0 op.code sc.code)
  | .sts g sb m w => mem bs 5 0x01 g (sb ++ 0#1) m (BitVec.ofNat 3 w.code) 0
  | .vst g a m gr rot => mem bs 5 0x02 g a.code m 4 (rot ++ gr.code)
  | .vstl g a b o => word bs 5 0x03 g (ms a.code b o 1 4 0)
  | .vsct g a b o idx => word bs 5 0x04 g (ms a.code b o 0 2 (0#1 ++ idx.code))
  | .amol x => amo bs 0x05 x 0
  | .stg w g sc sa sb => word bs 5 0x06 g (mg 0 sa sb 0 (BitVec.ofNat 4 w.code) sc.code)
  | .amo x sc => amo bs 0x07 x sc.code
  | .red op g sc sa sb => word bs 5 0x08 g (mg 0 sa sb 0 op.code sc.code)
  | .cpy x => asD bs 0x01 x 0 0 0 0
  | .subs x n => asD bs 0x02 x 0 n 0 0
  | .unsub g cue sd n => asN bs 0x03 g cue sd n 0
  | .rrel g cue sd n m => asN bs 0x04 g cue sd n m
  | .rfin g cue sd n m => asN bs 0x05 g cue sd n m
  | .strb x n => asD bs 0x06 x 0 n 0 0
  | .stru g cue sd n => asN bs 0x07 g cue sd n 0
  | .qfence g cue sd mask => asN bs 0x08 g cue sd 0 (0#2 ++ mask)
  | .cttset x clr n => asD bs 0x09 x 0 n 0 (0#14 ++ bit clr)
  | .cttrdy g cue sd n => asN bs 0x0A g cue sd n 0
  | .cttrdyQ g sd n => word bs 6 0x0A g (as 0 0 sd n 0 false 1)
  | .chbuild x sb => asD bs 0x0B x sb 0 0 0
  | .chsplice x sb pos => asD bs 0x0C x sb 0 pos 0
  | .chresume x => asH bs 0x0D x
  | .chfree x => asH bs 0x0E x
  | .gload x sb cap => asD bs 0x10 x sb 0 0 (0#4 ++ cap)
  | .gstep x => asH bs 0x11 x
  | .gmask words x sb n => asD bs 0x12 x sb 0 n (0#14 ++ bit words)
  | .fence g sc q n =>
    syn bs 0x01 g 0 0 0 (0#6 ++ q.getD 0)
      (0#12 ++ bit n ++ bit q.isSome ++ (sc.map Scope.code).getD 0 ++ bit sc.isSome)
  | .waitT g sa n => syn bs 0x02 g 0 sa 0 (0#9 ++ n) 0
  | .waitGe g sd sa sb => syn bs 0x02 g sd sa sb 0 1
  | .signal g sd b => syn bs 0x03 g sd 0 0 (0#8 ++ b) 0
  | .bar g sd b => syn bs 0x04 g sd 0 0 (0#8 ++ b) 0
  | .barSet g sa b => syn bs 0x04 g 0 sa 0 (0#8 ++ b) 1
  | .spawn g sd sa => syn bs 0x05 g sd sa 0 0 0
  | .yield g => syn bs 0x06 g 0 0 0 0 0
  | .halt g => syn bs 0x07 g 0 0 0 0 0
  | .trap g sa code => syn bs 0x08 g 0 sa 0 code 0
  | .tret g => syn bs 0x09 g 0 0 0 0 0
  | .cret g => syn bs 0x0A g 0 0 0 0 0
  | .rds g sd n => syn bs 0x0B g sd 0 0 n 0
  | .wrs g sa n => syn bs 0x0C g 0 sa 0 n 0
  | .chstat g sd sa pos => syn bs 0x0D g sd sa 0 (0#6 ++ pos) 0
  | .chstatSlot g sd k => syn bs 0x0D g sd 0 0 (0#9 ++ k) 1
  | .tidset g n sa => syn bs 0x0E g 0 sa 0 (0#6 ++ n) 0
  | .tidsetInv g n => syn bs 0x0E g 0 0 0 (0#6 ++ n) 1
  | .tidsetCb g t sa => syn bs 0x0E g 0 sa 0 (0#10 ++ t) 2
  | .frwait g sa => syn bs 0x0F g 0 sa 0 0 0
  | .frwaitFrame g sa => syn bs 0x0F g 0 sa 0 0 1
  | .cancel g sa => syn bs 0x10 g 0 sa 0 0 0
  | _ => padWord

/-! ## The decoder -/

/-- Why a word is no instruction (R51, R67). -/
inductive DecodeErr where
  | pad | illegalOpcode | illegalOperand
  deriving DecidableEq, Repr

namespace Dec

/-- Bits [lo+n-1:lo] of a syllable. -/
def fld (w : Word) (lo n : Nat) : BitVec n := w.extractLsb' lo n
def num (w : Word) (lo n : Nat) : Nat := (w.extractLsb' lo n).toNat
def flag (w : Word) (k : Nat) : Bool := w.getLsbD k

def guard (w : Word) : Guard := ⟨flag w 51, fld w 47 4⟩
def slot (w : Word) : Nat := num w 60 3
def opc (w : Word) : Nat := num w 52 8

/-- SR, SI and SY: sd [46:41], sa [40:35], sb [34:29], sc [28:23]. -/
def f1 (w : Word) : BitVec 6 := fld w 41 6
def f2 (w : Word) : BitVec 6 := fld w 35 6
def f3 (w : Word) : BitVec 6 := fld w 29 6
def f4 (w : Word) : BitVec 6 := fld w 23 6

def scR3 (w : Word) : ScR3 := ⟨guard w, f1 w, f2 w, f3 w⟩
def scR3u (w : Word) : ScR3u := ⟨guard w, flag w 18, f1 w, f2 w, f3 w⟩
def scR2 (w : Word) : ScR2 := ⟨guard w, f1 w, f2 w⟩
def scI (w : Word) : ScI := ⟨guard w, f1 w, f2 w, fld w 3 32⟩
def scSh (w : Word) : ScSh := ⟨guard w, f1 w, f2 w, fld w 3 6⟩

def vslot (w : Word) : VSlot := if slot w = 2 then .vb else .va
def d (w : Word) : Option VOp := VOp.ofCode (fld w 40 7)
def a (w : Word) : Option VOp := VOp.ofCode (fld w 32 7)
def b (w : Word) : Option VOp := VOp.ofCode (fld w 25 7)
def c (w : Word) : Option VOp := VOp.ofCode (fld w 18 7)
def ws (w : Word) : Bool := flag w 39
def etR (w : Word) : Option ET := ET.ofCode (num w 14 4)
def etX (w : Word) : Option ET := ET.ofCode (num w 10 4)
def rm (w : Word) : Option RM := RM.ofCode (num w 11 3)
def sat (w : Word) : Bool := flag w 10
def sX (w : Word) : BitVec 6 := fld w 26 6
def immX (w : Word) : BitVec 12 := fld w 14 12

def vAr (w : Word) : Option VAr := do
  return ⟨guard w, vslot w, ws w, ← d w, ← a w, ← b w, ← etR w, sat w⟩
def vAr3 (w : Word) : Option VAr3 := do
  return ⟨guard w, vslot w, ws w, ← d w, ← a w, ← b w, ← c w, ← etR w, sat w⟩
def v2 (w : Word) : Option V2 := do return ⟨guard w, vslot w, ws w, ← d w, ← a w, ← b w, ← etR w⟩
def v1 (w : Word) : Option V1 := do return ⟨guard w, vslot w, ws w, ← d w, ← a w, ← etR w⟩
def v1x (w : Word) : Option V1 := do return ⟨guard w, vslot w, ws w, ← d w, ← a w, ← etX w⟩
def vFl2 (w : Word) : Option VFl2 := do
  return ⟨guard w, vslot w, ws w, ← d w, ← a w, ← b w, ← etR w, ← rm w, sat w⟩
def vFl3 (w : Word) : Option VFl3 := do
  return ⟨guard w, vslot w, ws w, ← d w, ← a w, ← b w, ← c w, ← etR w, ← rm w, sat w⟩
def vFn (w : Word) : Option VFn := do return ⟨guard w, vslot w, ws w, ← d w, ← a w⟩
def pd (w : Word) : Option (BitVec 4) := VOp.predOf (fld w 40 7)
def pa (w : Word) : Option (BitVec 4) := VOp.predOf (fld w 32 7)
def pb (w : Word) : Option (BitVec 4) := VOp.predOf (fld w 25 7)
def pc (w : Word) : Option (BitVec 4) := VOp.predOf (fld w 18 7)
def p3 (w : Word) : Option P3 := do return ⟨guard w, vslot w, ← pd w, ← pa w, ← pb w⟩
def vRed (w : Word) : Option VRed := do return ⟨guard w, vslot w, ws w, ← d w, ← a w, ← pc w, ← etR w⟩
def vMi (w : Word) : Option VMi := do
  return ⟨guard w, vslot w, ws w, flag w 0, ← d w, ← a w, sX w, fld w 14 4⟩

/-- MS. -/
def data (w : Word) : Option VOp := VOp.ofCode (fld w 40 7)
def base (w : Word) : BitVec 6 := fld w 34 6
def off20 (w : Word) : BitVec 20 := fld w 14 20
def mem (w : Word) : Option MAddr := do return ⟨base w, off20 w, ← Space.ofCode (num w 11 3)⟩
def wid (w : Word) : Option Width := Width.ofCode (num w 8 3)

/-- MG. -/
def scope (w : Word) : Option Scope := Scope.ofCode (num w 17 2)
def opG (w : Word) : Nat := num w 19 4
def amo (w : Word) : Option Amo := do return ⟨guard w, ← AmoOp.ofCode (opG w), f1 w, f2 w, f3 w, f4 w⟩

/-- TL: a [40:35], b [33:28], s [26:21], pos [20:15], op [14:11], RM [10:8]. -/
def tb (w : Word) : BitVec 6 := fld w 28 6
def ts (w : Word) : BitVec 6 := fld w 21 6
def tpos (w : Word) : BitVec 6 := fld w 15 6
def top (w : Word) : Nat := num w 11 4
def trm (w : Word) : Option RM := RM.ofCode (num w 8 3)

/-- AS: sa [46:41], sb [40:35], sd [34:29], idx [28:24], imm8 [23:16], CUE [15]. -/
def cue (w : Word) : Bool := flag w 15
def idx (w : Word) : BitVec 5 := fld w 24 5
def imm8 (w : Word) : BitVec 8 := fld w 16 8
def asD (w : Word) : AsD := ⟨guard w, cue w, f3 w, f1 w⟩
def asH (w : Word) : AsH := ⟨guard w, cue w, f3 w, f2 w⟩

/-- SY: imm12 [28:17], fn [16:0]. -/
def immY (w : Word) (n : Nat) : BitVec n := fld w 17 n
def fnY (w : Word) : Nat := num w 0 17

/-- SCL (R173, R177, R179). -/
def scl (w : Word) : Nat → Option Instr
  | 0x00 => some (.nop (guard w))
  | 0x01 => some (.add (scR3 w))
  | 0x02 => some (.sub (scR3 w))
  | 0x03 => some (.and (scR3 w))
  | 0x04 => some (.or (scR3 w))
  | 0x05 => some (.xor (scR3 w))
  | 0x06 => some (.andn (scR3 w))
  | 0x07 => some (.shl (scR3 w))
  | 0x08 => some (.shr (scR3 w))
  | 0x09 => some (.sar (scR3 w))
  | 0x0A => some (.rol (scR3 w))
  | 0x0B => some (.min (scR3u w))
  | 0x0C => some (.max (scR3u w))
  | 0x0D => some (.mul (scR3 w))
  | 0x0E => do return .mulh (← MulhMode.ofCode (num w 18 5)) (scR3 w)
  | 0x0F => some (.div (scR3u w))
  | 0x10 => some (.rem (scR3u w))
  | 0x11 => some (.clz (scR2 w))
  | 0x12 => some (.ctz (scR2 w))
  | 0x13 => some (.popc (scR2 w))
  | 0x14 => some (.ext (flag w 18) (scR3 w) (f4 w))
  | 0x15 => do return .set (← Cond.ofCode (num w 18 5)) (scR3 w)
  | 0x16 => some (.csel (scR3 w) (f4 w))
  | 0x17 => do return .setp (← Cond.ofCode (num w 18 5)) (guard w) (fld w 41 4) (f2 w) (f3 w)
  | 0x20 => some (.addi (scI w))
  | 0x21 => some (.andi (scI w))
  | 0x22 => some (.ori (scI w))
  | 0x23 => some (.xori (scI w))
  | 0x24 => some (.shli (scSh w))
  | 0x25 => some (.shri (scSh w))
  | 0x26 => some (.sari (scSh w))
  | 0x27 => some (.muli (scI w))
  | 0x28 => some (.movi (guard w) (f1 w) (fld w 3 32))
  | 0x29 => some (.movhi (scI w))
  | 0x2A => do return .seti (← Cond.ofCode (num w 0 3)) (scI w)
  | 0x40 => do return .br (← Cond.ofCode (num w 32 3)) (guard w) (f1 w) (f2 w) (fld w 0 32)
  | 0x41 => some (.jmp (guard w) (fld w 0 32))
  | 0x42 => some (.call (guard w) (fld w 0 32))
  | 0x43 => some (.jr (guard w) (f1 w) (fld w 0 32))
  | 0x44 => some (.callr (guard w) (f1 w) (fld w 0 32))
  | 0x45 => some (.loop (guard w) (fld w 0 32))
  | 0x46 => do return .brp (← BrpMode.ofCode (num w 35 6)) (guard w) (fld w 41 4) (fld w 0 32)
  | _ => none

/-- VA and VB (R206 to R237). -/
def vec (w : Word) : Nat → Option Instr
  | 0x01 => do return .vadd (← vAr w)
  | 0x02 => do return .vsub (← vAr w)
  | 0x03 => do return .vmul (← vAr w)
  | 0x04 => do return .vmulh (← v2 w)
  | 0x05 => do return .vmac (← vAr3 w)
  | 0x06 => do return .vabsd (← v2 w)
  | 0x07 => do return .vmin (← v2 w)
  | 0x08 => do return .vmax (← v2 w)
  | 0x10 => do return .vand (← v2 w)
  | 0x11 => do return .vor (← v2 w)
  | 0x12 => do return .vxor (← v2 w)
  | 0x13 => do return .vandn (← v2 w)
  | 0x14 => do return .vshl (← v2 w)
  | 0x15 => do return .vshr (← v2 w)
  | 0x16 => do return .vsar (← v2 w)
  | 0x17 => do return .vshi (← ShiKind.ofCode (num w 0 10)) (← v1x w) (immX w)
  | 0x20 => do return .vcmp (← VCond.ofCode (num w 0 10)) (guard w) (vslot w) (← pd w) (← a w) (← b w) (← etR w)
  | 0x21 => do return .pand (← p3 w)
  | 0x22 => do return .por (← p3 w)
  | 0x23 => do return .pxor (← p3 w)
  | 0x24 => do return .pandn (← p3 w)
  | 0x25 => do return .pcnt (flag w 0) (guard w) (vslot w) (sX w) (← pa w) (← etX w)
  | 0x26 =>
    match num w 0 10 with
    | 0 => do return .pmov (guard w) (vslot w) (← pd w) (← pa w)
    | 1 => do return .pmovV2P (guard w) (vslot w) (← pd w) (← a w) (← etR w)
    | 2 => do return .pmovP2V (guard w) (vslot w) (ws w) (← d w) (← pa w) (← etR w)
    | _ => none
  | 0x28 => do return .vsel (← v2 w) (← pc w)
  | 0x29 => do return .vmov (← v1 w)
  | 0x2A => do
    return .vbcst (if flag w 0 then some (immX w) else none) (guard w) (vslot w) (ws w) (← d w) (sX w) (← etX w)
  | 0x2B => do return .vext (flag w 0) (guard w) (vslot w) (sX w) (← a w) (immX w) (← etX w)
  | 0x2C => do return .vins (← v1x w) (sX w) (immX w)
  | 0x2D => do return .vidx (guard w) (vslot w) (ws w) (← d w) (sX w) (immX w) (← etX w)
  | 0x30 => do return .vfadd (← vFl2 w)
  | 0x31 => do return .vfsub (← vFl2 w)
  | 0x32 => do return .vfmul (← vFl2 w)
  | 0x33 => do return .vfma (← vFl3 w)
  | 0x34 => do return .vfms (← vFl3 w)
  | 0x35 => do return .vfmin (← v2 w)
  | 0x36 => do return .vfmax (← v2 w)
  | 0x37 => do return .vfabs (← v1 w)
  | 0x38 => do return .vfneg (← v1 w)
  | 0x40 => do return .vrcpa (← vFn w)
  | 0x41 => do return .vrsqa (← vFn w)
  | 0x42 => do return .vexp2 (← vFn w)
  | 0x43 => do return .vlog2 (← vFn w)
  | 0x44 => do return .vgkey (← vFn w) (sX w) (fld w 14 4)
  | 0x50 => do return .vcvt (← v1 w) (← ET.ofCode (num w 0 4)) (← rm w) (sat w) (fld w 4 3)
  | 0x51 => do
    return .vcbdec (guard w) (vslot w) (ws w) (← d w) (← a w) (sX w) (← CbDst.ofCode (num w 0 10)) (fld w 14 2)
      (fld w 16 4)
  | 0x52 => do return .vscale (← vFl2 w) (← ScaleBlock.ofCode (num w 0 10))
  | 0x60 => do return .vtlu (← v2 w) (← if flag w 0 then some none else (c w).map some)
  | 0x61 => do return .vrot (← v1x w) (sX w) (immX w)
  | 0x62 => do
    let m ← ShufMode.ofCode (num w 0 10)
    return .vshuf (← v2 w) m (← if m = .table then (c w).map some else some none)
  | 0x70 => do return .vredsum (← vRed w) (sat w)
  | 0x71 => do return .vredmax (← vRed w)
  | 0x72 => do return .vredmin (← vRed w)
  | 0x73 => do return .vmaxi (← vMi w)
  | 0x74 => do return .vmini (← vMi w)
  | 0x78 => do
    return .vdot (guard w) (vslot w) (ws w) (← d w) (← a w) (← b w) (← c w) (← etR w) (← ET.ofCode (num w 0 4))
  | _ => none

/-- MTX (R260 to R267, R277, R281, R283). -/
def mtx (w : Word) : Nat → Option Instr
  | 0x01 => some (.tld (guard w) (f1 w) (f2 w) (ts w))
  | 0x02 => do return .tew (← TewOp.ofCode (top w)) (guard w) (← trm w) (f1 w) (f2 w) (tb w)
  | 0x03 => do return .tews (← TewsOp.ofCode (top w)) (guard w) (← trm w) (f1 w) (f2 w) (ts w)
  | 0x04 => do return .tfn (← TfnOp.ofCode (top w)) (guard w) (f1 w) (f2 w)
  | 0x05 => some (.tmap (guard w) (f1 w) (f2 w) (ts w))
  | 0x06 => do return .tcvt (← TileDst.ofCode (top w)) (guard w) (← trm w) (flag w 15) (f1 w) (f2 w)
  | 0x07 => some (.tmma (guard w) (flag w 10) (flag w 9) (f2 w) (tb w) (ts w) (tpos w))
  | 0x08 => some (.tst (guard w) (tb w) (ts w) (f2 w) (fld w 0 8))
  | 0x09 => if flag w 11 then some (.tforceLink (guard w) (ts w) (tpos w)) else some (.tforce (guard w) (f2 w) (fld w 0 8))
  | 0x0A => some (.tdrop (guard w) (f2 w))
  | 0x0B => some (.tmov (guard w) (f1 w) (f2 w))
  | 0x0C => some (.chclose (guard w) (f1 w) (ts w))
  | _ => none

/-- LDS (R160 to R163, R114). -/
def ldsSlot (w : Word) : Nat → Option Instr
  | 0x01 => do return .lds (flag w 0) (guard w) (f1 w) (← mem w) (← wid w)
  | 0x02 => do return .vld (guard w) (← data w) (← mem w) (← Gran.ofCode (num w 0 2)) (fld w 2 6)
  | 0x03 => do return .vldl (guard w) (← data w) (base w) (off20 w)
  | 0x04 => do return .vgth (guard w) (← data w) (base w) (off20 w) (← VOp.ofCode (fld w 0 7))
  | 0x05 => do return .vldb (guard w) (← data w) (← mem w) (← wid w)
  | 0x06 => do return .ldg (← LdgOp.ofCode (opG w)) (guard w) (← scope w) (f1 w) (f2 w)
  | _ => none

/-- STS (R160 to R164, R115 to R117). -/
def stsSlot (w : Word) : Nat → Option Instr
  | 0x01 => do return .sts (guard w) (f1 w) (← mem w) (← wid w)
  | 0x02 => do return .vst (guard w) (← data w) (← mem w) (← Gran.ofCode (num w 0 2)) (fld w 2 6)
  | 0x03 => do return .vstl (guard w) (← data w) (base w) (off20 w)
  | 0x04 => do return .vsct (guard w) (← data w) (base w) (off20 w) (← VOp.ofCode (fld w 0 7))
  | 0x05 => do return .amol (← amo w)
  | 0x06 => do return .stg (← Width.ofCode (opG w)) (guard w) (← scope w) (f2 w) (f3 w)
  | 0x07 => do return .amo (← amo w) (← scope w)
  | 0x08 => do return .red (← RedOp.ofCode (opG w)) (guard w) (← scope w) (f2 w) (f3 w)
  | _ => none

/-- ASY (R130 to R144, R275, R289 to R291, R305, R316 to R318). -/
def asy (w : Word) : Nat → Option Instr
  | 0x01 => some (.cpy (asD w))
  | 0x02 => some (.subs (asD w) (idx w))
  | 0x03 => some (.unsub (guard w) (cue w) (f3 w) (idx w))
  | 0x04 => some (.rrel (guard w) (cue w) (f3 w) (idx w) (imm8 w))
  | 0x05 => some (.rfin (guard w) (cue w) (f3 w) (idx w) (imm8 w))
  | 0x06 => some (.strb (asD w) (idx w))
  | 0x07 => some (.stru (guard w) (cue w) (f3 w) (idx w))
  | 0x08 => some (.qfence (guard w) (cue w) (f3 w) (fld w 16 6))
  | 0x09 => some (.cttset (asD w) (flag w 0) (idx w))
  | 0x0A => if flag w 0 then some (.cttrdyQ (guard w) (f3 w) (idx w)) else some (.cttrdy (guard w) (cue w) (f3 w) (idx w))
  | 0x0B => some (.chbuild (asD w) (f2 w))
  | 0x0C => some (.chsplice (asD w) (f2 w) (imm8 w))
  | 0x0D => some (.chresume (asH w))
  | 0x0E => some (.chfree (asH w))
  | 0x10 => some (.gload (asD w) (f2 w) (fld w 0 11))
  | 0x11 => some (.gstep (asH w))
  | 0x12 => some (.gmask (flag w 0) (asD w) (f2 w) (imm8 w))
  | _ => none

/-- SYN (R199, R288, R329, R346 to R353, R370 to R372). -/
def syn (w : Word) : Nat → Option Instr
  | 0x01 => do
    return .fence (guard w) (← if flag w 0 then (Scope.ofCode (num w 1 2)).map some else some none)
      (if flag w 3 then some (immY w 6) else none) (flag w 4)
  | 0x02 =>
    match fnY w with
    | 0 => some (.waitT (guard w) (f2 w) (immY w 3))
    | 1 => some (.waitGe (guard w) (f1 w) (f2 w) (f3 w))
    | _ => none
  | 0x03 => some (.signal (guard w) (f1 w) (immY w 4))
  | 0x04 =>
    match fnY w with
    | 0 => some (.bar (guard w) (f1 w) (immY w 4))
    | 1 => some (.barSet (guard w) (f2 w) (immY w 4))
    | _ => none
  | 0x05 => some (.spawn (guard w) (f1 w) (f2 w))
  | 0x06 => some (.yield (guard w))
  | 0x07 => some (.halt (guard w))
  | 0x08 => some (.trap (guard w) (f2 w) (immY w 12))
  | 0x09 => some (.tret (guard w))
  | 0x0A => some (.cret (guard w))
  | 0x0B => some (.rds (guard w) (f1 w) (immY w 12))
  | 0x0C => some (.wrs (guard w) (f2 w) (immY w 12))
  | 0x0D =>
    match fnY w with
    | 0 => some (.chstat (guard w) (f1 w) (f2 w) (immY w 6))
    | 1 => some (.chstatSlot (guard w) (f1 w) (immY w 3))
    | _ => none
  | 0x0E =>
    match fnY w with
    | 0 => some (.tidset (guard w) (immY w 6) (f2 w))
    | 1 => some (.tidsetInv (guard w) (immY w 6))
    | 2 => some (.tidsetCb (guard w) (immY w 2) (f2 w))
    | _ => none
  | 0x0F =>
    match fnY w with
    | 0 => some (.frwait (guard w) (f2 w))
    | 1 => some (.frwaitFrame (guard w) (f2 w))
    | _ => none
  | 0x10 => some (.cancel (guard w) (f2 w))
  | _ => none

/-- The instruction that the fields an entry uses stand for. -/
def read (w : Word) : Option Instr :=
  match slot w with
  | 0 => scl w (opc w)
  | 1 | 2 => vec w (opc w)
  | 3 => mtx w (opc w)
  | 4 => ldsSlot w (opc w)
  | 5 => stsSlot w (opc w)
  | 6 => asy w (opc w)
  | _ => syn w (opc w)

/-- Opcodes assigned in a slot (R65), and the pad's opcode, which is refused as an operand (R51). -/
def assigned (slot opc : Nat) : Bool :=
  match slot with
  | 0 => opc ≤ 0x17 || (0x20 ≤ opc && opc ≤ 0x2A) || (0x40 ≤ opc && opc ≤ 0x46)
  | 1 | 2 =>
    (0x01 ≤ opc && opc ≤ 0x08) || (0x10 ≤ opc && opc ≤ 0x17) || (0x20 ≤ opc && opc ≤ 0x26) ||
    (0x28 ≤ opc && opc ≤ 0x2D) || (0x30 ≤ opc && opc ≤ 0x38) || (0x40 ≤ opc && opc ≤ 0x44) ||
    (0x50 ≤ opc && opc ≤ 0x52) || (0x60 ≤ opc && opc ≤ 0x62) || (0x70 ≤ opc && opc ≤ 0x74) || opc == 0x78
  | 3 => 0x01 ≤ opc && opc ≤ 0x0C
  | 4 => 0x01 ≤ opc && opc ≤ 0x06
  | 5 => 0x01 ≤ opc && opc ≤ 0x08
  | 6 => (0x01 ≤ opc && opc ≤ 0x0E) || (0x10 ≤ opc && opc ≤ 0x12)
  | _ => (0x01 ≤ opc && opc ≤ 0x10) || opc == 0xFF

end Dec

/-- The decoder, total on every 64-bit pattern (R67). The bundle-start bit does not matter to it. -/
def decode (w : Word) : Except DecodeErr Instr :=
  if w = padWord then .error .pad
  else if !Dec.assigned (Dec.slot w) (Dec.opc w) then .error .illegalOpcode
  else
    match Dec.read w with
    | some i => if i.wf && encode (w.getLsbD 63) i == w then .ok i else .error .illegalOperand
    | none => .error .illegalOperand

/-- The word in which the table numbers an instruction's bits is the syllable itself. -/
def decodeTableWord (_nbits w : Nat) : Option Instr :=
  match decode (BitVec.ofNat 64 w) with
  | .ok i => some i
  | .error _ => none

end Sys2Proof
end

