-- ==== Sys2Proof/Config.lean ====
section
/-! DEFINITION. What the TL940 implementation fixes, and the free values.

A free value is an opaque constant: nothing can be proved of which value it is. -/

namespace Sys2Proof.Config

/-- Places of a context's engine queue (R118, a TL940 figure). -/
def queueDepth : Nat := 16
/-- Entries of a thunk table (R240). -/
def thunkEntries : Nat := 256
/-- Bytes of a core scratchpad, of a lane-slice array and of a die scratchpad (R145, TL940 figures). -/
def spadBytes : Nat := 0x100000
def laneBytes : Nat := 0x40000
def dieBytes : Nat := 0x4000000
/-- Bytes of a save area (R375, a TL940 figure). -/
def saveSize : Nat := 0x20000
/-- Outstanding entries of a stream (R365). -/
def maxOutstanding : Nat := 32
/-- Attempt timeout and escalation limits of a transient request (R98, TL940 figures). -/
def attemptCycles : Nat := 240
def maxAttempts : Nat := 4
def escalateCycles : Nat := 1200
/-- Cycles without an issue after which a secondary is promoted (R336). -/
def promoteCycles : Nat := 1024
/-- The consecutive cycle from which a stall at a due count is an engine wait (R334). -/
def dueWaitCycle : Nat := 17
/-- Entries of a die's update buffer, and lines of a stack's home-partial store (R110). -/
def updateEntries : Nat := 2048
def homePartials : Nat := 16384
/-- `red`s one update state absorbs before a forced merge (R110). -/
def maxReds : Nat := 2 ^ 40
/-- Entries of a TLB's pinned partition (R82). -/
def pinnedTlb : Nat := 256
/-- Pins a context may hold (R104). -/
def maxPins : Nat := 64
/-- Ways of an L2 slice (R92). -/
def l2Ways : Nat := 16
/-- Cycles of a frame tick at the nominal clock (R3). -/
def tickCycles : Nat := 6
/-- The gang delay P of a frame start, in ticks (R357, a TL940 figure). -/
def frameDelay : Nat := 200
/-- Transmissions after which a flit has failed (R307, a TL940 figure). -/
def maxFlits : Nat := 16
/-- Burique Link ports of a package (the link dies of R11). -/
def linkPorts : Nat := 144
/-- Live chains of a package (R272). -/
def maxChains : Nat := 4096

/-- Capability identifiers with their FEAT word on a TL940 package alone (R21); 0x0004 is absent there. -/
def capabilities : List (Nat × Word) :=
  [(1, BitVec.ofNat 64 (1 + 262144 * 2 ^ 8 + 4096 * 2 ^ 32 + 1024 * 2 ^ 48)),
   (2, BitVec.ofNat 64 (2048 + 2 ^ 16 + 2 ^ 17 + 2 ^ 18)),
   (3, BitVec.ofNat 64 (1536 + 1200 * 2 ^ 16)),
   (5, BitVec.ofNat 64 (4 + 2 ^ 4 + 2 ^ 5)),
   (6, BitVec.ofNat 64 (7 + 8192 * 2 ^ 8))]

/-- FEAT of capability 0x0004, present in a domain of more than one package (R21). -/
def chainCapability : Word := BitVec.ofNat 64 (64 + 64 * 2 ^ 8)

/-- Whether the fault of an on-chip store is found only after its due count (R159), which the spec leaves to timing. Free value. -/
opaque storeFaultLate : Nat → Bool
/-- The bytes a spill writes to a save area, whose layout belongs to the implementation (R375). Free value. -/
opaque saveByte : Nat → Nat → Byte
/-- The state in which a controller stores a block that may be compressed (R87). Free value; only its low two bits are used. -/
opaque blockState : Nat → Nat
/-- The L2 set of a line at a holder, and the line that a replacement takes among those it may take (R92, R102). -/
opaque l2Set : Nat → Nat → Nat
opaque l2Victim : Nat → Nat
/-- An SPDM response, but for a measurement register that it reports: the spec gives neither its layout nor its signature
(R389). Free value, by request code and by a counter. -/
opaque spdmAnswer : Nat → Nat → List Byte
/-- SHA-384 of a string of bytes (R388), which the spec names and does not define. Free value. -/
opaque sha384 : List Byte → BitVec 384
/-- A sensor reading reported over PLDM (R390): temperature, power draw. Free value. -/
opaque sensor : Nat → Nat → Nat
/-- The reason that a failed signature check leaves for the side-band to read (R388, R390). Free value. -/
opaque bootReason : Nat → Nat

end Sys2Proof.Config
end

