-- ==== Sys2Proof/Machine/State.lean ====
section
/-! DEFINITION. The state of the machine as plain data: a load-store domain of TL940 packages.

State holds the device (`Dev`), the bundle being assembled, the context that issues next, and the agenda: the list of
machine steps that says which agent moves next (log entry 6). -/

namespace Sys2Proof.Machine

/-- A trap on its way to delivery: the cause, what the trap registers receive, and what a fault-ring record needs
(R358, R359, R363, R403). -/
structure TrapRec where
  cause : Nat
  utpc : Word
  info0 : Word
  info1 : Word
  info2 : Word
  info3 : Word
  /-- delivered asynchronously (kind A), R358 -/
  imp : Bool
  /-- [0] read, [1] write, [2] execute (R403) -/
  access : Nat
  va : Word
  slot : Nat
  opc : Nat
  /-- append site of a faulted node (R258) -/
  nodePc : Word
  nodeBclk : Word
  /-- tag of the scalar global access to replay on a page fault; 0 for none (R83) -/
  acc : Nat
  deriving DecidableEq, Repr, Inhabited

/-- A heap window: HWB, HWL and HWO (R74). -/
structure Win where
  base : Word
  len : Word
  off : Word
  deriving DecidableEq, Repr, Inhabited

/-- Where an entry's result goes: a physical register resolved at issue (R28, R365). -/
inductive Dest where
  | none
  | scalar (r : Nat)
  | vec (r : Nat)
  | pred (r : Nat)
  /-- element `elem` of the binding with a ticket of stream `q`: its space and address (R142), and the heap window at issue (R74) -/
  | push (q space addr elem ticket : Nat) (win : Win)
  deriving DecidableEq, Repr, Inhabited

/-- The latch pairs (R32). -/
inductive Pair where
  | va | vb | lds
  deriving DecidableEq, Repr, Inhabited

/-- A result or check in flight (R365, R366). `rem` is the number of the stream's own bundles that remain. -/
structure Entry where
  dest : Dest
  val : Vec
  ready : Bool
  rem : Nat
  fault : Option TrapRec
  flags : BitVec 6
  latch : Option Pair
  /-- bytes selected of a push (R142) -/
  sel : Pred
  slot : Nat
  opc : Nat
  pc : Word
  /-- tag of the scalar global access that supplies the value; 0 for none -/
  acc : Nat
  /-- of a push: scalar global accesses up to this tag precede it (R142) -/
  gtag : Nat
  deriving DecidableEq, Repr, Inhabited

/-- Line requests by the bucket that regulates them (R126). -/
structure Paid where
  l2 : Nat
  hbm : Nat
  deriving DecidableEq, Repr, Inhabited

/-- A latch pair: the most recent result and the one before; none when invalid (R32, R33). -/
structure Latch where
  cur : Option Vec
  prev : Option Vec
  deriving DecidableEq, Repr, Inhabited

/-- A scalar global access operation (R114 to R117). -/
inductive GOp where
  | ldg (op : LdgOp)
  | stg (w : Width)
  | amo (op : AmoOp)
  | red (op : RedOp)
  deriving DecidableEq, Repr, Inhabited

/-- A scalar global access that has issued and has not performed (R113, R322). -/
structure GAcc where
  tag : Nat
  op : GOp
  va : Word
  pa : Nat
  bytes : Nat
  data : Word
  cmp : Word
  scope : Scope
  cmpAttr : Bool
  slot : Nat
  opc : Nat
  pc : Word
  /-- issued at privilege -/
  priv : Bool
  /-- the heap window at issue (R74) -/
  win : Win
  /-- a request for the line is outstanding -/
  asked : Bool
  /-- suspended on a page fault until firmware resumes it (R83) -/
  susp : Bool
  deriving DecidableEq, Repr, Inhabited

/-- An element pushed to an outbound stream and not yet performed: its address, value and bytes selected (R142), the tag
of the last scalar global access before its bundle, and the ticket of its binding. -/
structure Push where
  space : Nat
  addr : Nat
  elem : Nat
  val : Vec
  sel : Pred
  gtag : Nat
  ticket : Nat
  slot : Nat
  opc : Nat
  /-- the heap window at issue (R74) -/
  win : Win
  deriving DecidableEq, Repr, Inhabited

/-- A stream binding (R140 to R143). -/
structure Stream where
  bound : Bool
  out : Bool
  space : Nat
  base : Nat
  depth : Nat
  counts : List Nat
  strides : List Int
  total : Nat
  /-- inbound: next element to pop; outbound: next element that a bundle will push -/
  idx : Nat
  /-- inbound: next element to read -/
  fetch : Nat
  /-- inbound: read and not yet popped, with the element's own fault -/
  buf : List (Vec × Option TrapRec)
  /-- pushed and not performed, in order; those of an earlier binding stay until they have performed -/
  pushed : List Push
  /-- suspended on a page fault -/
  susp : Bool
  ticket : Nat
  pc : Word
  gtag : Nat
  /-- the heap window at issue (R74) -/
  win : Win
  /-- requests of the next element to be read, and of the next to be written, that a bucket has let through (R126) -/
  paidIn : Paid
  paidOut : Paid
  deriving DecidableEq, Repr, Inhabited

/-- A captured copy descriptor (R129). -/
structure CpyDesc where
  sa : Nat
  da : Nat
  ssp : Nat
  dsp : Nat
  n0 : Nat
  n1 : Nat
  n2 : Nat
  n3 : Nat
  ss1 : Int
  ss2 : Int
  ss3 : Int
  ds1 : Int
  ds2 : Int
  ds3 : Int
  deriving DecidableEq, Repr, Inhabited

/-- Engine operations (R118). -/
inductive EOp where
  | cpy (d : CpyDesc)
  | subs (n : Nat)
  | unsub (n : Nat) (fin : Nat)
  | rrel (n m : Nat)
  | rfin (n m : Nat)
  | strb (n : Nat)
  | stru (n : Nat)
  | tst (node : Nat)
  | cttset (n : Nat)
  | cttrdy (n : Nat)
  | firing (n : Nat)
  | gload (blk : Nat) (gram : Word) (cap : Nat)
  | gstep (blk : Nat) (tok : Word)
  | gmask (blk addr : Nat) (first : Nat) (n : Nat) (words : Bool)
  | chbuild (handle : Word)
  | chsplice (handle : Word) (pos : Nat) (ent : Word)
  | chresume (handle : Word)
  | chfree (handle : Word)
  /-- a hop to a link slot, which takes no ticket (R118, R280) -/
  | hop (core slot : Nat) (data : SMap (BitVec 32))
  deriving DecidableEq, Repr, Inhabited

/-- Phase of an engine operation. -/
inductive Phase where
  | queued | started | suspended | finished
  deriving DecidableEq, Repr, Inhabited

/-- An accepted engine operation that has not completed (R118 to R122). -/
structure EngOp where
  kind : EOp
  ticket : Nat
  cue : Bool
  /-- core scratchpad address of the completion word in the context's SPACE 0 -/
  done : Option Nat
  phase : Phase
  result : Nat
  /-- issue order among all operations and queue fences of the context -/
  seq : Nat
  /-- scalar global accesses up to this tag precede the operation (R119) -/
  gtag : Nat
  pc : Word
  /-- words of a copy already made -/
  pos : Nat
  fault : Option TrapRec
  /-- the heap window at issue (R74) -/
  win : Win
  /-- requests of its next transfer that a bucket has let through (R126) -/
  paid : Paid
  deriving DecidableEq, Repr, Inhabited

/-- A queue fence that has not completed (R144). -/
structure QFence where
  mask : BitVec 6
  seq : Nat
  cue : Bool
  deriving DecidableEq, Repr, Inhabited

/-- A subscription (R132 to R137). `state` is the code of R133. -/
structure Sub where
  state : Nat
  mode : Nat
  src : BitVec 256
  dst : BitVec 256
  ring : Nat
  slotsz : Nat
  nslot : Nat
  rcb : Nat
  trow : Nat
  tcol : Nat
  cnt1 : Nat
  cnt2 : Nat
  drow1 : Int
  dcol1 : Int
  drow2 : Int
  dcol2 : Int
  fill : Nat
  rel : Nat
  fin : Nat
  stored : Nat
  /-- REL and FIN as the stack controllers have accepted them (R138) -/
  relOk : Nat
  finOk : Nat
  ecause : Nat
  etile : Nat
  eva : Word
  suspL : Bool
  suspS : Bool
  /-- a fill is under way (R137) -/
  filling : Bool
  pc : Word
  /-- the heap window at issue (R74) -/
  win : Win
  /-- requests of the tile to be filled, and of the tile to be stored, that a bucket has let through (R126) -/
  paidL : Paid
  paidS : Paid
  deriving DecidableEq, Repr, Inhabited

/-- Panel states (R241). A pending panel that a demand in force reaches is forcing; which those are follows from `Ctx.demands` and
`Ctx.holds`. -/
inductive PState where
  | pending | done | faulted
  deriving DecidableEq, Repr, Inhabited

/-- What a node computes (R240, R243). -/
inductive NOp where
  | tld (desc : BitVec 256) (row col : Nat)
  | tew (op : TewOp) (rm : RM)
  | tews (op : TewsOp) (rm : RM) (y : BitVec 32)
  | tfn (op : TfnOp)
  | tmap (m : Word)
  | tcvt (dst : TileDst) (rm : RM) (sat : Bool)
  | contrib (handle : Word) (pos ord : Nat) (ta tb : Bool)
  | close (handle : Word) (rm : RM)
  | store (desc : BitVec 256) (row col : Nat) (mask : BitVec 8)
  deriving DecidableEq, Repr, Inhabited

/-- The fault a node keeps (R256 to R258). -/
structure NFault where
  inner : Nat
  va : Word
  pc : Word
  bclk : Word
  deriving DecidableEq, Repr, Inhabited

/-- A node of a thunk table (R240). -/
structure Node where
  used : Bool
  op : NOp
  a : Option Nat
  b : Option Nat
  /-- order of append in its context -/
  seq : Nat
  ety : ET
  /-- tensor scale as f32 bits, 0 for 1.0 (R195) -/
  tscale : BitVec 32
  /-- block scales: size (0 none, 16, 32) and KDIM (R195) -/
  sblk : Nat
  kdim : Bool
  /-- codebook tables that forcing the node reads, or that its captured descriptor names (R194, R199) -/
  cbs : List Nat
  pc : Word
  bclk : Word
  rngctr : Word
  key0 : Word
  key1 : Word
  /-- scalar global accesses up to this tag precede the append (R327) -/
  gtag : Nat
  /-- the heap window at append (R74) -/
  win : Win
  /-- requests of its next transfer that a bucket has let through (R126) -/
  paid : Paid
  /-- of a store: the `tld` panels that its rows overwrite, which it has forced (R255, R257) -/
  waits : List (Nat × BitVec 8)
  /-- the codebook table as the node reads it, from the first panel that reads it on (R194) -/
  table : Option (SMap (BitVec 32))
  ps : List PState
  /-- done panels given up for arena space; their values are kept, since a recomputation gives the same bits (R252) -/
  evicted : BitVec 8
  /-- suspended on a page fault (R83) -/
  susp : Bool
  faults : List (Nat × NFault)
  /-- element values of done panels: key 64 i + j, or 8 i + g for a cb16 index -/
  data : SMap Nat
  /-- e8m0 byte of element (i, j), key 64 i + j -/
  scl : SMap Nat
  deriving DecidableEq, Repr, Inhabited

/-- A demand whose bundle has issued and did not stall: that of `tst`, `tforce` or `cttset` (R247, R257, R305). -/
structure Demand where
  node : Nat
  mask : BitVec 8
  pc : Word
  slot : Nat
  opc : Nat
  deriving DecidableEq, Repr, Inhabited

/-- A peer of a collective entry (R297). -/
structure Peer where
  dest : Nat
  flag : Option Nat
  core : Nat
  ctx : Nat
  deriving DecidableEq, Repr, Inhabited

/-- Source of a collective entry (R296). -/
inductive CSrc where
  | node (id : Nat)
  | tensor (desc : BitVec 256) (row col : Nat)
  deriving DecidableEq, Repr, Inhabited

/-- Result of serving one peer: the cause, 0 for success, and an inner cause. -/
structure PeerRes where
  idx : Nat
  cause : Nat
  inner : Nat
  /-- the access that raised the cause: bit 0 a read, bit 1 a write, with its address (R403) -/
  access : Nat
  va : Word
  /-- append site of the node that faulted (R258) -/
  pc : Word
  bclk : Word
  deriving DecidableEq, Repr, Inhabited

/-- An entry of the collective tile table (R293). `state` 0 EMPTY, 1 ARMED, 2 FIRING. -/
structure Ctt where
  state : Nat
  ready : Bool
  src : CSrc
  op : Nat
  flagAct : Bool
  cue : Bool
  dl : Bool
  glob : Bool
  mask : BitVec 8
  gslot : Nat
  mgroup : Nat
  deadline : Word
  done : Option Nat
  peers : List Peer
  stall : Nat
  dlp : Bool
  armTick : Nat
  served : List PeerRes
  /-- nodes already counted in ALIASCNT for the firing (R255, R299) -/
  counted : List Nat
  /-- panels' bytes of the image read at the start of the firing, key = byte offset -/
  image : SMap Byte
  /-- accesses before the later of the arming bundle and the bundle that set the latch (R295) -/
  gtag : Nat
  ticket : Nat
  pc : Word
  /-- the heap window at arming (R74) -/
  win : Win
  /-- requests of the firing's next transfer that a bucket has let through (R126) -/
  paid : Paid
  deriving DecidableEq, Repr, Inhabited

/-- Handler states (R362). -/
inductive HS where
  | stream | cue | trap | trapInCue
  deriving DecidableEq, Repr, Inhabited

/-- Where a task is (R332, R374, R375). -/
inductive Residence where
  | free | resident | saved | lost
  deriving DecidableEq, Repr, Inhabited

/-- The allotments of a task (R146, R147). -/
structure Allot where
  spBase : Nat
  spLen : Nat
  arBase : Nat
  arLen : Nat
  lsBase : Nat
  lsLen : Nat
  links : BitVec 8
  vBase : Nat
  vSize : Nat
  deriving DecidableEq, Repr, Inhabited

/-- A scope pin of a context (R104 to R106): line, holder, scope, address of the access that last pinned it, cycle of its
first refusal, and the tag and scope of that access. -/
structure Pin where
  line : Nat
  holder : Nat
  scope : Scope
  va : Word
  refused : Option Nat
  tag : Nat
  last : Scope
  deriving DecidableEq, Repr, Inhabited

/-- A task as a queue holds it (R340, R345, R355). -/
structure QTask where
  job : Nat
  type : Nat
  prio : Nat
  arg : Word
  key0 : Word
  key1 : Word
  any : Bool
  target : Nat
  /-- frame and index of the releasing call-sheet entry -/
  sheet : Option (Nat × Nat)
  deriving DecidableEq, Repr, Inhabited

/-- A hardware context with the task it holds (R22). -/
structure Ctx where
  cond : Residence
  bclk : Word
  pc : Word
  hs : HS
  /-- s0 to s63 at 0 to 63; shadows of s56 to s63 at 64 to 71 -/
  sreg : SMap Word
  /-- physical predicates; p0 is read as all ones -/
  preg : SMap Pred
  /-- special registers that are held as such, by number (R37) -/
  spr : SMap Word
  la : Latch
  lb : Latch
  ll : Latch
  streams : SMap Stream
  names : SMap (Option Nat)
  tids : SMap (Option (BitVec 256))
  infl : List Entry
  gTrap : List Entry
  gCue : List Entry
  gSave : List Entry
  /-- by the handler state in which it was raised: a SOFTWARE trap that is not taken yet (R358, R371) -/
  post : SMap (Option TrapRec)
  asyncs : List TrapRec
  /-- suspended for firmware with the trap that suspended it (R376) -/
  susp : Option TrapRec
  /-- transferring bundle that led to pc, and the target as the transfer gave it (R53, R69) -/
  xfer : Option (Word × Word)
  gq : List GAcc
  /-- accesses that have failed and whose entries firmware may yet have replayed (R376) -/
  failed : List GAcc
  nextTag : Nat
  rq : List Vec
  queues : SMap (List EngOp)
  tickets : SMap Nat
  fences : List QFence
  seq : Nat
  subs : SMap Sub
  bktL2 : Nat
  bktHbm : Nat
  /-- line requests that the transfer under way has made (R126) -/
  reqs : Paid
  nodes : SMap Node
  demands : List Demand
  /-- demands in force that report to no bundle that has issued: those of bundles that stall, and of contributions that a demand
  along their chain has reached (R250, R253, R282) -/
  holds : List (Nat × BitVec 8)
  /-- nodes already counted in ALIASCNT for the bundle that is waiting (R255) -/
  aliased : List Nat
  ctt : SMap Ctt
  pins : List Pin
  /-- by handler state: the bar that has arrived and not issued, as its address, its barrier and GEN before it (R352) -/
  barrier : SMap (Option (Word × Nat × Nat))
  /-- the bundle at pc has met an engine wait -/
  waiting : Bool
  /-- consecutive cycles of a stall at a due count (R334) -/
  dueStall : Nat
  task : QTask
  allot : Allot
  priv : Bool
  saveArea : Nat
  /-- state was moved to the save area (R374) -/
  spilled : Bool
  vsave : SMap Vec
  /-- number of the spill, which the bytes in the save area belong to -/
  saveSeed : Nat
  /-- number of the placement that started the task -/
  serial : Nat
  deriving DecidableEq, Repr, Inhabited

/-- Roles of a core's contexts (R333 to R336); a role holds a context number plus one, 0 for none. -/
structure Core where
  primary : Nat
  secondary : Nat
  /-- cycle of the secondary's last issue, or of the change that made it secondary -/
  idle : Nat
  /-- slots of the bundle that the primary issued last, bit k for slot code k, and the cycle of that issue -/
  slots : BitVec 8
  at_ : Nat
  deriving DecidableEq, Repr, Inhabited

/-- Link states (R278). -/
inductive LState where
  | free | opened | ready | advanced | closed | frozen | splicedOut
  deriving DecidableEq, Repr, Inhabited

/-- A link slot (R271). -/
structure Slot where
  state : LState
  /-- state before freezing (R278) -/
  prev : LState
  handle : Word
  pos : Nat
  owner : Nat
  count : Nat
  appended : Nat
  done : Nat
  inboxGot : Bool
  retained : Bool
  cause : Nat
  overflow : Bool
  demanded : Bool
  held : Bool
  /-- the retained value is to be sent again (R290) -/
  resend : Bool
  /-- uncorrectable soft errors in S, in the inbox, and in the retained value (R285) -/
  badS : Bool
  badIn : Bool
  badOut : Bool
  acc : SMap (BitVec 32)
  inbox : SMap (BitVec 32)
  deriving DecidableEq, Repr, Inhabited

/-- A link of a chain as its control die holds it (R274, R276). `bound` 0 not yet, 1 bound, 2 failed. -/
structure Link where
  core : Nat
  want : Nat
  slot : Nat
  hasSlot : Bool
  ctx : Nat
  count : Nat
  hop : Nat
  /-- a demand has reached the link (R282), at most of this priority (R250) -/
  demanded : Bool
  prio : Nat
  bound : Nat
  cause : Nat
  deriving DecidableEq, Repr, Inhabited

/-- A chain (R272, R273). -/
structure Chain where
  live : Bool
  gen : Nat
  job : Nat
  owner : Nat
  links : List Link
  outET : TileDst
  rm : RM
  sat : Bool
  scale : BitVec 32
  ctt : Nat
  frozen : Bool
  /-- context number and thunk-table entry of the close node (R281), and the serial number of the task that appended it -/
  closed : Option (Nat × Nat)
  closer : Nat
  /-- every panel of the close node is done: the last scalar global access before its `chclose` (R281, R295) -/
  filled : Option Nat
  /-- the close has set the ready flag of its entry (R281) -/
  latched : Bool
  deriving DecidableEq, Repr, Inhabited

/-- A cluster barrier (R351). -/
structure Barrier where
  job : Nat
  expect : Nat
  arrived : Nat
  gen : Nat
  deriving DecidableEq, Repr, Inhabited

/-- A cached translation (R81, R82). -/
structure Tlb where
  job : Nat
  va : Nat
  size : Nat
  pa : Nat
  attrs : BitVec 10
  deriving DecidableEq, Repr, Inhabited

/-- An update-buffer entry of a die, as the operands it has absorbed: element index and operand (R110, R111). -/
structure UpdEnt where
  line : Nat
  op : RedOp
  ops : List (Nat × Word)
  deriving DecidableEq, Repr, Inhabited

/-- A compute die (R14, R107, R151). `upd` is in order of use, least recent first. -/
structure Die where
  inReset : Bool
  dsown : Word
  tlb : List Tlb
  upd : List UpdEnt
  deriving DecidableEq, Repr, Inhabited

/-- A request a holder has outstanding for a line (R98). -/
structure Req where
  write : Bool
  /-- number of the attempt, which its messages carry -/
  attempt : Nat
  first : Nat
  sent : Nat
  belay : Bool
  deriving DecidableEq, Repr, Inhabited

/-- A holder's state for a line (R93, R95). -/
structure HLine where
  tokens : Nat
  owner : Bool
  dirty : Bool
  cmp : Bool
  data : Option Line
  forwarding : Bool
  fwdTo : Nat
  /-- a context's scope pin holds the line: its CTXID plus one, 0 for none (R104) -/
  pinned : Nat
  /-- a deferred activation (R105): its requester, or the home itself (`homeSelf`) -/
  deferred : Option Nat
  req : Option Req
  deriving DecidableEq, Repr, Inhabited

/-- The home's state for a line (R97, R109). `away` counts the tokens not at the home, so the default holds all 1024. -/
structure Home where
  away : Nat
  ownerAway : Bool
  hints : List Nat
  /-- the arbiter's active requester plus one, 0 for idle -/
  active : Nat
  queue : List Nat
  /-- holders that have not yet acknowledged the activation, or, once deactivation is broadcast, the deactivation -/
  acks : List Nat
  /-- the active requester's completion has arrived -/
  complete : Bool
  /-- deactivation has been broadcast -/
  deact : Bool
  upd : Option RedOp
  dies : List Nat
  part : List (Nat × Word)
  reds : Nat
  deriving DecidableEq, Repr, Inhabited

/-- An access counter (R89, R91). -/
structure Region where
  count : Nat
  q : Bool
  who : BitVec 9
  deriving DecidableEq, Repr, Inhabited

/-- A fault-ring record before it is written (R378). -/
structure FRec where
  cause : Nat
  kind : Nat
  access : Nat
  source : Nat
  ctx : Nat
  job : Nat
  va : Word
  pc : Word
  count : Word
  info0 : Word
  info1 : Word
  deriving DecidableEq, Repr, Inhabited

/-- A captured task-type record (R338). -/
structure TaskType where
  entry : Word
  vregs : Nat
  links : Nat
  win : Nat
  priv : Bool
  spad : Nat
  arena : Nat
  lslice : Nat
  tbl2 : Word
  tbhbm : Word
  dieMask : BitVec 8
  cluMask : BitVec 4
  coreLo : Nat
  coreHi : Nat
  deriving DecidableEq, Repr, Inhabited

/-- What a member reports of a finished frame (R356, R357): the tick at which its last entry retired, how many entries were late, and
the lowest of them. -/
structure FrameRep where
  member : Nat
  tick : Nat
  nlate : Nat
  first : Nat
  deriving DecidableEq, Repr, Inhabited

/-- The start of the next frame as the leader sends it (R357): its tick, and the late entries of the frame that ends. -/
structure FrameDue where
  tick : Nat
  nlate : Nat
  first : Nat
  deriving DecidableEq, Repr, Inhabited

/-- A running call sheet (R354 to R357). -/
structure Sheet where
  addr : Word
  nent : Nat
  fticks : Nat
  nframe : Nat
  slipn : Nat
  slipAddr : Word
  slipw : Nat
  badent : Nat
  t0 : Nat
  started : Bool
  ended : Bool
  frame : Nat
  start : Nat
  next : Nat
  /-- entries of the current frame released and not retired -/
  live : List Nat
  lastRetire : Nat
  /-- entries of the frame that were late, and the lowest of them -/
  nlate : Nat
  firstLate : Nat
  reports : List FrameRep
  reported : Bool
  due : Option FrameDue
  deriving DecidableEq, Repr, Inhabited

/-- A job as one member package's control die holds it (R343, R385). -/
structure Job where
  live : Bool
  /-- accepted by this member, and not yet by every member (R386) -/
  tentative : Bool
  gang : Word
  admitPkg : Nat
  firmware : Bool
  ptroot : Nat
  types : SMap TaskType
  wins : List Word
  savepool : Word
  saven : Nat
  areas : List Nat
  doneAddr : Nat
  msiv : Nat
  dsmask : BitVec 8
  out : Nat
  infl : Nat
  epoch : Nat
  cancelled : Bool
  dropped : Nat
  absent : Word
  queues : SMap (List QTask)
  lastPlaced : Nat
  sheet : Option Sheet
  round : Option (List Nat)
  deriving DecidableEq, Repr, Inhabited

/-- A job that members are being asked to accept (R386): those that have not answered, and the lowest failing byte offset. -/
structure Capturing where
  id : Nat
  job : Job
  waiting : List Nat
  bad : Option Nat
  deriving DecidableEq, Repr, Inhabited

/-- The registers and units of one package (R90, R110, R377, R383, R388 to R391). -/
structure Pkg where
  frame : Word
  subTick : Nat
  pinlim : Word
  migBase : Word
  migHead : Nat
  migTail : Nat
  migThresh : Nat
  migOvf : Bool
  updEarly : SMap Nat
  fringBase : Word
  fringSize : Nat
  fringHead : Nat
  fringTail : Nat
  fringWaited : Bool
  frecs : List FRec
  admitUsed : Nat
  admitDrop : Nat
  admitState : Nat
  admissions : List (Nat × Bool)
  capturing : Option Capturing
  placeClock : Nat
  mr : SMap (BitVec 384)
  bootReason : Nat
  /-- measured steps of boot that have been made (R388) -/
  bootStage : Nat
  staged : Option (BitVec 384)
  /-- the staged image that a package reset has made the boot firmware (R390) -/
  image : Option (BitVec 384)
  /-- watts by which the power cap lies below 2400 -/
  capDrop : Nat
  badPorts : List Nat
  unreachable : Bool
  machineCheck : Bool
  msi : List Nat
  doe : List Byte
  sideband : List Byte
  mgroups : SMap (List Nat)
  deriving DecidableEq, Repr, Inhabited

/-- A spawn packet (R346): the issuing context with its task's number, the last scalar global access before the record, and
the target package. -/
structure SpawnPkt where
  ctx : Nat
  serial : Nat
  gtag : Nat
  pkg : Nat
  task : QTask
  deriving DecidableEq, Repr, Inhabited

/-- Messages in flight between agents (R94, R97, R100, R109, R280, R304, R343, R348, R357, R386). Holders are numbered
16 pkg + d for the L2 of die d and 16 pkg + 8 for the system cache. -/
inductive Msg where
  /-- a transient request and its forwarded form, with the number of the attempt -/
  | tread (line r att : Nat)
  | twrite (line r att : Nat)
  | fread (line h r att : Nat)
  | fwrite (line h r att : Nat)
  | belay (line r : Nat)
  | activate (line h r : Nat)
  | deactivate (line h : Nat)
  | ack (line h : Nat)
  | belayDone (line r : Nat)
  | toks (line : Nat) (dest : Option Nat) (src n : Nat) (owner dirty cmp : Bool) (data : Option Line)
  | join (line die : Nat) (op : RedOp)
  | hop (core slot : Nat) (data : SMap (BitVec 32))
  | spawn (p : SpawnPkt)
  | spawnAck (p : SpawnPkt) (refused : Bool)
  | cancel (pkg job : Nat)
  /-- a record sent to a member with the address of its task-type table, the member's answer with a failing offset, and the
  admitting package's decision -/
  | capture (pkg job table : Nat) (j : Job)
  | captured (pkg job member : Nat) (bad : Option Nat)
  | keep (pkg job : Nat) (accepted : Bool) (j : Job)
  | report (pkg job : Nat) (r : FrameRep)
  | frame (pkg job f : Nat) (due : FrameDue)
  | notice (c : Nat)
  | ctxcmd (pkg : Nat) (v : Word)
  /-- an access of the host that a pin or a belay request has held back (R105, R382) -/
  | host (pkg pa : Nat) (write : Option Word)
  deriving DecidableEq, Repr, Inhabited

/-- Everything the spec gives a load-store domain (R11, R22). Core-keyed memories are addressed by packed core id and
offset; holder lines by line number times 1024 plus the holder. -/
structure Dev where
  npkg : Nat
  /-- the package whose host port is connected, and whether CXL 3 is enabled there (R382) -/
  bridge : Nat
  cxl : Bool
  caps : List (Nat × Word)
  pageVa : Word
  disabled : List Nat
  cycle : Nat
  ctxs : SMap Ctx
  cores : SMap Core
  vpool : SMap Vec
  cbt : SMap (BitVec 32)
  slots : SMap Slot
  barriers : SMap Barrier
  dies : SMap Die
  gmem : List Host.Cell
  spad : List Host.Cell
  lanes : List Host.Cell
  dspad : List Host.Cell
  badLines : List Nat
  /-- by 2 KiB block of HBM4E whose stored data or state entry has an uncorrectable error: the lines not rewritten since -/
  badBlocks : SMap (BitVec 16)
  badSpad : List Nat
  badLane : List Nat
  badDie : List Nat
  badCtx : List Nat
  holders : SMap HLine
  homes : SMap Home
  updOrder : List Nat
  comp : SMap Nat
  regions : SMap Region
  pkgs : SMap Pkg
  jobs : SMap Job
  chains : SMap Chain
  gens : SMap Nat
  spilled : List (Nat × Ctx)
  msgs : List Msg
  free : Nat
  deriving DecidableEq, Repr, Inhabited

/-- What holds a bundle back (R334): an engine wait, a short stall, or a result due at its count that is late (R167). -/
inductive Wait where
  | engine | short | due
  deriving DecidableEq, Repr, Inhabited

/-- A trap found while a bundle's issue-time conditions are met, with its rank (R68). `late` marks one that reads an operand
value (R400). -/
structure Hit where
  rank : Nat
  slot : Nat
  rec_ : TrapRec
  late : Bool := false
  deriving DecidableEq, Repr, Inhabited

/-- A stop of the bundle: the device as forcing left it, and the trap taken or the wait. -/
structure Stop where
  base : Dev
  hit : Option TrapRec
  wait : Wait
  deriving DecidableEq, Repr, Inhabited

/-- The bundle being assembled (R54): `pre` is the device at the boundary, `saved` the device with the results due there
written, from which sources are read. `words` are the syllables met so far. -/
structure Bundle where
  pre : Dev
  saved : Dev
  addr : Word
  size : Nat
  words : List Word
  hit : Option Hit
  stop : Option Stop
  target : Option Word
  deriving DecidableEq, Repr, Inhabited

/-- What moves next: a step of the machine, the turn of a context, the turns of the primary and secondary that a core has then,
a fresh look at whether the next bundle of a context would wait (R334), the diversion that a context could take (R361), or a host
access held back that tries again (R105, R382). -/
inductive Act where
  | ev (i : Instr)
  | run (c : Nat)
  | turns (core : Nat)
  | look (c : Nat)
  | divert (c : Nat)
  | host (pkg pa : Nat) (write : Option (BitVec 64))
  deriving DecidableEq, Repr, Inhabited

/-- The machine. -/
structure State where
  dev : Dev
  bundle : Option Bundle
  cur : Nat
  agenda : List Act
  deriving DecidableEq, Repr, Inhabited

/-- Why the machine stops with a fault. -/
inductive Fault where
  /-- Raised by no meaning: the spec gives every fault of this machine an effect, so each is a next state. Safe. -/
  | unreachable
  deriving DecidableEq, Repr, Inhabited

/-- Why the model refuses a step. -/
inductive Refusal where
  /-- Raised by exec alone, for an instruction that has no meaning yet. Safe. -/
  | notModelled (mnemonic : String)
  deriving DecidableEq, Repr, Inhabited

/-- One package alone after package reset (R392): no task, no job, every memory cell unlisted, all tokens at their homes.
Log entries 1 to 7 name the values the spec does not state. -/
def Dev.reset : Dev :=
  { (default : Dev) with
    npkg := 1
    cxl := true
    caps := Config.capabilities
    pageVa := 0x7FFFFFFFF000#64 }

/-- The machine right after package reset, with nothing on its agenda. -/
def State.reset : State :=
  { dev := Dev.reset, bundle := none, cur := 0, agenda := [] }

end Sys2Proof.Machine
end

