-- ==== Sys2Proof/Machine/Bits.lean ====
section
/-! DEFINITION. Bit fields, elements of a register, byte order, and selection by a predicate. -/

namespace Sys2Proof.Machine

/-- Bits [lo+n-1:lo] of a word as a number. -/
def bits {k : Nat} (x : BitVec k) (lo n : Nat) : Nat := x.toNat / 2 ^ lo % 2 ^ n

/-- A number's bits [lo+n-1:lo]. -/
def nbits (x lo n : Nat) : Nat := x / 2 ^ lo % 2 ^ n

/-- A bit of a number. -/
def nbit (x k : Nat) : Bool := x / 2 ^ k % 2 == 1

/-- The low `w` bits of `x` as a signed number. -/
def sext (w x : Nat) : Int := if x % 2 ^ w < 2 ^ (w - 1) then (x % 2 ^ w : Nat) else (x % 2 ^ w : Nat) - (2 ^ w : Nat)

/-- An integer modulo 2^w. -/
def wrapN (w : Nat) (t : Int) : Nat := (t % (2 ^ w : Nat)).toNat

/-- A 64-bit word of an integer. -/
def wordOf (t : Int) : Word := BitVec.ofInt 64 t

/-- A bit as a word. -/
def bitWord (b : Bool) : Word := if b then 1#64 else 0#64

/-- Element `i` of width `w` (R6). -/
def elem {k : Nat} (v : BitVec k) (w i : Nat) : Nat := v.toNat / 2 ^ (w * i) % 2 ^ w

/-- Elements of width `w`, element 0 first, as one number. -/
def packN (w : Nat) : List Nat → Nat
  | [] => 0
  | x :: r => x % 2 ^ w + 2 ^ w * packN w r

/-- A vector register from its elements (R6). -/
def packV (w : Nat) (l : List Nat) : Vec := BitVec.ofNat 2048 (packN w l)

/-- A vector register whose element `i` is `f i`. -/
def mkV (w : Nat) (f : Nat → Nat) : Vec := packV w ((List.range (2048 / w)).map f)

/-- Little-endian bytes of a number (R6). -/
def bytesOf (n x : Nat) : List Byte := (List.range n).map fun i => BitVec.ofNat 8 (x / 2 ^ (8 * i))

/-- The number that little-endian bytes make. -/
def ofBytes : List Byte → Nat
  | [] => 0
  | b :: r => b.toNat + 256 * ofBytes r

/-- The guard's selection (R30). -/
def guardSel (neg : Bool) (p : Pred) : Pred := if neg then ~~~p else p

/-- Element `i` of width `w` is selected: the bit of its lowest byte is 1 (R29). -/
def selE (p : Pred) (w i : Nat) : Bool := p.getLsbD (w * i / 8)

/-- All bits of the elements of width `w` that a predicate selects (R29, R30). -/
def selMask (w : Nat) (p : Pred) : Vec := mkV w fun i => if selE p w i then 2 ^ w - 1 else 0

/-- The merge of R30: selected elements from `r`, the others from `old`. -/
def mergeV (m r old : Vec) : Vec := (r &&& m) ||| (old &&& ~~~m)

/-- The predicate whose element bits of width `w` (all w/8 of them) are given (R29). -/
def mkP (w : Nat) (f : Nat → Bool) : Pred :=
  BitVec.ofNat 256 (packN (w / 8) ((List.range (2048 / w)).map fun i => if f i then 2 ^ (w / 8) - 1 else 0))

/-- Whether an address is a multiple of `n`. -/
def alignedTo (n a : Nat) : Bool := a % n == 0

/-- The element of a list at an index, or a default. -/
def at_ {α : Type} [Inhabited α] (l : List α) (i : Nat) : α := (l[i]?).getD default

/-- Replaces the element at an index. -/
def setAt {α : Type} : List α → Nat → α → List α
  | [], _, _ => []
  | _ :: r, 0, y => y :: r
  | x :: r, n + 1, y => x :: setAt r n y

end Sys2Proof.Machine
end

