-- ==== Sys2Proof/Machine/Formats.lean ====
section
/-! DEFINITION. Number formats, exact values, rounding with its flags, and the group rule (R182 to R188, R192, R200 to R202).

A finite value is held exactly as (-1)^neg * m * 2^e; a zero has m = 0. -/

namespace Sys2Proof.Machine

/-- Flags of FPSTAT (R39): [0] invalid, [1] divide-by-zero, [2] overflow, [3] underflow, [4] inexact, [5] NOSEL. -/
abbrev Flags := BitVec 6

def fInvalid : Flags := 1#6
def fDivZero : Flags := 2#6
def fOverflow : Flags := 4#6
def fUnderflow : Flags := 8#6
def fInexact : Flags := 16#6
def fNosel : Flags := 32#6

def flagIf (b : Bool) (f : Flags) : Flags := if b then f else 0#6

/-- An exact value. -/
inductive FVal where
  | nan (signalling : Bool)
  | inf (neg : Bool)
  | fin (neg : Bool) (m : Nat) (e : Int)
  deriving DecidableEq, Repr, Inhabited

namespace FVal

def isNan : FVal → Bool
  | nan _ => true
  | _ => false
def isSnan : FVal → Bool
  | nan s => s
  | _ => false
def isInf : FVal → Bool
  | inf _ => true
  | _ => false
def isZero : FVal → Bool
  | fin _ m _ => m == 0
  | _ => false
def neg : FVal → Bool
  | nan _ => false
  | inf n => n
  | fin n _ _ => n
def negate : FVal → FVal
  | nan s => nan s
  | inf n => inf (!n)
  | fin n m e => fin (!n) m e

/-- An integer as an exact value. -/
def ofInt (t : Int) : FVal := fin (decide (t < 0)) t.natAbs 0

end FVal

/-- Mantissa bits of a format (R182). -/
def mantBits : ET → Nat
  | .f32 => 23
  | .f16 => 10
  | .bf16 => 7
  | .e5m2 => 2
  | .e4m3 => 3
  | .e2m1 => 1
  | _ => 0

/-- Exponent bias of a format (R182). -/
def expBias : ET → Nat
  | .f32 | .bf16 => 127
  | .f16 | .e5m2 => 15
  | .e4m3 => 7
  | .e2m1 => 1
  | _ => 127

/-- The magnitude bits of the largest finite value (R182). -/
def maxBits : ET → Nat
  | .f32 => 0x7F7FFFFF
  | .f16 => 0x7BFF
  | .bf16 => 0x7F7F
  | .e5m2 => 0x7B
  | .e4m3 => 0x7E
  | .e2m1 => 7
  | _ => 254

/-- The canonical NaN (R183). -/
def canonNan : ET → Nat
  | .f32 => 0x7FC00000
  | .f16 => 0x7E00
  | .bf16 => 0x7FC0
  | .e5m2 => 0x7E
  | .e4m3 => 0x7F
  | .e8m0 => 0xFF
  | _ => 0

/-- The bits of an infinity in a format that has one. -/
def infBits (et : ET) : Nat := maxBits et + 1

def signBit (et : ET) (neg : Bool) : Nat := if neg then 2 ^ (et.width - 1) else 0

/-- The exact value of the bits of an element (R182, R184, R185). -/
def valueOf (et : ET) (x : Nat) : FVal :=
  if et.isInt then .ofInt (if et.signed then sext et.width x else (x % 2 ^ et.width : Nat))
  else if et = .e8m0 then (if x % 256 = 255 then .nan false else .fin false 1 ((x % 256 : Nat) - 127))
  else
    let M := mantBits et
    let mag := x % 2 ^ (et.width - 1)
    let neg := nbit x (et.width - 1)
    let ex := mag / 2 ^ M
    let mt := mag % 2 ^ M
    if maxBits et < mag then
      if et = .e4m3 then .nan false
      else if mt = 0 then .inf neg
      else .nan (mt < 2 ^ (M - 1))
    else if ex = 0 then .fin neg mt (1 - (expBias et : Int) - M)
    else .fin neg (2 ^ M + mt) ((ex : Int) - expBias et - M)

/-- m * 2^e rounded to a multiple q of 2^u by a mode: q, and whether it is inexact (R186, R192). `r` is the random word of
SR. -/
def roundAt (rm : RM) (neg : Bool) (m : Nat) (e u : Int) (r : Nat) : Nat × Bool :=
  if u ≤ e then (m * 2 ^ (e - u).toNat, false)
  else
    let sh := (u - e).toNat
    let q := m / 2 ^ sh
    let rest := m % 2 ^ sh
    let half := 2 ^ (sh - 1)
    if rest = 0 then (q, false)
    else
      let up : Bool :=
        match rm with
        | .rne => half < rest || (rest == half && q % 2 == 1)
        | .rna => half ≤ rest
        | .rtz => false
        | .rdn => neg
        | .rup => !neg
        | .sr => r < rest * 2 ^ 32 / 2 ^ sh
        | .dyn => false
      (if up then q + 1 else q, true)

/-- Floor(log2(m * 2^e)) for m > 0. -/
def ilog (m : Nat) (e : Int) : Int := (Nat.log2 m : Int) + e

/-- A nonzero magnitude below the smallest normal after rounding with unbounded exponent (R188). -/
def tiny (et : ET) (rm : RM) (neg : Bool) (m : Nat) (e : Int) (r : Nat) : Bool :=
  let k := ilog m e
  let emin : Int := 1 - expBias et
  if emin ≤ k then false
  else if k < emin - 1 then true
  else (roundAt rm neg m e (k - mantBits et) r).1 < 2 ^ (mantBits et + 1)

/-- The result of an overflow (R187). -/
def overflowBits (et : ET) (rm : RM) (sat neg : Bool) : Nat :=
  let big :=
    if sat then false
    else
      match rm with
      | .rtz => false
      | .rdn => neg
      | .rup => !neg
      | _ => true
  if et = .e2m1 || !big then signBit et neg + maxBits et
  else if et = .e4m3 then canonNan et
  else signBit et neg + infBits et

/-- Rounds a nonzero exact magnitude to a floating-point format (R186 to R188). -/
def roundFin (et : ET) (rm : RM) (sat neg : Bool) (m : Nat) (e : Int) (r : Nat) : Nat × Flags :=
  let M := mantBits et
  let low : Int := 1 - (expBias et : Int) - M
  let u := max (ilog m e - M) low
  let (q, inx) := roundAt rm neg m e u r
  let mag := (u - low).toNat * 2 ^ M + q
  if maxBits et < mag then (overflowBits et rm sat neg, fOverflow ||| fInexact)
  else (signBit et neg + mag, flagIf inx fInexact ||| flagIf (inx && tiny et rm neg m e r) fUnderflow)

/-- Conversion to e8m0 of a positive magnitude (R185). -/
def roundE8 (rm : RM) (sat : Bool) (m : Nat) (e : Int) (r : Nat) : Nat × Flags :=
  let k := ilog m e
  if k < -127 then (0, fUnderflow ||| fInexact)
  else
    let (q, inx) := roundAt rm false m e k r
    -- a tie at 1.5 * 2^k goes to the even E under RNE
    let tie := inx && 2 * m == 3 * 2 ^ Nat.log2 m
    let up := if rm = .rne && tie then (k + 127) % 2 != 0 else q == 2
    let E := k + 127 + (if up then 1 else 0)
    if 254 < E then (if sat then 254 else 255, fOverflow ||| fInexact)
    else (E.toNat, flagIf inx fInexact)

/-- Converts an exact value to a floating-point format, e8m0 included (R185 to R188, R219). -/
def toFloat (et : ET) (rm : RM) (sat : Bool) (r : Nat) : FVal → Nat × Flags
  | .nan s =>
    if et = .e2m1 || et = .e8m0 then (canonNan et, fInvalid) else (canonNan et, flagIf s fInvalid)
  | .inf n =>
    if et = .e8m0 then
      (if n then (255, fInvalid) else if sat then (254, 0#6) else (255, fInvalid))
    else if et = .e4m3 then (if sat then (signBit et n + maxBits et, 0#6) else (canonNan et, fInvalid))
    else if et = .e2m1 then (signBit et n + maxBits et, flagIf (!sat) fInvalid)
    else (signBit et n + infBits et, 0#6)
  | .fin n m e =>
    if et = .e8m0 then (if n || m == 0 then (255, fInvalid) else roundE8 rm sat m e r)
    else if m = 0 then (signBit et n, 0#6)
    else roundFin et rm sat n m e r

/-- Bounds of an integer type (R184). -/
def minOf (et : ET) : Int := if et.signed then -(2 ^ (et.width - 1) : Nat) else 0
def maxOf (et : ET) : Int := if et.signed then (2 ^ (et.width - 1) - 1 : Nat) else (2 ^ et.width - 1 : Nat)

def clampI (lo hi t : Int) : Int := if t < lo then lo else if hi < t then hi else t

/-- Converts a floating-point value to an integer type (R219). -/
def toInt (et : ET) (rm : RM) (sat : Bool) (r : Nat) : FVal → Nat × Flags
  | .nan _ => (0, fInvalid)
  | .inf n => (wrapN et.width (if n then minOf et else maxOf et), if sat then fInexact else fInvalid)
  | .fin n m e =>
    let (q, inx) := roundAt rm n m e 0 r
    let t : Int := if n then -(q : Int) else q
    let c := clampI (minOf et) (maxOf et) t
    (wrapN et.width c, if c ≠ t then (if sat then fInexact else fInvalid) else flagIf inx fInexact)

/-- `vcvt`'s Convert (R219). -/
def convert (src dst : ET) (rm : RM) (sat : Bool) (r x : Nat) : Nat × Flags :=
  if src.isInt && dst.isInt then
    let t : Int := if src.signed then sext src.width x else (x % 2 ^ src.width : Nat)
    (wrapN dst.width (if sat && decide (dst.width < src.width) then clampI (minOf dst) (maxOf dst) t else t), 0#6)
  else if dst.isInt then toInt dst rm sat r (valueOf src x)
  else toFloat dst rm sat r (valueOf src x)

/-! ## Exact arithmetic -/

/-- The exact sum of two finite values as a signed integer over a power of two. -/
def sumZ (n1 : Bool) (m1 : Nat) (e1 : Int) (n2 : Bool) (m2 : Nat) (e2 : Int) : Int × Int :=
  let e := min e1 e2
  let a : Int := (m1 * 2 ^ (e1 - e).toNat : Nat)
  let b : Int := (m2 * 2 ^ (e2 - e).toNat : Nat)
  ((if n1 then -a else a) + (if n2 then -b else b), e)

/-- x + y exactly, with the signs of zero of R223; `rdn` for RDN. -/
def addX (rdn : Bool) : FVal → FVal → FVal × Flags
  | .nan s, y => (.nan false, flagIf (s || y.isSnan) fInvalid)
  | x, .nan s => (.nan false, flagIf (s || x.isSnan) fInvalid)
  | .inf a, .inf b => if a = b then (.inf a, 0#6) else (.nan false, fInvalid)
  | .inf a, .fin _ _ _ => (.inf a, 0#6)
  | .fin _ _ _, .inf b => (.inf b, 0#6)
  | .fin n1 m1 e1, .fin n2 m2 e2 =>
    let (z, e) := sumZ n1 m1 e1 n2 m2 e2
    if z = 0 then
      if m1 = 0 then (.fin (if rdn then n1 || n2 else n1 && n2) 0 0, 0#6) else (.fin rdn 0 0, 0#6)
    else (.fin (decide (z < 0)) z.natAbs e, 0#6)

/-- x * y exactly (R223). -/
def mulX : FVal → FVal → FVal × Flags
  | .nan s, y => (.nan false, flagIf (s || y.isSnan) fInvalid)
  | x, .nan s => (.nan false, flagIf (s || x.isSnan) fInvalid)
  | .inf a, y => if y.isZero then (.nan false, fInvalid) else (.inf (a != y.neg), 0#6)
  | x, .inf b => if x.isZero then (.nan false, fInvalid) else (.inf (x.neg != b), 0#6)
  | .fin n1 m1 e1, .fin n2 m2 e2 => (.fin (n1 != n2) (m1 * m2) (e1 + e2), 0#6)

/-- x * y + z exactly; a signalling z counts even when the product is already a NaN (R223). -/
def fmaX (rdn : Bool) (x y z : FVal) : FVal × Flags :=
  let (p, f) := mulX x y
  let (t, g) := addX rdn p z
  (t, f ||| g)

/-- Rounds an arithmetic result (R223). -/
def roundRes (et : ET) (rm : RM) (sat : Bool) (r : Nat) (t : FVal × Flags) : Nat × Flags :=
  let (b, f) := toFloat et rm sat r t.1
  (b, f ||| t.2)

def addF (et : ET) (rm : RM) (sat : Bool) (r a b : Nat) : Nat × Flags :=
  roundRes et rm sat r (addX (rm == .rdn) (valueOf et a) (valueOf et b))
def subF (et : ET) (rm : RM) (sat : Bool) (r a b : Nat) : Nat × Flags :=
  roundRes et rm sat r (addX (rm == .rdn) (valueOf et a) (valueOf et b).negate)
def mulF (et : ET) (rm : RM) (sat : Bool) (r a b : Nat) : Nat × Flags :=
  roundRes et rm sat r (mulX (valueOf et a) (valueOf et b))
def fmaF (et : ET) (rm : RM) (sat : Bool) (r a b c : Nat) : Nat × Flags :=
  roundRes et rm sat r (fmaX (rm == .rdn) (valueOf et a) (valueOf et b) (valueOf et c))
def fmsF (et : ET) (rm : RM) (sat : Bool) (r a b c : Nat) : Nat × Flags :=
  roundRes et rm sat r (fmaX (rm == .rdn) (valueOf et a) (valueOf et b) (valueOf et c).negate)

/-! ## Comparison -/

/-- Order of two values that are not NaN; -0 and +0 are equal. -/
def cmpX : FVal → FVal → Ordering
  | .inf a, .inf b => if a = b then .eq else if a then .lt else .gt
  | .inf a, _ => if a then .lt else .gt
  | _, .inf b => if b then .gt else .lt
  | .fin n1 m1 e1, .fin n2 m2 e2 => compare (sumZ n1 m1 e1 (!n2) m2 e2).1 0
  | _, _ => .eq

/-- The order in which -0 lies below +0 (R224, R236). -/
def ltX (a b : FVal) : Bool :=
  match cmpX a b with
  | .lt => true
  | .gt => false
  | .eq => a.neg && !b.neg

/-- `vfmin` (smaller) and `vfmax` of two elements (R224). -/
def minmaxF (et : ET) (mx : Bool) (a b : Nat) : Nat × Flags :=
  let x := valueOf et a
  let y := valueOf et b
  let fl := flagIf (x.isSnan || y.isSnan) fInvalid
  if x.isNan && y.isNan then (canonNan et, fl)
  else if x.isNan then (b, fl)
  else if y.isNan then (a, fl)
  else ((if mx then (if ltX x y then b else a) else (if ltX y x then b else a)), fl)

/-- Conditions of `vcmp` on floating-point elements (R210). -/
def cmpF (c : VCond) (x y : FVal) : Bool × Flags :=
  let un := x.isNan || y.isNan
  let sn := x.isSnan || y.isSnan
  let o := cmpX x y
  match c with
  | .eq => (!un && o == .eq, flagIf sn fInvalid)
  | .ne => (un || o != .eq, flagIf sn fInvalid)
  | .lt => (!un && o == .lt, flagIf un fInvalid)
  | .le => (!un && o != .gt, flagIf un fInvalid)
  | .gt => (!un && o == .gt, flagIf un fInvalid)
  | .ge => (!un && o != .lt, flagIf un fInvalid)
  | .uo => (un, flagIf sn fInvalid)
  | .ord => (!un, flagIf sn fInvalid)

/-- Conditions on integers (R61, R210). -/
def cmpI (c : VCond) (x y : Int) : Bool :=
  match c with
  | .eq => x == y
  | .ne => x != y
  | .lt => decide (x < y)
  | .le => decide (x ≤ y)
  | .gt => decide (y < x)
  | .ge => decide (y ≤ x)
  | .uo | .ord => false

/-! ## The group rule -/

/-- Adder width W of a format pair's row (R201). -/
def groupW : ET → Nat
  | .bf16 | .f16 => 48
  | .e4m3 | .e5m2 => 25
  | _ => 24

/-- Group size G of a row (R201). -/
def groupG : ET → Nat
  | .bf16 | .f16 => 8
  | .e4m3 | .e5m2 => 16
  | _ => 32

/-- The exact product of two values, none for a product the rule calls special (R202). -/
def prodZ (a b : FVal) : Option (Int × Int) :=
  match a, b with
  | .fin n1 m1 e1, .fin n2 m2 e2 =>
    some ((if n1 != n2 then -((m1 * m2 : Nat) : Int) else ((m1 * m2 : Nat) : Int)), e1 + e2)
  | _, _ => none

/-- Floor(z * 2^k). -/
def floorShift (z : Int) (k : Int) : Int := if 0 ≤ k then z * (2 ^ k.toNat : Nat) else z / (2 ^ (-k).toNat : Nat)

/-- Largest floor(log2) of the nonzero products. -/
def groupE : List (Int × Int) → Option Int
  | [] => none
  | (z, e) :: r =>
    let rest := groupE r
    if z = 0 then rest
    else
      let k := ilog z.natAbs e
      match rest with
      | none => some k
      | some j => some (max k j)

/-- The value of one group with its scales, and the flags it raises (R200, R202). `L` is the adder bit of the leading
one. A value that is NaN raises invalid, a quiet NaN operand's too (log entry 15). -/
def groupV (L : Nat) (ps : List (FVal × FVal)) (scale : FVal) : FVal × Flags :=
  let prods := ps.map fun (a, b) => (mulX a b).1
  if prods.any FVal.isNan || scale.isNan then (.nan false, fInvalid)
  else if prods.any (fun p => p == .inf true) && prods.any (fun p => p == .inf false) then (.nan false, fInvalid)
  else if prods.any (fun p => p == .inf true) then (.inf true, 0#6)
  else if prods.any (fun p => p == .inf false) then (.inf false, 0#6)
  else
    let zs := ps.filterMap fun (a, b) => prodZ a b
    match groupE zs with
    | none => (.fin false 0 0, 0#6)
    | some E =>
      let acc : Int := zs.foldl (fun (s : Int) (z, e) => s + floorShift z (e + L - E)) 0
      let lost := zs.any fun (z, e) => decide (e + L - E < 0) && z % (2 ^ (E - e - L).toNat : Nat) != 0
      let v := (mulX (.fin (decide (acc < 0)) acc.natAbs (E - L)) scale).1
      (if acc = 0 then .fin false 0 0 else v, flagIf lost fInexact)

/-- One group added to the accumulator S (R200). -/
def groupAdd (L : Nat) (ps : List (FVal × FVal)) (scale : FVal) (S : Nat) : Nat × Flags :=
  let (v, f) := groupV L ps scale
  let (t, f1) := toFloat .f32 .rne false 0 v
  let (S', f2) := addF .f32 .rne false 0 S t
  (S', f ||| f1 ||| f2)

end Sys2Proof.Machine
end

