-- ==== Sys2Proof/Machine/Ops.lean ====
section
/-! DEFINITION. Named operations over contexts, registers, results in flight, traps and bundles.

A syllable is checked and run by `syllable`, a bundle is opened, closed, committed or suppressed here, and a trap is taken
by `takeTrap` (R363, R366, R376). -/

namespace Sys2Proof.Machine

abbrev Out := Host.Outcome State Fault Refusal

/-! ## Coordinates of a context (R12, R38) -/

/-- Packed core id of a context. -/
def coreOf (c : Nat) : Nat := c % 2 ^ 17
def pkgOf (c : Nat) : Nat := c / 2 ^ 11 % 64
/-- Die within the package. -/
def dieOf (c : Nat) : Nat := c / 2 ^ 8 % 8
/-- Packed die id: 8 pkg + die. -/
def dieKey (c : Nat) : Nat := c / 2 ^ 8 % 2 ^ 9
/-- Packed cluster id. -/
def clusterOf (c : Nat) : Nat := c / 2 ^ 6 % 2 ^ 11
def coreIdx (c : Nat) : Nat := c % 2 ^ 6
def ctxNum (c : Nat) : Nat := c / 2 ^ 17 % 4
/-- The L2 holder of a context's die (R92). -/
def holderOf (c : Nat) : Nat := 16 * pkgOf c + dieOf c
/-- The CTXID of a context number on a core. -/
def ctxId (core n : Nat) : Nat := n * 2 ^ 17 + core

def Dev.ctx (d : Dev) (c : Nat) : Ctx := d.ctxs.get c
def Dev.setCtx (d : Dev) (c : Nat) (k : Ctx) : Dev := { d with ctxs := d.ctxs.set c k }
def Dev.updCtx (d : Dev) (c : Nat) (f : Ctx → Ctx) : Dev := d.setCtx c (f (d.ctx c))
def Dev.pkg (d : Dev) (p : Nat) : Pkg := d.pkgs.get p
def Dev.updPkg (d : Dev) (p : Nat) (f : Pkg → Pkg) : Dev := { d with pkgs := d.pkgs.set p (f (d.pkgs.get p)) }

/-- The job record a package holds. -/
def jobKey (pkg job : Nat) : Nat := job * 64 + pkg
def Dev.job (d : Dev) (pkg job : Nat) : Job := d.jobs.get (jobKey pkg job)
def Dev.updJob (d : Dev) (pkg job : Nat) (f : Job → Job) : Dev :=
  { d with jobs := d.jobs.set (jobKey pkg job) (f (d.job pkg job)) }

/-- The capability list of a package: what firmware lists, and cross-package chains in a domain of more than one package alone
(R21). -/
def Dev.capList (d : Dev) : List (Nat × Word) :=
  (d.caps.filter fun e => e.1 < 4) ++ (if 1 < d.npkg then [(4, Config.chainCapability)] else []) ++ d.caps.filter fun e => 4 < e.1

/-- FEAT of a capability, none where it is absent (R19, R21). -/
def Dev.feat (d : Dev) (id : Nat) : Option Word :=
  match d.capList.find? (fun e => e.1 == id) with
  | some e => some e.2
  | none => none

def Dev.featBit (d : Dev) (id k : Nat) : Bool :=
  match d.feat id with
  | some w => w.getLsbD k
  | none => false

/-! ## Memory as cells -/

/-- A byte of a memory: the value of an unlisted address is 0 (log entry 2). -/
def rdByte (m : List Host.Cell) (a : Nat) : Byte := SMap.get m a

/-- Writes a byte, keeping the canonical form. -/
def wrByte (m : List Host.Cell) (a : Nat) (b : Byte) : List Host.Cell := SMap.set m a b

/-- `n` bytes from an address, as a little-endian number (R6). -/
def rdMem (m : List Host.Cell) (a n : Nat) : Nat := ofBytes ((List.range n).map fun i => rdByte m (a + i))

/-- Writes bytes from an address on. -/
def wrMem (m : List Host.Cell) (a : Nat) : List Byte → List Host.Cell
  | [] => m
  | b :: r => wrMem (wrByte m a b) (a + 1) r

/-- Writes those bytes of a list whose flag is set. -/
def wrMemSel (m : List Host.Cell) (a : Nat) : List (Bool × Byte) → List Host.Cell
  | [] => m
  | (s, b) :: r => wrMemSel (if s then wrByte m a b else m) (a + 1) r

/-! ## Special registers (R37) -/

namespace Spr
def passcnt : Nat := 0x010
def draincnt : Nat := 0x011
def rotofs : Nat := 0x012
def fpctl : Nat := 0x020
def fpstat : Nat := 0x021
def rngkey0 : Nat := 0x030
def rngkey1 : Nat := 0x031
def rngctr : Nat := 0x032
def hwb : Nat := 0x040
def hwl : Nat := 0x041
def hwo : Nat := 0x042
def utvec : Nat := 0x050
def utcause : Nat := 0x051
def utpc : Nat := 0x052
def utstat : Nat := 0x053
def utinfo0 : Nat := 0x054
def nodepc : Nat := 0x058
def nodebclk : Nat := 0x059
def utmask : Nat := 0x05A
def cuevec : Nat := 0x060
def cueen : Nat := 0x061
def cuepend : Nat := 0x062
def cuepc : Nat := 0x063
def gsess : Nat := 0x070
def tbl2 : Nat := 0x090
def tbhbm : Nat := 0x091
def aliascnt : Nat := 0x0C0
def ovfcnt : Nat := 0x0C1
def swcnt : Nat := 0x0C2
def pinlim : Nat := 0x0D0
def saveptr : Nat := 0x0E0
end Spr

def Ctx.spr' (k : Ctx) (n : Nat) : Word := k.spr.get n
def Ctx.setSpr (k : Ctx) (n : Nat) (v : Word) : Ctx := { k with spr := k.spr.set n v }

/-- The heap window of a context as its registers stand (R74). -/
def Ctx.win (k : Ctx) : Win := { base := k.spr' Spr.hwb, len := k.spr' Spr.hwl, off := k.spr' Spr.hwo }

/-- A context whose window registers read as a window; an access is translated by the window of its issue (R74). -/
def Ctx.setWin (k : Ctx) (w : Win) : Ctx := ((k.setSpr Spr.hwb w.base).setSpr Spr.hwl w.len).setSpr Spr.hwo w.off

/-- A special register as a bundle at `addr` reads it (R27, R36, R37). -/
def readSpr (d : Dev) (c : Nat) (addr : Word) (n : Nat) : Word :=
  let k := d.ctx c
  match n with
  | 0x000 => k.bclk
  | 0x001 => addr
  | 0x002 => BitVec.ofNat 64 (c % 2 ^ 19)
  | 0x003 => k.task.arg
  | 0x004 => BitVec.ofNat 64 k.task.job
  | 0x012 => if k.allot.vSize = 32 then k.spr' 0x012 else 0#64
  | 0x080 => BitVec.ofNat 64 (k.allot.vSize * 256 + k.allot.vBase)
  | 0x0A0 => (d.pkg (pkgOf c)).frame
  | 0x0A1 =>
    match k.task.sheet with
    | some (f, _) => BitVec.ofNat 64 f
    | none => BitVec.allOnes 64
  | 0x0B0 => d.pageVa
  | 0x0E1 => BitVec.ofNat 64 Config.saveSize
  | _ => k.spr' n

/-! ## Registers (R22 to R29) -/

/-- The shadows of s56 to s63 serve while a cue handler runs (R24, R128). -/
def Ctx.inCue (k : Ctx) : Bool := k.hs == .cue || k.hs == .trapInCue

/-- The privilege at which instructions run: a cue handler runs at user privilege (R36, R128, R363). -/
def Ctx.privNow (k : Ctx) : Bool := k.priv && k.hs != .cue

/-- Physical scalar of a name: s56 to s63 have shadows at 64 to 71. -/
def Ctx.sphys (k : Ctx) (r : Nat) : Nat := if k.inCue && decide (56 ≤ r) then r + 8 else r

/-- A scalar as read; s0 reads zero (R24). -/
def Ctx.rdS (k : Ctx) (r : BitVec 6) : Word := if r = 0#6 then 0#64 else k.sreg.get (k.sphys r.toNat)

/-- POFS and VOFS, zero under an allotment below 32 (R27). -/
def Ctx.pofs (k : Ctx) : Nat := if k.allot.vSize = 32 then bits (k.spr' Spr.rotofs) 8 3 else 0
def Ctx.vofs (k : Ctx) : Nat := if k.allot.vSize = 32 then bits (k.spr' Spr.rotofs) 0 4 else 0

/-- Physical predicate of a name (R27). -/
def Ctx.pphys (k : Ctx) (p : BitVec 4) : Nat :=
  if p.toNat < 8 then p.toNat else 8 + (p.toNat - 8 + k.pofs) % 8

/-- A predicate as read; p0 is all ones (R22, R29). -/
def Ctx.rdP (k : Ctx) (p : BitVec 4) : Pred := if p = 0#4 then BitVec.allOnes 256 else k.preg.get (k.pphys p)

/-- Physical vector register of a name (R27). -/
def Ctx.vphys (k : Ctx) (v : Nat) : Nat :=
  if v < 16 then k.allot.vBase + v else k.allot.vBase + 16 + (v - 16 + k.vofs) % 16

/-- Place of a physical vector register in the pool of a core. -/
def vkey (c phys : Nat) : Nat := coreOf c * 128 + phys

def Dev.rdV (d : Dev) (c v : Nat) : Vec := d.vpool.get (vkey c ((d.ctx c).vphys v))

/-- The scalar destination of a field; a field of 0 discards (R24). -/
def Ctx.destS (k : Ctx) (r : BitVec 6) : Dest := if r = 0#6 then .none else .scalar (k.sphys r.toNat)

/-- The predicate destination of a field; p0 discards (R29). -/
def Ctx.destP (k : Ctx) (p : BitVec 4) : Dest := if p = 0#4 then .none else .pred (k.pphys p)

def Ctx.orFpstat (k : Ctx) (f : Flags) : Ctx :=
  k.setSpr Spr.fpstat (k.spr' Spr.fpstat ||| BitVec.ofNat 64 f.toNat)

/-! ## Results in flight (R165 to R171, R365 to R368) -/

/-- Address of element `e` of a stream (R140). -/
def Stream.elemAddr (q : Stream) (e : Nat) : Int :=
  let n1 := at_ q.counts 0
  let n2 := at_ q.counts 1
  let n3 := at_ q.counts 2
  let i1 := e % n1
  let i2 := e / n1 % n2
  let i3 := e / (n1 * n2) % n3
  let i4 := e / (n1 * n2 * n3)
  q.base + i1 * at_ q.strides 0 + i2 * at_ q.strides 1 + i3 * at_ q.strides 2 + i4 * at_ q.strides 3

/-- A result enters a stream as the element it was given at issue (R142). -/
def Stream.push (q : Stream) (e : Entry) : Stream :=
  match e.dest with
  | .push _ space addr elem ticket win =>
    { q with pushed := q.pushed ++ [{ space := space, addr := addr, elem := elem, val := e.val, sel := e.sel, gtag := e.gtag
                                      ticket := ticket, slot := e.slot, opc := e.opc, win := win }] }
  | _ => q

/-- A delivered vector result moves the most recent latch into the previous one (R171). -/
def Latch.enter (l : Latch) (v : Vec) : Latch := { cur := some v, prev := l.cur }

def Ctx.enterLatch (k : Ctx) (p : Option Pair) (v : Vec) : Ctx :=
  match p with
  | none => k
  | some .va => { k with la := k.la.enter v }
  | some .vb => { k with lb := k.lb.enter v }
  | some .lds => { k with ll := k.ll.enter v }

/-- Writes the destination of an entry. -/
def writeDest (d : Dev) (c : Nat) (e : Entry) : Dev :=
  match e.dest with
  | .none => d
  | .scalar r => d.updCtx c fun k => { k with sreg := k.sreg.set r (e.val.extractLsb' 0 64) }
  | .vec r => { d with vpool := d.vpool.set (vkey c r) e.val }
  | .pred r => d.updCtx c fun k => { k with preg := k.preg.set r (e.val.extractLsb' 0 256) }
  | .push q _ _ _ _ _ => d.updCtx c fun k => { k with streams := k.streams.update q fun st => st.push e }

/-- A fault of an entry that is found only after its due count (R159). -/
def Entry.lateFault (e : Entry) : Option TrapRec := e.fault.filter fun r => r.imp

/-- Delivers one entry: its destination, its latch, its flags (R166, R171, R188); a fault found late comes at the next boundary
(R159). -/
def deliver1 (d : Dev) (c : Nat) (e : Entry) : Dev :=
  (writeDest d c e).updCtx c fun k =>
    let k1 := (k.enterLatch e.latch e.val).orFpstat e.flags
    { k1 with asyncs := k1.asyncs ++ e.lateFault.toList }

/-- Delivers entries in the order of R55. -/
def deliverAll (d : Dev) (c : Nat) : List Entry → Dev
  | [] => d
  | e :: r => deliverAll (deliver1 d c e) c r

def Entry.due (e : Entry) : Bool := e.rem == 0

/-- Delivers what is due at the boundary (R166). -/
def deliverDue (d : Dev) (c : Nat) : Dev :=
  let es := (d.ctx c).infl
  (deliverAll d c (es.filter Entry.due)).updCtx c fun k => { k with infl := es.filter fun e => !e.due }

/-- Some result due now has neither a value nor a fault (R167). -/
def Ctx.dueWaits (k : Ctx) : Bool := k.infl.any fun e => e.due && !e.ready && e.fault.isNone

/-- The first entry due now that carries a fault (R361), but for one that is found later (R159). -/
def Ctx.dueFault (k : Ctx) : Option Entry := k.infl.find? fun e => e.due && e.fault.isSome && e.lateFault.isNone

/-- One bundle of the stream issues: every entry is one count nearer (R165). -/
def age (l : List Entry) : List Entry := l.map fun e => { e with rem := e.rem - 1 }

def addEntry (d : Dev) (c : Nat) (e : Entry) : Dev := d.updCtx c fun k => { k with infl := k.infl ++ [e] }

/-- Outstanding entries: neither value nor fault has arrived (R365). -/
def Ctx.outstanding (k : Ctx) : Nat := (k.infl.filter fun e => !e.ready && e.fault.isNone).length

/-! ## Taking a trap (R358 to R366, R376) -/

def Ctx.invalidate (k : Ctx) : Ctx := { k with la := default, lb := default, ll := default }

/-- A cause goes to the user handler (R360). -/
def Ctx.userRoute (k : Ctx) (cause : Nat) : Bool :=
  (k.spr' Spr.utmask).getLsbD cause && k.spr' Spr.utvec != 0#64 && (k.hs == .stream || k.hs == .cue)

def HS.code : HS → Nat
  | stream => 0
  | cue => 1
  | trap => 2
  | trapInCue => 3

/-- UTSTAT of a trap (R364): the state left, whether the trap is asynchronous, whether an entry carries a fault, and how many
entries are frozen. -/
def trapStat (k : Ctx) (r : TrapRec) : Word :=
  BitVec.ofNat 64 ((k.infl.length % 256) * 2 ^ 16 + (if k.infl.any fun e => e.fault.isSome then 8 else 0) +
    (if r.imp then 4 else 0) + k.hs.code)

/-- Special registers written in order. -/
def sprWrites (m : SMap Word) : List (Nat × Word) → SMap Word
  | [] => m
  | (n, v) :: l => sprWrites (m.set n v) l

/-- What the trap registers receive (R256, R363, R364). -/
def trapWrites (k : Ctx) (r : TrapRec) : List (Nat × Word) :=
  [(Spr.utcause, BitVec.ofNat 64 r.cause), (Spr.utpc, r.utpc), (Spr.utinfo0, r.info0), (Spr.utinfo0 + 1, r.info1),
   (Spr.utinfo0 + 2, r.info2), (Spr.utinfo0 + 3, r.info3)] ++
  (if r.cause = 0x10 then [(Spr.nodepc, r.nodePc), (Spr.nodebclk, r.nodeBclk)] else []) ++ [(Spr.utstat, trapStat k r)]

/-- Entry to the user handler (R363, R364): the stream's entries are frozen as the trap's group. -/
def enterUser (k : Ctx) (r : TrapRec) : Ctx :=
  { k with
    gTrap := k.infl
    infl := []
    la := default
    lb := default
    ll := default
    spr := sprWrites k.spr (trapWrites k r)
    hs := if k.hs = .cue then .trapInCue else .trap
    pc := k.spr' Spr.utvec
    xfer := some (0#64, k.spr' Spr.utvec)
    waiting := false
    dueStall := 0
    aliased := [] }

/-- The record of a trap routed to firmware (R378, R403). KIND 2 is a double trap. -/
def trapRecord (d : Dev) (c : Nat) (r : TrapRec) : FRec :=
  let k := d.ctx c
  { cause := r.cause
    kind := if k.hs = .trap || k.hs = .trapInCue then 2 else 0
    access := r.access + (if k.privNow then 8 else 0) + r.slot * 16
    source := r.opc
    ctx := c % 2 ^ 19
    job := k.task.job
    va := r.va
    pc := r.utpc
    count := k.bclk
    info0 := r.info0
    info1 := r.info1 }

def addRecord (d : Dev) (pkg : Nat) (r : FRec) : Dev := d.updPkg pkg fun p => { p with frecs := p.frecs ++ [r] }

/-- A secondary that is suspended gives its role up (R401). -/
def leaveSecondary (c : Nat) (x : Core) : Core := if x.secondary = ctxNum c + 1 then { x with secondary := 0 } else x

/-- A trap routed to firmware freezes the stream and suspends the context (R376). -/
def suspendFor (d : Dev) (c : Nat) (r : TrapRec) : Dev :=
  let d1 := addRecord d (pkgOf c) (trapRecord d c r)
  { d1 with cores := d1.cores.update (coreOf c) (leaveSecondary c) }.updCtx c fun k =>
    { k with gSave := k.infl, infl := [], susp := some r, waiting := false, dueStall := 0, aliased := [] }.invalidate

/-- Takes a trap at the boundary (R360, R362). -/
def takeTrap (d : Dev) (c : Nat) (r : TrapRec) : Dev :=
  if (d.ctx c).userRoute r.cause then d.updCtx c fun k => enterUser k r else suspendFor d c r

/-- The entry whose fault is taken is consumed and its flags are ORed in (R189, R366). An access to main memory that firmware
will replay stays in flight without its value (R376). -/
def consumeFault (d : Dev) (c : Nat) (e : Entry) (r : TrapRec) : Dev :=
  let user := (d.ctx c).userRoute r.cause
  let again := { e with fault := none, ready := false }
  d.updCtx c fun k =>
    if !user && e.acc != 0 then { k with infl := k.infl.map fun x => if x = e then again else x }.orFpstat e.flags
    else { k with infl := k.infl.erase e, failed := k.failed.filter fun a => a.tag != e.acc }.orFpstat e.flags

/-- Takes the result-time fault of an entry (R358). -/
def takeResultFault (d : Dev) (c : Nat) (e : Entry) (r : TrapRec) : Dev :=
  takeTrap (consumeFault d c e r) c { r with utpc := (d.ctx c).pc }

/-- The group a return re-injects joins the stream (R367). -/
def reinject (k : Ctx) (g : List Entry) : Ctx := { k with infl := g ++ k.infl }.invalidate

/-! ## Tasks of a context number -/

/-- Tasks that hold a context number: in place, or spilled. -/
def tasksAt (d : Dev) (c : Nat) : List Ctx :=
  d.ctx c :: (d.spilled.filter fun s => s.1 == c).map Prod.snd

/-- Runs a step on a spilled task as if it were in place at its context number. -/
def onSpilled (d : Dev) (i : Nat) (f : Dev → Dev) : Dev :=
  match d.spilled[i]? with
  | some (c, k) =>
    let here := d.ctx c
    let d1 := f (d.setCtx c k)
    { d1 with spilled := setAt d1.spilled i (c, d1.ctx c) }.setCtx c here
  | none => d

/-- Runs a step of a context's engines on the task in the context's place and on every task of that number that is spilled
(R124, R374). -/
def onTasks (d : Dev) (c : Nat) (f : Dev → Dev) : Dev :=
  let one (d : Dev) (i : Nat) : Dev := if (d.spilled[i]?).any fun x => x.1 == c then onSpilled d i f else d
  (List.range d.spilled.length).foldl one (f d)

/-- Changes the task of a context number that has a serial number, in place or spilled. -/
def onSerial (d : Dev) (c serial : Nat) (f : Ctx → Ctx) : Dev :=
  let mine (k : Ctx) : Bool := k.serial == serial && (k.cond == .resident || k.cond == .saved)
  let d1 := if mine (d.ctx c) then d.updCtx c f else d
  { d1 with spilled := d1.spilled.map fun x => if x.1 = c && mine x.2 then (x.1, f x.2) else x }

/-! ## Checking and running a syllable (R54, R68, R400) -/

/-- What a syllable sees as it issues. -/
structure Env where
  /-- the device at the boundary -/
  pre : Dev
  /-- the device from which sources are read -/
  d0 : Dev
  c : Nat
  /-- address of the bundle -/
  addr : Word
  /-- address of the syllable -/
  sylAddr : Word
  word : Word
  /-- address after the bundle (R178) -/
  next : Word
  deriving DecidableEq, Repr

namespace Env

/-- The issuing context. -/
def k (E : Env) : Ctx := E.d0.ctx E.c
def slot (E : Env) : Nat := bits E.word 60 3
def opc (E : Env) : Nat := bits E.word 52 8
def rdS (E : Env) (r : BitVec 6) : Word := E.k.rdS r
def rdP (E : Env) (p : BitVec 4) : Pred := E.k.rdP p

/-- The selection of a guard (R30). -/
def sel (E : Env) (g : Guard) : Pred := guardSel g.neg (E.rdP g.p)

/-- Bit 0 of the selection, which every syllable but a vector one tests (R30). -/
def on (E : Env) (g : Guard) : Bool := (E.sel g).getLsbD 0

/-- The instruction tag (R112). -/
def tag (E : Env) (imp : Bool) : Word := BitVec.ofNat 64 (E.opc + (if imp then 256 else 0) + E.slot * 512)

/-- A trap of this syllable at the boundary before its bundle; UTINFO0 and UTINFO1 as R363 gives them by default. -/
def trap (E : Env) (cause : Nat) : TrapRec :=
  { (default : TrapRec) with
    cause := cause, utpc := E.addr, info0 := E.sylAddr, info1 := E.word, slot := E.slot, opc := E.opc }

/-- A failed check. Those of rank 9 read operand values (R400). -/
def hit (E : Env) (rank : Nat) (r : TrapRec) : Hit := { rank := rank, slot := E.slot, rec_ := r, late := rank == 9 }

/-- A failed check of rank 9 that reads no operand value (R400). -/
def hitNow (E : Env) (r : TrapRec) : Hit := { E.hit 9 r with late := false }

/-- A failed check of rank 9 that reads no operand value but the guard's: p0 is known at once (R400). -/
def hitGuarded (E : Env) (g : Guard) (r : TrapRec) : Hit := { E.hit 9 r with late := g.p != 0#4 }

/-- A failed check of encoding or operands (R69). -/
def illegal (E : Env) : Hit := E.hit 5 (E.trap 0x02)

/-- ILLEGAL_OPERAND of an operand value (R69, R400). -/
def illegalValue (E : Env) : Hit := { E.illegal with late := true }

/-- ILLEGAL_OPERAND with the offending scalar in UTINFO0 (R69, R259). -/
def illegalScalar (E : Env) (v : Word) : Hit := { E.hit 5 { E.trap 0x02 with info0 := v } with late := true }

/-- MISALIGNED and SPAD_RANGE with the failing value in UTINFO2 (R363). -/
def badAddr (E : Env) (cause : Nat) (a : Word) (access : Nat) : Hit :=
  E.hit 9 { E.trap cause with info2 := a, va := a, access := access }

/-- The failed checks among a list of conditions. -/
def fails (_ : Env) (l : List (Bool × Hit)) : List Hit := l.filterMap fun (b, h) => if b then some h else none

end Env

/-- What a syllable does once its checks have passed: it goes on with the device, or holds the bundle back, and then later
syllables are checked on the device `past` where there is one. -/
inductive Eff where
  | ok (w : Dev) (target : Option Word)
  | stop (base : Dev) (hit : Option TrapRec) (wait : Wait) (past : Option Dev := none)
  deriving DecidableEq, Repr

/-- The device in which the syllables after one that holds the bundle back are checked. -/
def Eff.past (e : Eff) (w : Dev) : Eff :=
  match e with
  | .ok w1 t => .ok w1 t
  | .stop base hit wait _ => .stop base hit wait (some w)

/-- Absent features (R19, R66), by opcode and, for a form, by its minor field. -/
def absentFeature (d : Dev) (w : Word) : Bool :=
  let slot := bits w 60 3
  let opc := bits w 52 8
  if slot = 6 && decide (0x10 ≤ opc) then (d.feat 1).isNone
  else if slot = 5 && opc = 8 then
    (d.feat 2).isNone ||
    (match bits w 19 4 with
     | 1 => !d.featBit 2 17
     | 2 => !d.featBit 2 16
     | 3 | 4 | 5 | 6 => !d.featBit 2 18
     | _ => false)
  else if (slot = 1 || slot = 2) && opc = 0x51 then !d.featBit 5 5
  else if slot = 7 && opc = 0x0E && bits w 0 17 = 2 then (d.feat 5).isNone
  else false

/-- A hit that goes before another: lower rank, then lower slot, then lower cause (R68). -/
def Hit.before (a b : Hit) : Bool :=
  decide (a.rank < b.rank) || (a.rank == b.rank && (decide (a.slot < b.slot) ||
    (a.slot == b.slot && decide (a.rank = 9) && decide (a.rec_.cause < b.rec_.cause))))

/-- A check that no operand value enters (R400). -/
def Hit.early (h : Hit) : Bool := !h.late

/-- The bundle waits for a result due at its count (R167). -/
def Bundle.waitsDue (b : Bundle) : Bool := b.stop.any fun st => st.wait == .due

/-- The failed checks that count in a bundle: while it waits for a result due, those that no operand value enters (R400). -/
def Bundle.counted (b : Bundle) (hits : List Hit) : List Hit := if b.waitsDue then hits.filter Hit.early else hits

/-- The hit that decides; of equals, the one met first. -/
def bestHit : Option Hit → List Hit → Option Hit
  | h, [] => h
  | none, x :: r => bestHit (some x) r
  | some h, x :: r => bestHit (some (if x.before h then x else h)) r

/-- A word that joins the bundle, with the checks of its place in it (R49). -/
def syllableEnv (s : State) (b : Bundle) (word : Word) : Env :=
  { pre := b.pre, d0 := b.saved, c := s.cur, addr := b.addr
    sylAddr := b.addr + BitVec.ofNat 64 (8 * b.words.length), word := word, next := b.addr + BitVec.ofNat 64 b.size }

/-- Slot codes rise strictly within a bundle, and at most eight syllables make one (R49). -/
def formHits (E : Env) (b : Bundle) : List Hit :=
  match b.words.getLast? with
  | none => []
  | some w => if E.slot ≤ bits w 60 3 then [E.hit 3 (E.trap 0x04)] else []

/-- A return must be alone in its bundle; another syllable decides the trap (R370). -/
def aloneHits (E : Env) (b : Bundle) : List Hit :=
  if E.slot = 7 && (E.opc = 0x09 || E.opc = 0x0A) then
    match b.words with
    | w :: _ => [{ rank := 5, slot := bits w 60 3,
                   rec_ := { E.trap 0x02 with info0 := b.addr, info1 := w, slot := bits w 60 3, opc := bits w 52 8 } }]
    | [] => []
  else []

/-- What first holds a bundle back stays what holds it back. -/
def Bundle.stopAt (b : Bundle) (st : Stop) : Bundle := { b with stop := b.stop.orElse fun _ => some st }

/-- Runs a syllable within an open bundle: its checks whatever came before, and its effect while no check has failed. Once
something holds the bundle back, the effects serve the checks of the syllables after them alone. -/
def runSyllable (i : Instr) (s : State) (b : Bundle) (chk : Env → Dev → List Hit) (eff : Env → Dev → Eff) : State :=
  let E := syllableEnv s b (encode b.words.isEmpty i)
  let absent := if absentFeature b.saved E.word then [E.hit 4 (E.trap 0x01)] else []
  let hits := formHits E b ++ absent ++ aloneHits E b ++ chk E s.dev
  let b1 := { b with words := b.words ++ [E.word], hit := bestHit b.hit (b.counted hits) }
  if b1.hit.isSome then { s with bundle := some b1 }
  else
    match eff E s.dev with
    | .ok w t => { s with dev := w, bundle := some { b1 with target := t.orElse fun _ => b.target } }
    | .stop base h wt past =>
      { s with dev := past.getD s.dev, bundle := some (b1.stopAt { base := base, hit := h, wait := wt }) }

/-- The boundary before a bundle of `size` bytes: the bundle opens, or a fault due there is taken, or a result due there
is still on its way (R166, R167, R358). -/
def openBundle (s : State) (size : Nat) : State :=
  let k := s.dev.ctx s.cur
  if k.dueWaits then s
  else
    match k.dueFault with
    | some e =>
      match e.fault with
      | some r => { s with dev := takeResultFault s.dev s.cur e r }
      | none => s
    | none =>
      let d := deliverDue s.dev s.cur
      { s with
        dev := d
        bundle := some { pre := s.dev, saved := d, addr := k.pc, size := size, words := [], hit := none, stop := none,
                         target := none } }

/-- The boundary before a bundle, as its checks meet it: while a result due there is late and none of those known carries a
fault, the bundle opens for the checks that no operand value enters (R167, R400). -/
def openChecks (s : State) (size : Nat) : State :=
  let k := s.dev.ctx s.cur
  if k.dueWaits && k.dueFault.isNone then
    { s with bundle := some { pre := s.dev, saved := deliverDue s.dev s.cur, addr := k.pc, size := size, words := [], hit := none
                              stop := some { base := s.dev, hit := none, wait := .due }, target := none } }
  else openBundle s size

/-- A context is the secondary of its core (R333). -/
def isSecondary (d : Dev) (c : Nat) : Bool := (d.cores.get (coreOf c)).secondary == ctxNum c + 1

/-- The slots that a bundle's syllables use, bit k for slot code k (R48). -/
def slotsOf (ws : List Word) : BitVec 8 := ws.foldl (fun m w => m ||| BitVec.ofNat 8 (2 ^ bits w 60 3)) 0

/-- What the core keeps of an issue: the cycle of a secondary's (R336), the slots of a primary's (R333). -/
def noteIssue (d : Dev) (c : Nat) (ws : List Word) : Dev :=
  let note (x : Core) : Core :=
    if x.secondary = ctxNum c + 1 then { x with idle := d.cycle }
    else if x.primary = ctxNum c + 1 then { x with slots := slotsOf ws, at_ := d.cycle }
    else x
  { d with cores := d.cores.update (coreOf c) note }

/-- A secondary's bundle shares a slot with the bundle that the primary has issued in this cycle (R333). -/
def slotClash (d : Dev) (c : Nat) (ws : List Word) : Bool :=
  let x := d.cores.get (coreOf c)
  x.secondary == ctxNum c + 1 && x.at_ == d.cycle && (x.slots &&& slotsOf ws) != 0

/-- A context after the issue of its bundle, given what the bundle's own effects leave of it and the handler state in which
the bundle ran: BCLK counts the bundle, every entry is one count nearer, and the pc goes to the target or to the next bundle
(R165, R178). -/
def Ctx.afterIssue (k : Ctx) (hs : HS) (addr next : Word) (target : Option Word) : Ctx :=
  { k with
    bclk := k.bclk + 1
    infl := age k.infl
    pc := target.getD next
    xfer := target.map fun t => (addr, t)
    waiting := false
    dueStall := 0
    aliased := []
    barrier := k.barrier.set hs.code none }

/-- The bundle issues, and the context goes on at the target or after the bundle. -/
def commit (d : Dev) (c : Nat) (b : Bundle) : Dev :=
  if (d.ctx c).cond = .resident then
    (noteIssue d c b.words).updCtx c fun k =>
      k.afterIssue (b.pre.ctx c).hs b.addr (b.addr + BitVec.ofNat 64 b.size) b.target
  else d

/-- A stall changes no value: the device as forcing left it, with the class of the wait noted (R167, R334). -/
def stall (d : Dev) (c : Nat) (w : Wait) : Dev :=
  d.updCtx c fun k => { k with waiting := w == .engine, dueStall := if w = .due then k.dueStall else 0 }

/-- What holds the assembled bundle back, if anything: the failed check that decides by R68, a trap met while forcing (of
rank 9), or a wait. -/
def decideStop (b : Bundle) : Option Stop :=
  match b.hit, b.stop with
  | some h, some st =>
    match st.hit with
    | some r => if h.rank = 9 && r.slot < h.slot then some st else some { base := b.pre, hit := some h.rec_, wait := .short }
    | none => some { base := b.pre, hit := some h.rec_, wait := .short }
  | some h, none => some { base := b.pre, hit := some h.rec_, wait := .short }
  | none, st => st

/-- The assembled bundle issues, is suppressed by a trap, or waits (R54, R68, R365). -/
def closeBundle (s : State) : State :=
  match s.bundle with
  | none => s
  | some b =>
    if slotClash b.pre s.cur b.words then { s with dev := stall b.pre s.cur .short, bundle := none }
    else
    match decideStop b with
    | some st =>
      match st.hit with
      | some r => { s with dev := takeTrap st.base s.cur r, bundle := none }
      | none => { s with dev := stall st.base s.cur st.wait, bundle := none }
    | none =>
      if 32 < (s.dev.ctx s.cur).outstanding then
        { s with dev := b.pre.updCtx s.cur fun k => { k with waiting := false, dueStall := k.dueStall + 1 }, bundle := none }
      else { s with dev := commit s.dev s.cur b, bundle := none }

/-- A syllable: one more of the open bundle, or a bundle of its own. -/
def syllable (i : Instr) (s : State) (chk : Env → Dev → List Hit) (eff : Env → Dev → Eff) : Out :=
  match s.bundle with
  | some b => .next (runSyllable i s b chk eff)
  | none =>
    let s1 := openChecks s 8
    match s1.bundle with
    | some b => .next (closeBundle (runSyllable i s1 b chk eff))
    | none => .next s1

end Sys2Proof.Machine
end

