-- ==== Sys2Proof/Machine/Flags.lean ====
section
/-! DEFINITION. The floating-point flags of a vector result and the FP_TRAP they may make (R188, R189, R205, R222). -/

namespace Sys2Proof.Machine

/-- The trap enables of FPCTL, as the issuing bundle reads them (R39; log entry 10). -/
def Env.te (E : Env) : Flags := (E.k.spr' Spr.fpctl).extractLsb' 8 5 |>.setWidth 6

/-- The rounding mode of FPCTL.DRM (R39, R64). -/
def Env.drm (E : Env) : RM := (RM.ofCode (bits (E.k.spr' Spr.fpctl) 0 3)).getD .rne

/-- DYN takes its mode when the bundle issues (R64). -/
def Env.mode (E : Env) (rm : RM) : RM := if rm = .dyn then E.drm else rm

/-- FP_TRAP of a result that raised enabled flags at element `i` (R189). -/
def Env.fpTrap (E : Env) (fl : Flags) (i : Nat) : TrapRec :=
  { E.trap 0x0D with
    info0 := BitVec.ofNat 64 fl.toNat, info1 := E.tag false, info2 := 0, info3 := BitVec.ofNat 64 (i % 512) }

/-- The flags of a list of element results, of which only the selected ones count. -/
def orFlags : List Flags → Flags
  | [] => 0#6
  | f :: r => f ||| orFlags r

/-- Flags of the selected elements and the trap they make, at the lowest element that raised an enabled flag (R188,
R189). `fs` gives element index and flags. -/
def Env.fpOutcome (E : Env) (fs : List (Nat × Flags)) : Flags × Option TrapRec :=
  let all := orFlags (fs.map Prod.snd)
  match fs.find? (fun p => p.2 &&& E.te != 0#6) with
  | some (i, _) => (all, some (E.fpTrap (all &&& E.te) i))
  | none => (all, none)

end Sys2Proof.Machine
end

