-- ==== Sys2Proof/Machine/Random.lean ====
section
/-! DEFINITION. The Philox-4x32-10 generator and the words of the random-bit queue (R190, R191). -/

namespace Sys2Proof.Machine

/-- One round of R190 on (c0, c1, c2, c3) with keys k0, k1. -/
def philoxRound (k0 k1 : Nat) (c : Nat × Nat × Nat × Nat) : Nat × Nat × Nat × Nat :=
  let p0 := 0xD2511F53 * c.1
  let p1 := 0xCD9E8D57 * c.2.2.1
  ((p1 / 2 ^ 32).xor (c.2.1.xor k0), p1 % 2 ^ 32, (p0 / 2 ^ 32).xor (c.2.2.2.xor k1), p0 % 2 ^ 32)

/-- The remaining rounds. -/
def philoxRounds : Nat → Nat → Nat → Nat × Nat × Nat × Nat → Nat × Nat × Nat × Nat
  | 0, _, _, c => c
  | n + 1, k0, k1, c =>
    philoxRounds n ((k0 + 0x9E3779B9) % 2 ^ 32) ((k1 + 0xBB67AE85) % 2 ^ 32) (philoxRound k0 k1 c)

/-- Philox-4x32-10 at counter n: the outputs x0 to x3 (R190). -/
def philox (key0 key1 : Word) (n : Nat) : List Nat :=
  let r := philoxRounds 10 (key0.toNat % 2 ^ 32) (key1.toNat % 2 ^ 32)
    (n % 2 ^ 32, n / 2 ^ 32 % 2 ^ 32, key0.toNat / 2 ^ 32, key1.toNat / 2 ^ 32)
  [r.1, r.2.1, r.2.2.1, r.2.2.2]

/-- The 2048-bit word generated at the 16 counters from `base` (R190). -/
def randomWord (key0 key1 base : Word) : Vec :=
  packV 32 ((List.range 16).flatMap fun m => philox key0 key1 ((base.toNat + m) % 2 ^ 64))

/-- The random bits of an element whose lowest bit is bit `pos` of the register (R191). -/
def elemRandom (w : Vec) (pos : Nat) : Nat :=
  let r := elem w 32 (pos / 32)
  let k := pos % 32
  (r / 2 ^ k + r * 2 ^ (32 - k)) % 2 ^ 32

end Sys2Proof.Machine
end

