-- ==== Sys2Proof/Machine/Operands.lean ====
section
/-! DEFINITION. Operand forms: scalar results, vector sources and destinations, latches, streams, random words, and the
entry a vector result makes (R26 to R34, R54, R58, R142, R191, R203). -/

namespace Sys2Proof.Machine

/-! ## Scalar syllables (R172) -/

/-- An entry of this syllable with its value, due after `lat` counts (R166). -/
def Env.entry (E : Env) (lat : Nat) (dest : Dest) (val : Vec) : Entry :=
  { (default : Entry) with
    dest := dest, val := val, ready := true, rem := lat, slot := E.slot, opc := E.opc, pc := E.addr }

def vecOfWord (x : Word) : Vec := x.setWidth 2048

/-- A scalar result on its way to `sd` (R166). -/
def Env.putS (E : Env) (w : Dev) (lat : Nat) (sd : BitVec 6) (v : Word) : Dev :=
  addEntry w E.c (E.entry lat (E.k.destS sd) (vecOfWord v))

/-- A predicate result on its way. -/
def Env.putP (E : Env) (w : Dev) (lat : Nat) (pd : BitVec 4) (v : Pred) : Dev :=
  addEntry w E.c (E.entry lat (E.k.destP pd) (v.setWidth 2048))

def noChecks (_ : Env) (_ : Dev) : List Hit := []

/-- A syllable whose only effect is a scalar result, tested by bit 0 of its guard (R30, R172). -/
def scalarSyl (i : Instr) (s : State) (g : Guard) (lat : Nat) (sd : BitVec 6) (f : Env → Word) : Out :=
  syllable i s noChecks fun E w => if E.on g then .ok (E.putS w lat sd (f E)) none else .ok w none

/-! ## Vector sources -/

/-- The value of a latch, none while it is invalid (R32, R33). -/
def Ctx.latch (k : Ctx) (j : Nat) : Option Vec :=
  match j with
  | 0 => k.la.cur
  | 1 => k.la.prev
  | 2 => k.lb.cur
  | 3 => k.lb.prev
  | 4 => k.ll.cur
  | 5 => k.ll.prev
  | _ => none

def Ctx.stream (k : Ctx) (q : Nat) : Stream := k.streams.get q

/-- An entry that pushes to a binding. -/
def Entry.pushes (e : Entry) (ticket : Nat) (q : Nat) : Bool :=
  match e.dest with
  | .push n _ _ _ t _ => n == q && t == ticket
  | _ => false

/-- Pushes of a binding that are on their way, in the running stream and in every frozen group (R142, R365). -/
def Ctx.pushesInFlight (k : Ctx) (q ticket : Nat) : Nat :=
  ((k.infl ++ k.gTrap ++ k.gCue ++ k.gSave).filter fun e => e.pushes ticket q).length

/-- Checks of a vector register against the allotment (R26). -/
def Env.allotHit (E : Env) (v : BitVec 5) : List Hit :=
  if E.k.allot.vSize ≤ v.toNat then [E.hit 7 { E.trap 0x06 with info0 := E.sylAddr, info1 := E.word }] else []

/-- Checks of a source operand (R26, R31, R33, R142). `before` counts the pops of earlier fields from the same stream. -/
def Env.srcHits (E : Env) (w : Dev) (op : VOp) (before : Nat) : List Hit :=
  match op with
  | .v n => E.allotHit n
  | .y n => if (E.k.latch n.toNat).isNone && !isSecondary E.d0 E.c then [E.hit 8 (E.trap 0x05)] else []
  | .q n =>
    let st := E.k.stream n.toNat
    let now := (w.ctx E.c).stream n.toNat
    if !st.bound || st.out || decide (st.total ≤ now.idx + before) then [E.illegal] else []
  | .p _ => []

def Env.srcsHits (E : Env) (w : Dev) : List VOp → List VOp → List Hit
  | _, [] => []
  | seen, op :: r => E.srcHits w op (seen.filter (· == op)).length ++ E.srcsHits w (op :: seen) r

/-- Checks of a destination operand (R26, R31, R142). -/
def Env.dstHits (E : Env) (w : Dev) (op : VOp) : List Hit :=
  match op with
  | .v n => E.allotHit n
  | .q n =>
    let st := E.k.stream n.toNat
    if !st.bound || !st.out || decide (st.total ≤ ((w.ctx E.c).stream n.toNat).idx) then [E.illegal] else []
  | _ => []

/-- Pops the head of an inbound stream; none while no element is present (R142). -/
def popStream (w : Dev) (c q : Nat) : Option (Vec × Option TrapRec × Dev) :=
  let st := (w.ctx c).stream q
  match st.buf with
  | [] => none
  | (v, f) :: r =>
    some (v, f, w.updCtx c fun k => { k with streams := k.streams.set q { st with buf := r, idx := st.idx + 1 } })

/-- A stream goes on to its next element. -/
def pushNext (w : Dev) (c n : Nat) : Dev :=
  w.updCtx c fun k => { k with streams := k.streams.update n fun st => { st with idx := st.idx + 1 } }

/-- The streams that a syllable's operands name as they stand after it (R54): what the checks of the syllables after it meet
while it waits (R400). -/
def Env.passOver (E : Env) (ops : List VOp) (w : Dev) : Dev :=
  ops.foldl (fun w op =>
    match op with
    | .q n => pushNext w E.c n.toNat
    | _ => w) w

/-- A bundle that names a latch never issues as a secondary bundle (R33, R337). -/
def Env.latchWaits (E : Env) (srcs : List VOp) : Bool :=
  isSecondary E.d0 E.c && srcs.any fun
    | .y _ => true
    | _ => false

/-- Reads the sources in the order of the fields (R203); none when the bundle must wait for an element. The fault is that of
the first faulty element popped (R143). -/
def Env.readSrcs (E : Env) : List VOp → Dev → Option (List Vec × Option TrapRec × Dev)
  | [], w => some ([], none, w)
  | op :: r, w =>
    match op with
    | .q n =>
      match popStream w E.c n.toNat with
      | none => none
      | some (v, f, w1) =>
        match E.readSrcs r w1 with
        | none => none
        | some (vs, f2, w2) => some (v :: vs, f.orElse fun _ => f2, w2)
    | .v n =>
      match E.readSrcs r w with
      | none => none
      | some (vs, f2, w2) => some (E.d0.rdV E.c n.toNat :: vs, f2, w2)
    | .y n =>
      match E.readSrcs r w with
      | none => none
      | some (vs, f2, w2) => some ((E.k.latch n.toNat).getD 0 :: vs, f2, w2)
    | .p _ => E.readSrcs r w

/-- Pops a random word; RNGCTR advances by 16 (R37, R191). None while the queue is empty. -/
def popWord (w : Dev) (c : Nat) : Option (Vec × Dev) :=
  match (w.ctx c).rq with
  | [] => none
  | v :: r => some (v, w.updCtx c fun k => { k with rq := r }.setSpr Spr.rngctr (k.spr' Spr.rngctr + 16))

/-! ## Vector destinations -/

/-- The register destination of a vector result: none when suppressed (R34), the physical register (R28). -/
def Env.destV (E : Env) (ws : Bool) (op : VOp) : Dest :=
  match op with
  | .v n => if ws then .none else .vec (E.k.vphys n.toNat)
  | _ => .none

/-- What the destination holds as read at issue (R30); a push has zeros there (R32). -/
def Env.oldV (E : Env) (op : VOp) : Vec :=
  match op with
  | .v n => E.d0.rdV E.c n.toNat
  | _ => 0

/-- Elements of a stream's binding that have been pushed, or are on their way, and have not performed (R142). -/
def Ctx.unperformed (k : Ctx) (q ticket : Nat) : Nat :=
  ((k.stream q).pushed.filter fun p => p.ticket == ticket).length + k.pushesInFlight q ticket

/-- The outbound stream that a destination names has no room for one more element (R142). -/
def pushFull (w : Dev) (c : Nat) (op : VOp) : Bool :=
  match op with
  | .q n =>
    let k := w.ctx c
    let st := k.stream n.toNat
    decide (st.depth ≤ k.unperformed n.toNat st.ticket)
  | _ => false

/-- The element that the next push to a stream is, as a destination. -/
def pushDest (w : Dev) (c n : Nat) : Dest :=
  let st := (w.ctx c).stream n
  .push n st.space (st.elemAddr st.idx).toNat st.idx st.ticket (w.ctx c).win

/-- The latch pair of a vector slot (R32, R48). -/
def latchPair : VSlot → Pair
  | .va => .va
  | .vb => .vb

/-- Bytes that a mask of whole bytes selects. -/
def bytesOfMask (m : Vec) : Pred := mkP 8 fun i => m.getLsbD (8 * i)

/-- The entry of a vector result: merged at issue (R30), bound for its register, latches and stream. -/
def Env.vecEntry (E : Env) (lat : Nat) (pair : Pair) (ws : Bool) (d : VOp) (m r : Vec) (fl : Flags)
    (flt : Option TrapRec) : Entry :=
  { E.entry lat (E.destV ws d) (mergeV m r (E.oldV d)) with
    fault := flt, flags := fl, latch := some pair
    sel := match d with
      | .q _ => bytesOfMask m
      | _ => 0
    gtag := E.k.nextTag }

/-- The entry of a predicate result at element width `w` (R29, R30). -/
def Env.predEntry (E : Env) (lat w : Nat) (sel : Pred) (d : BitVec 4) (r : Pred) (fl : Flags) (flt : Option TrapRec) :
    Entry :=
  let m := mkP w (selE sel w)
  { E.entry lat (E.k.destP d) (((r &&& m) ||| (E.rdP d &&& ~~~m)).setWidth 2048) with fault := flt, flags := fl }

/-- A popped element's fault becomes the result-time fault of the popping instruction; R143 names no UTINFO1 (R363). -/
def Env.popFault (E : Env) (f : TrapRec) : TrapRec :=
  { f with info1 := 0, imp := false, slot := E.slot, opc := E.opc }

def noRandom (_ : Env) : Bool := false

/-- A syllable that rounds with SR, or with a DYN that resolves to SR (R191). -/
def rndSR (rm : RM) (E : Env) : Bool := E.mode rm == .sr

/-! ## Element-wise results -/

/-- The entry of an element-wise vector result; `f i` is element `i` with its flags (R205). -/
def Env.elemEntry (E : Env) (g : Guard) (lat : Nat) (sl : VSlot) (ws : Bool) (d : VOp) (w : Nat)
    (f : Nat → Nat × Flags) : Entry :=
  let sel := E.sel g
  let res := (List.range (2048 / w)).map fun i => (i, f i)
  let o := E.fpOutcome ((res.filter fun p => selE sel w p.1).map fun p => (p.1, p.2.2))
  E.vecEntry lat (latchPair sl) ws d (selMask w sel) (packV w (res.map fun p => p.2.1)) o.1 o.2

/-- The entry of a vector result that raises no flag. -/
def Env.plainEntry (E : Env) (g : Guard) (lat : Nat) (sl : VSlot) (ws : Bool) (d : VOp) (w : Nat) (r : Vec) : Entry :=
  E.vecEntry lat (latchPair sl) ws d (selMask w (E.sel g)) r 0 none

/-- The entry of a one-element result in element 0 of a register that is zero elsewhere; its flags count when the guard
selects element 0 (R222, R233). -/
def Env.oneEntry (E : Env) (g : Guard) (lat : Nat) (sl : VSlot) (ws : Bool) (d : VOp) (w : Nat) (r : Vec) (fl : Flags) :
    Entry :=
  let sel := E.sel g
  let o := E.fpOutcome (if selE sel w 0 then [(0, fl)] else [])
  E.vecEntry lat (latchPair sl) ws d (selMask w sel) r o.1 o.2

/-- The source vector at an index of the list read. -/
def src (vs : List Vec) (n : Nat) : Vec := at_ vs n

end Sys2Proof.Machine
end

