-- ==== Sys2Proof/Machine/Transcend.lean ====
section
/-! DEFINITION. The special functions of f32 (R227, R228) and the table G of R229.

The irrational results are formed in fixed point with 320 fraction bits and a sticky bit below them, and rounded once; log
entry 9 says what this rests on. -/

namespace Sys2Proof.Machine

/-- Fraction bits of the fixed-point forms. -/
def fracBits : Nat := 320

/-- Floor(ln 2 * 2^320). -/
def ln2Fix : Nat := 0xb17217f7d1cf79abc9e3b39803f2f6af40f343267298b62d8a0d175b8baafa2be7b876206debac98

/-- Terms z^(2k+1)/(2k+1) of the series of the inverse hyperbolic tangent. -/
def atanhTerms (z2 : Nat) : Nat → Nat → Nat → Nat
  | 0, _, _ => 0
  | f + 1, k, t => t / (2 * k + 1) + atanhTerms z2 f (k + 1) (t * z2 / 2 ^ fracBits)

/-- ln(num/den) in fixed point, for 1 ≤ num/den < 2. -/
def lnFix (num den : Nat) : Nat :=
  let z := (num - den) * 2 ^ fracBits / (num + den)
  2 * atanhTerms (z * z / 2 ^ fracBits) 110 0 z

/-- Terms y^k/k! of the exponential series. -/
def expTerms (y : Nat) : Nat → Nat → Nat → Nat
  | 0, _, _ => 0
  | f + 1, k, t => t + expTerms y f (k + 1) (t * y / 2 ^ fracBits / k)

/-- 2^(f/2^320) in fixed point, for 0 ≤ f < 2^320. -/
def exp2Fix (f : Nat) : Nat := expTerms (f * ln2Fix / 2 ^ fracBits) 80 1 (2 ^ fracBits)

/-- A truncated irrational magnitude: a sticky bit stands below the truncation. -/
def sticky (neg : Bool) (m : Nat) (e : Int) : FVal := .fin neg (2 * m + 1) (e - 1)

/-- A fixed-point integer as a truncated irrational. -/
def stickyZ (z : Int) : FVal := sticky (decide (z < 0)) z.natAbs (-(fracBits : Int))

def one32 : Nat := 0x3F800000
def inf32 (neg : Bool) : Nat := if neg then 0xFF800000 else 0x7F800000

/-- `vexp2` (R228). -/
def exp2F (x : Nat) : Nat × Flags :=
  match valueOf .f32 x with
  | .nan s => (canonNan .f32, flagIf s fInvalid)
  | .inf n => (if n then 0 else inf32 false, 0#6)
  | .fin n m e =>
    if m = 0 then (one32, 0#6)
    else if 8 ≤ ilog m e then toFloat .f32 .rne false 0 (sticky false 1 (if n then -300 else 300))
    else
      let z := floorShift (if n then -(m : Int) else m) (e + fracBits)
      let k := z / (2 ^ fracBits : Nat)
      let f := (z % (2 ^ fracBits : Nat)).toNat
      if f = 0 then toFloat .f32 .rne false 0 (.fin false 1 k)
      else toFloat .f32 .rne false 0 (sticky false (exp2Fix f) (k - fracBits))

/-- `vlog2` (R228). -/
def log2F (x : Nat) : Nat × Flags :=
  match valueOf .f32 x with
  | .nan s => (canonNan .f32, flagIf s fInvalid)
  | .inf n => if n then (canonNan .f32, fInvalid) else (inf32 false, 0#6)
  | .fin n m e =>
    if m = 0 then (inf32 true, fDivZero)
    else if n then (canonNan .f32, fInvalid)
    else
      let j := Nat.log2 m
      let k := ilog m e
      if m = 2 ^ j then toFloat .f32 .rne false 0 (.ofInt k)
      else toFloat .f32 .rne false 0 (stickyZ (k * (2 ^ fracBits : Nat) + (lnFix m (2 ^ j) * 2 ^ fracBits / ln2Fix : Nat)))

/-- G(u) of R229, as f32 bits. -/
def gumbel (u : Nat) : Nat :=
  let a := 2 * u + 1
  let k := Nat.log2 a
  let l := (25 - k) * ln2Fix - lnFix a (2 ^ k)
  let j := Nat.log2 l
  let z : Int := ((j : Int) - fracBits) * ln2Fix + (lnFix l (2 ^ j) : Nat)
  (toFloat .f32 .rne false 0 (stickyZ (-z))).1

/-- Rounds a magnitude RNE to twelve significant bits: the rounded magnitude and whether it is inexact. -/
def round12 (m : Nat) (e : Int) : Nat × Int × Bool :=
  let u := ilog m e - 11
  let (q, inx) := roundAt .rne false m e u 0
  (q, u, inx)

/-- `vrcpa` (R227). -/
def rcpaF (x : Nat) : Nat × Flags :=
  match valueOf .f32 x with
  | .nan s => (canonNan .f32, flagIf s fInvalid)
  | .inf n => (signBit .f32 n, 0#6)
  | .fin n m e =>
    if m = 0 then (inf32 n, fDivZero)
    else
      let q := 2 ^ 64 / m
      let (r, u, inx) := round12 (2 * q + (if 2 ^ 64 % m = 0 then 0 else 1)) (-e - 65)
      let k := ilog r u
      if 128 ≤ k then (inf32 n, fOverflow ||| fInexact)
      else if k < -126 then (signBit .f32 n, fUnderflow ||| fInexact)
      else ((toFloat .f32 .rne false 0 (.fin n r u)).1, flagIf inx fInexact)

/-- Floor of a square root, one binary digit at a time from digit `k` down. -/
def sqrtFrom (x : Nat) : Nat → Nat → Nat
  | 0, s => s
  | k + 1, s => sqrtFrom x k (if (s + 2 ^ k) * (s + 2 ^ k) ≤ x then s + 2 ^ k else s)

/-- `vrsqa` (R227). -/
def rsqaF (x : Nat) : Nat × Flags :=
  match valueOf .f32 x with
  | .nan s => (canonNan .f32, flagIf s fInvalid)
  | .inf n => if n then (canonNan .f32, fInvalid) else (0, 0#6)
  | .fin n m e =>
    if m = 0 then (inf32 n, fDivZero)
    else if n then (canonNan .f32, fInvalid)
    else
      let m2 := if e % 2 = 0 then m else 2 * m
      let e2 := if e % 2 = 0 then e else e - 1
      let s := sqrtFrom (2 ^ 128 / m2) 66 0
      let (r, u, inx) := round12 (2 * s + (if s * s * m2 = 2 ^ 128 then 0 else 1)) (-(e2 / 2) - 65)
      ((toFloat .f32 .rne false 0 (.fin false r u)).1, flagIf inx fInexact)

end Sys2Proof.Machine
end

