-- ==== Sys2Proof/Machine/Elements.lean ====
section
/-! DEFINITION. Element operations that vectors and tiles share: sign operations and codebook weights (R193, R194, R225). -/

namespace Sys2Proof.Machine

/-- The sign bit cleared or inverted; a NaN gives the canonical NaN (R225). -/
def absE (et : ET) (a : Nat) : Nat := if (valueOf et a).isNan then canonNan et else a % 2 ^ (et.width - 1)
def negE (et : ET) (a : Nat) : Nat :=
  if (valueOf et a).isNan then canonNan et else (a + 2 ^ (et.width - 1)) % 2 ^ et.width

/-- Weight `i` of a codebook index, unscaled (R193). -/
def cbWeight (entry index i : Nat) : FVal :=
  let mag := 2 * nbits entry (4 * i) 4 + index % 2
  let sgn (j : Nat) : Bool := nbit index (1 + j)
  let neg := if i < 7 then sgn i else ((List.range 7).filter sgn).length % 2 == 1
  .fin neg mag (-1)

/-- Place of a codebook table entry of a core (R194). -/
def cbKey (core t e : Nat) : Nat := core * 1024 + t * 256 + e

/-- Entry `base` of table `t` as the core holds it. -/
def cbEntry (d : Dev) (c t base : Nat) : Nat := (d.cbt.get (cbKey (coreOf c) t base)).toNat

end Sys2Proof.Machine
end

