-- ==== Sys2Proof/Machine/Coherence.lean ====
section
/-! DEFINITION. Lines of global memory: tokens, holders and homes, update lines, scope pins, access counters (R84 to R111). -/

namespace Sys2Proof.Machine

/-! ## The physical map (R71, R84) -/

/-- What a package-local address range holds (R71). -/
inductive PaKind where
  | hbm | compression | hole | tier2 | system
  deriving DecidableEq, Repr, Inhabited

def paPkg (pa : Nat) : Nat := pa / 2 ^ 46 % 64
def paLocal (pa : Nat) : Nat := pa % 2 ^ 46

def paKind (pa : Nat) : PaKind :=
  let a := paLocal pa
  if a < 0x7FF8000000 then .hbm
  else if a < 0x8000000000 then .compression
  else if a < 0x10000000000 then .hole
  else if a < 0x28000000000 then .tier2
  else if a < 0x200000000000 then .hole
  else .system

/-- Main memory: HBM4E or the second tier. -/
def isMemory (pa : Nat) : Bool := paKind pa == .hbm || paKind pa == .tier2

/-- The stack that homes a physical address (R84). -/
def stackOf (pa : Nat) : Nat := (nbits pa 11 3 ^^^ nbits pa 14 3) ^^^ nbits pa 17 3

/-- The stack that homes a line. -/
def lineStack (line : Nat) : Nat := stackOf (line * 128)

/-! ## Holders (R92) -/

def hkey (line h : Nat) : Nat := line * 1024 + h
def Dev.hl (d : Dev) (line h : Nat) : HLine := d.holders.get (hkey line h)
def Dev.setHl (d : Dev) (line h : Nat) (x : HLine) : Dev := { d with holders := d.holders.set (hkey line h) x }
def Dev.updHl (d : Dev) (line h : Nat) (f : HLine → HLine) : Dev := d.setHl line h (f (d.hl line h))
def Dev.home (d : Dev) (line : Nat) : Home := d.homes.get line
def Dev.updHome (d : Dev) (line : Nat) (f : Home → Home) : Dev := { d with homes := d.homes.update line f }
def Dev.send (d : Dev) (m : Msg) : Dev := { d with msgs := d.msgs ++ [m] }

/-- Tokens the home holds. -/
def Home.tokens (x : Home) : Nat := 1024 - x.away

/-- Every holder of the domain. -/
def Dev.allHolders (d : Dev) : List Nat :=
  (List.range d.npkg).flatMap fun p => (List.range 9).map fun k => 16 * p + k

/-- A compute die's L2 while that die is in reset (R107). -/
def Dev.holderDown (d : Dev) (h : Nat) : Bool :=
  h % 16 < 8 && (d.dies.get (h / 16 * 8 + h % 16)).inReset

def lineOfBytes (l : List Byte) : Line := BitVec.ofNat 1024 (ofBytes l)
def lineBytes (v : Line) : List Byte := bytesOf 128 v.toNat

/-- The line as memory holds it. -/
def memLine (d : Dev) (line : Nat) : Line := BitVec.ofNat 1024 (rdMem d.gmem (line * 128) 128)

/-- The state a controller stores a block in (R86, R87): raw, or the implementation's choice where CMP allows; state 1 only
for a block of zeros. -/
def storeBlock (d : Dev) (line : Nat) (cmp : Bool) : Dev :=
  let blk := line / 16
  if paKind (line * 128) != .hbm then d
  else
    let c := if cmp then Config.blockState d.free % 4 else 0
    let zero := (rdMem d.gmem (blk * 2048) 2048) == 0
    { d with comp := d.comp.set blk (if c = 1 && !zero then 0 else c), free := d.free + 1 }

/-- Writes a whole line to memory: its block gets a new choice of state (R87), and an error of the block's stored data is one
line nearer to being rewritten (R88). -/
def setMemLine (d : Dev) (line : Nat) (cmp : Bool) (v : Line) : Dev :=
  let d1 := storeBlock { d with gmem := wrMem d.gmem (line * 128) (lineBytes v) } line cmp
  if (d1.badBlocks.get (line / 16)) = 0 then d1
  else { d1 with badBlocks := d1.badBlocks.update (line / 16) fun m => m &&& ~~~(BitVec.ofNat 16 (2 ^ (line % 16))) }

/-- `n` bytes of a line from an offset, as a number. -/
def lineGet (v : Line) (off n : Nat) : Nat := v.toNat / 2 ^ (8 * off) % 2 ^ (8 * n)

/-- Writes one byte of a line. -/
def linePut (v : Line) (off : Nat) (b : Byte) : Line :=
  let sh := 8 * (off % 128)
  (v &&& ~~~((0xFF#1024) <<< sh)) ||| ((b.setWidth 1024) <<< sh)

/-- Writes bytes at offsets of a line. -/
def linePuts (v : Line) : List (Nat × Byte) → Line
  | [] => v
  | (o, b) :: r => linePuts (linePut v o b) r

/-- Data of the owner token where a message carries it. -/
def ownerInFlight (line : Nat) : List Msg → Option Line
  | [] => none
  | .toks l _ _ _ true _ _ data :: r => if l = line then some (data.getD 0) else ownerInFlight line r
  | _ :: r => ownerInFlight line r

/-- The current data of a line outside update state: memory's, the owner's, or that of the message that carries the owner
token (R93, R97). -/
def curLine (d : Dev) (line : Nat) : Line :=
  if !(d.home line).ownerAway then memLine d line
  else
    match d.allHolders.find? fun h => (d.hl line h).owner with
    | some h => ((d.hl line h).data).getD (memLine d line)
    | none => (ownerInFlight line d.msgs).getD (memLine d line)

/-! ## Update lines (R109 to R111) -/

def redWidth : RedOp → Nat
  | .addI64 => 64
  | _ => 32

/-- The operands of one element. -/
def opsAt (i : Nat) (l : List (Nat × Word)) : List Nat := (l.filter fun p => p.1 == i).map fun p => p.2.toNat

/-- Signed fold of minimum or maximum. -/
def foldI (mx : Bool) (w : Nat) : Nat → List Nat → Nat
  | m, [] => m
  | m, x :: r => foldI mx w (if (sext w m < sext w x) == mx then x % 2 ^ w else m) r

/-- The exact real sum of f32 values as a fraction of 2^-149. -/
def sumF32 : List Nat → Int
  | [] => 0
  | x :: r =>
    (match valueOf .f32 x with
     | .fin n m e => (if n then -1 else 1) * ((m : Int) * (2 ^ (e + 149).toNat : Nat))
     | _ => 0) + sumF32 r

def anyF32 (f : FVal → Bool) (l : List Nat) : Bool := l.any fun x => f (valueOf .f32 x)

/-- `add.f32` merge of all values, memory's first (R111). -/
def mergeAddF (l : List Nat) : Nat :=
  let pinf := anyF32 (fun v => v.isInf && !v.neg) l
  let ninf := anyF32 (fun v => v.isInf && v.neg) l
  if anyF32 FVal.isNan l || (pinf && ninf) then 0x7FC00000
  else if pinf then 0x7F800000
  else if ninf then 0xFF800000
  else
    let t := sumF32 l
    if t = 0 then (if l.all fun x => x == 0x80000000 then 0x80000000 else 0)
    else (roundFin .f32 .rne false (decide (t < 0)) t.natAbs (-149) 0).1

/-- Minimum or maximum of f32 values, NaNs ignored (R111). -/
def mergeMinF (mx : Bool) (l : List Nat) : Nat :=
  match l.filter fun x => !(valueOf .f32 x).isNan with
  | [] => 0x7FC00000
  | x :: r => r.foldl (fun m y => if ltX (valueOf .f32 m) (valueOf .f32 y) == mx then y else m) x

/-- A merged element from memory's value and the operands (R111). -/
def mergeElem (op : RedOp) (m : Nat) (xs : List Nat) : Nat :=
  match op with
  | .addI32 => (m + (xs.map (· % 2 ^ 32)).sum) % 2 ^ 32
  | .addI64 => (m + xs.sum) % 2 ^ 64
  | .minI32 => foldI false 32 m xs
  | .maxI32 => foldI true 32 m xs
  | .addF32 => mergeAddF (m :: xs.map (· % 2 ^ 32))
  | .minF32 => mergeMinF false (m :: xs.map (· % 2 ^ 32))
  | .maxF32 => mergeMinF true (m :: xs.map (· % 2 ^ 32))

/-- The line that a merge writes (R111). -/
def mergeData (op : RedOp) (v : Line) (ops : List (Nat × Word)) : Line :=
  let w := redWidth op
  BitVec.ofNat 1024 (packN w ((List.range (1024 / w)).map fun i => mergeElem op (elem v w i) (opsAt i ops)))

/-- A die's update-buffer entry for a line. -/
def dieEntry (d : Dev) (die line : Nat) : Option UpdEnt := (d.dies.get die).upd.find? fun u => u.line == line

/-- Every operand a line in update state has absorbed: the home partial and the dies' partials. -/
def allOps (d : Dev) (line : Nat) : List (Nat × Word) :=
  (d.home line).part ++ (d.home line).dies.flatMap fun k =>
    match dieEntry d k line with
    | some u => u.ops
    | none => []

def dropEntry (line : Nat) (x : Die) : Die := { x with upd := x.upd.filter fun u => u.line != line }

/-- Recalls every die's entry and leaves update state, the partials with it. -/
def endUpdate (d : Dev) (line : Nat) : Dev :=
  let ks := (d.home line).dies
  let d1 := { d with dies := ks.foldl (fun m k => SMap.update m k (dropEntry line)) d.dies,
                     updOrder := d.updOrder.filter (· != line) }
  d1.updHome line fun x => { x with upd := none, dies := [], part := [], reds := 0 }

/-- The data of a line has an uncorrectable error, wherever it travels (R108). -/
def Dev.dataBad (d : Dev) (line : Nat) : Bool := d.badLines.contains line

/-- A read of the line from where its data is meets an uncorrectable error: one of its own, or one of the block that memory
would supply it from (R88, R108). -/
def Dev.lineBad (d : Dev) (line : Nat) : Bool := d.dataBad line || (d.badBlocks.get (line / 16) != 0 && !(d.home line).ownerAway)

/-- Memory supplies a line of an erroneous block: the check bits of the copy fail too (R88, R108). -/
def spreadBad (d : Dev) (line : Nat) : Dev :=
  if d.lineBad line && !d.dataBad line then { d with badLines := d.badLines ++ [line] } else d

/-- How a line request is counted at its home: the address, and the requester's bit, none for the home itself (R89, R91). -/
abbrev Count := Dev → Nat → Option Nat → Dev

/-- Merges a line in update state (R109 step 4), a counted event (R89); none when an uncorrectable error prevents it. A line in
normal state is left as it is. -/
def mergeLineWith (count : Count) (d : Dev) (line : Nat) (who : Option Nat) : Option Dev :=
  match (d.home line).upd with
  | none => some d
  | some op =>
    if d.lineBad line then none
    else
      let v := mergeData op (memLine d line) (allOps d line)
      some (setMemLine (endUpdate (count d (line * 128) who) line) line false v)

/-- The data a coherent read of the line sees, a pending merge included. -/
def peekLine (d : Dev) (line : Nat) : Line :=
  match (d.home line).upd with
  | none => curLine d line
  | some op => mergeData op (memLine d line) (allOps d line)

/-- A byte of global memory as a coherent read sees it: memory's own where the home has the line's data and no update waits. -/
def peekByte (d : Dev) (pa : Nat) : Byte :=
  let x := d.home (pa / 128)
  if x.upd.isNone && !x.ownerAway then rdByte d.gmem pa else BitVec.ofNat 8 (lineGet (peekLine d (pa / 128)) (pa % 128) 1)

/-- `n` bytes of global memory as a coherent read sees them. -/
def peekBytes (d : Dev) (pa n : Nat) : List Byte := (List.range n).map fun i => peekByte d (pa + i)

/-! ## Tokens (R93 to R100) -/

/-- The home's own code as a requester of a line (R105, R109). -/
def homeSelf : Nat := 1023

/-- Writes dirty data to memory. -/
def writeBack (d : Dev) (line : Nat) (dirty cmp : Bool) (data : Option Line) : Dev :=
  match dirty, data with
  | true, some v => setMemLine d line cmp v
  | _, _ => d

/-- Adds a holder to the hint set (R97). -/
def addHint (r : Nat) (x : Home) : Home := if x.hints.contains r then x else { x with hints := x.hints ++ [r] }

/-- Takes a holder out of the hint set if it has returned all its tokens (R97). -/
def Home.dropHint (x : Home) (d : Dev) (line src : Nat) : Home :=
  if (d.hl line src).tokens = 0 then { x with hints := x.hints.filter (· != src) } else x

/-- Tokens reach the home (R97): kept while the arbiter is idle, passed to the active requester otherwise. -/
def homeTake (d : Dev) (line src n : Nat) (owner dirty cmp : Bool) (data : Option Line) : Dev :=
  let x := d.home line
  if x.active ≠ 0 then
    (d.updHome line fun x => addHint (x.active - 1) (x.dropHint d line src)).send
      (.toks line (some (x.active - 1)) src n owner dirty cmp data)
  else
    (if owner then writeBack d line dirty cmp data else d).updHome line fun x =>
      { x.dropHint d line src with away := x.away - n, ownerAway := if owner then false else x.ownerAway }

/-- A holder's tokens, data and marks go; the rest of its state stays. -/
def HLine.emptied (x : HLine) : HLine :=
  { x with tokens := 0, owner := false, dirty := false, cmp := false, data := none, pinned := 0 }

/-- A holder sends everything it has of a line to a holder, or home (R96). -/
def sendAll (d : Dev) (line h : Nat) (dest : Option Nat) : Dev :=
  let x := d.hl line h
  if x.tokens = 0 then d
  else (d.setHl line h x.emptied).send
    (.toks line dest h x.tokens x.owner x.dirty x.cmp (if x.owner then x.data else none))

/-- Changes the pins of the tasks that hold a context number: of the one in place and of those that are spilled. -/
def updPins (d : Dev) (c : Nat) (f : List Pin → List Pin) : Dev :=
  let d1 := d.updCtx c fun k => { k with pins := f k.pins }
  { d1 with spilled := d1.spilled.map fun x => if x.1 = c then (x.1, { x.2 with pins := f x.2.pins }) else x }

/-- Scope of a pin, with the address that last pinned the line (R104). -/
def pinOf (d : Dev) (line h : Nat) : Option Pin :=
  let x := d.hl line h
  if x.pinned = 0 then none
  else ((tasksAt d (x.pinned - 1)).flatMap Ctx.pins).find? fun p => p.line == line && p.holder == h

/-- A requester lies inside a pin's scope; the home on its own behalf does not (R105). -/
def Pin.inside (p : Pin) (r : Nat) : Bool :=
  r != homeSelf &&
  match p.scope with
  | .die => p.holder == r
  | .pkg => p.holder / 16 == r / 16
  | .dom => true

/-- A holder answers an activation (R96): it sends all it has, and forwards what comes while a holder is the requester. -/
def answerActivation (d : Dev) (line h r : Nat) : Dev :=
  if r = homeSelf then sendAll d line h none
  else (sendAll d line h (some r)).updHl line h fun y => { y with forwarding := true, fwdTo := r }

/-- Releases the pin of a line at a holder and acts on a deferred activation (R105). -/
def releasePin (d : Dev) (line h : Nat) : Dev :=
  let x := d.hl line h
  if x.pinned = 0 then d
  else
    let d1 := (updPins d (x.pinned - 1) fun l => l.filter fun p => !(p.line == line && p.holder == h)).setHl line h
      { x with pinned := 0, deferred := none }
    match x.deferred with
    | none => d1
    | some r => answerActivation d1 line h r

/-- A pin refuses a request: its expiry clock starts at the first refusal (R106). -/
def refusePin (d : Dev) (line h : Nat) : Dev :=
  let x := d.hl line h
  updPins d (x.pinned - 1) fun l => l.map fun p =>
    if p.line = line && p.holder = h && p.refused.isNone then { p with refused := some d.cycle } else p

/-- A pin defers an activation from outside its scope (R105). -/
def deferActivation (d : Dev) (line h r : Nat) : Dev :=
  (refusePin d line h).updHl line h fun x => { x with deferred := some r }

/-- Whether a pin at `h` holds back requester `r`; `own` marks the home's own requests, which are outside (R105). -/
def pinBlocks (d : Dev) (line h r : Nat) (own : Bool) : Bool :=
  match pinOf d line h with
  | none => false
  | some p => own || !p.inside r

/-! ## Accesses that gather in one step

An access of an engine, a firing, a fetch, the host or the control die goes through a holder, as a scalar access does, but it
gathers the tokens it needs in the step in which it performs (log entry 29). The tokens stay at the holder. Pins hold the access
back by R105, and so does a belay request of another holder. -/

/-- Result of such an access. -/
inductive Co (α : Type) where
  | ok (d : Dev) (v : α)
  | wait (d : Dev)
  | err (d : Dev)

/-- Pins that stand in the way of `r`; pins inside the scope are released (R105). -/
def passPins (d : Dev) (line r : Nat) (own : Bool) : Dev × Bool :=
  let hs := d.allHolders.filter fun h => (d.hl line h).pinned != 0
  match hs.find? fun h => pinBlocks d line h r own with
  | some h => (refusePin d line h, false)
  | none => (hs.foldl (fun e h => releasePin e line h) d, true)

/-- A message that carries tokens of a line. -/
def Msg.isToks (line : Nat) : Msg → Bool
  | .toks l _ _ _ _ _ _ _ => l == line
  | _ => false

/-- A line leaves every holder but those of `keep`, and the messages in flight. -/
def emptyLine (d : Dev) (line : Nat) (keep : Nat → Bool) : Dev :=
  let empty (m : SMap HLine) (h : Nat) : SMap HLine :=
    if keep h || (SMap.get m (hkey line h)).tokens = 0 then m else SMap.update m (hkey line h) HLine.emptied
  { d with holders := d.allHolders.foldl empty d.holders, msgs := d.msgs.filter fun m => !m.isToks line }

/-- Takes every token of a line home, with the current data (R109 step 1). -/
def gatherHome (d : Dev) (line : Nat) : Dev :=
  let v := curLine d line
  let x := d.allHolders.find? fun h => (d.hl line h).owner
  let cmp := match x with
    | some h => (d.hl line h).cmp
    | none => false
  let d1 := writeBack (emptyLine d line fun _ => false) line (d.home line).ownerAway cmp (some v)
  d1.updHome line fun x => { x with away := 0, ownerAway := false, hints := [] }

/-- Takes every token of a line to a holder, which writes its data (R93). -/
def gatherTo (d : Dev) (line r : Nat) (cmp : Bool) (v : Line) : Dev :=
  ((emptyLine d line (· == r)).updHome line fun x =>
    { (if x.tokens = 0 then x else addHint r x) with away := 1024, ownerAway := true }).updHl line r fun x =>
      { x with tokens := 1024, owner := true, dirty := true, cmp := cmp, data := some v }

/-- The home gives a reader one token with memory's data, and the owner token with its last (R97). -/
def giveRead (d : Dev) (line r : Nat) : Dev :=
  let last := (d.home line).tokens == 1
  (d.updHome line fun x => addHint r { x with away := x.away + 1, ownerAway := last }).updHl line r fun x =>
    { x with tokens := x.tokens + 1, owner := last, data := some (memLine d line) }

/-- The owner gives a reader one token with its data, and the owner token with its last (R96). -/
def passRead (d : Dev) (line h r : Nat) : Dev :=
  let x := d.hl line h
  if x.tokens ≤ 1 then
    (d.setHl line h x.emptied).updHl line r fun y =>
      { y with tokens := y.tokens + x.tokens, owner := true, dirty := x.dirty, cmp := x.cmp, data := x.data }
  else (d.setHl line h { x with tokens := x.tokens - 1 }).updHl line r fun y => { y with tokens := y.tokens + 1, data := x.data }

/-- A belay request of another holder is active: what reaches `r` goes on to that holder (R96, R100). -/
def belayed (d : Dev) (line r : Nat) : Bool :=
  ((d.home line).active != 0 && (d.home line).active != r + 1) || ((d.hl line r).forwarding && (d.hl line r).fwdTo != r)

/-- A coherent read of a line by holder `r` (R93, R96, R97, R109). -/
def coReadWith (count : Count) (d : Dev) (line r : Nat) (own : Bool) : Co Line :=
  let x := d.hl line r
  if 1 ≤ x.tokens && x.data.isSome then (if d.dataBad line then .err d else .ok d (x.data.getD 0))
  else if belayed d line r then .wait d
  else
    let who := some (r % 16)
    match mergeLineWith count d line who with
    | none => .err (count d (line * 128) who)
    | some d1 =>
      if !(d1.home line).ownerAway then
        let d2 := spreadBad (count d1 (line * 128) who) line
        if d2.dataBad line then .err d2 else .ok (giveRead d2 line r) (memLine d2 line)
      else
        match d1.allHolders.find? fun h => (d1.hl line h).owner with
        | none => .wait d1
        | some h =>
          if pinBlocks d1 line h r own then .wait (refusePin d1 line h)
          else
            let d2 := releasePin (count d1 (line * 128) who) line h
            if !(d2.hl line h).owner then .wait d2
            else if d2.dataBad line then .err d2
            else .ok (passRead d2 line h r) (((d2.hl line h).data).getD 0)

/-- A coherent write of some bytes of a line by holder `r`: all 1024 tokens, one event. A write of the whole line needs no
old data and clears an error (R108, R109). -/
def coWriteWith (count : Count) (d : Dev) (line r : Nat) (own cmp : Bool) (bs : List (Nat × Byte)) : Co Unit :=
  let x := d.hl line r
  let whole := (List.range 128).all fun o => bs.any fun p => p.1 == o
  let clean (d : Dev) : Dev := { d with badLines := d.badLines.filter (· != line) }
  if x.tokens = 1024 && x.data.isSome then
    if d.dataBad line && !whole then .err d
    else .ok ((clean d).setHl line r { x with dirty := true, cmp := cmp, data := some (linePuts (x.data.getD 0) bs) }) ()
  else if belayed d line r then .wait d
  else
    let who := some (r % 16)
    match passPins d line r own with
    | (d1, false) => .wait d1
    | (d1, true) =>
      match if whole then some (endUpdate d1 line) else mergeLineWith count d1 line who with
      | none => .err (count d1 (line * 128) who)
      | some d2 =>
        let d3 := spreadBad (count d2 (line * 128) who) line
        if d3.dataBad line && !whole then .err d3
        else .ok (gatherTo (clean d3) line r cmp (linePuts (curLine d3 line) bs)) ()

/-! ## Access counters and notifications (R89 to R91) -/

def regionOf (pa : Nat) : Nat := pa / 2 ^ 21

/-- A counted request (R89): the region's counter advances, and its requester is noted (R91). -/
def countOnly (d : Dev) (pa : Nat) (who : Option Nat) : Dev :=
  if !isMemory pa then d
  else
    { d with regions := d.regions.update (regionOf pa) fun g =>
        { g with count := Nat.min (g.count + 1) 0xFFFF
                 who := match who with
                   | some w => g.who ||| BitVec.ofNat 9 (2 ^ w)
                   | none => g.who } }

/-- Copies of a line take a byte, and the owner's becomes dirty. -/
def pokeMsg (line pos : Nat) (b : Byte) : Msg → Msg
  | .toks l dst src n owner dirty cmp (some v) =>
    if l = line then .toks l dst src n owner (dirty || owner) cmp (some (linePut v pos b)) else .toks l dst src n owner dirty cmp (some v)
  | m => m

/-- Writes a byte in every copy of its line at once: at the holders, in messages, and in memory where that is current. -/
def pokeByte (d : Dev) (pa : Nat) (b : Byte) : Dev :=
  let line := pa / 128
  let put (m : SMap HLine) (h : Nat) : SMap HLine :=
    if (SMap.get m (hkey line h)).data.isNone then m
    else SMap.update m (hkey line h) fun x =>
      { x with dirty := x.dirty || x.owner, data := x.data.map fun v => linePut v (pa % 128) b }
  let d1 := { d with holders := d.allHolders.foldl put d.holders, msgs := d.msgs.map (pokeMsg line (pa % 128) b) }
  if (d1.home line).ownerAway then d1 else { d1 with gmem := wrByte d1.gmem pa b }

def pokeBytes (d : Dev) (pa : Nat) : List Byte → Dev
  | [] => d
  | b :: r => pokeBytes (pokeByte d pa b) (pa + 1) r

/-- Bytes of a span that lie in one line, as offsets. -/
def spanOf (pa : Nat) (bs : List Byte) : List (Nat × Byte) :=
  ((List.range bs.length).zip bs).map fun p => (pa % 128 + p.1, p.2)

/-- The system cache of a package (R92). -/
def sysCache (pkg : Nat) : Nat := 16 * pkg + 8

/-- The control die writes bytes of one line through the system cache. Where a pin or a belay request would hold the write
back, it takes its place at once in every copy instead (log entry 77). -/
def ctlPiece (count : Count) (d : Dev) (pkg pa : Nat) (bs : List Byte) : Dev :=
  match coWriteWith count d (pa / 128) (sysCache pkg) false false (spanOf pa bs) with
  | .ok d1 _ => d1
  | .wait _ =>
    let d1 := pokeBytes d pa bs
    let d2 := if (d.home (pa / 128)).ownerAway then d1 else storeBlock d1 (pa / 128) false
    if bs.length = 128 then { d2 with badLines := d2.badLines.filter (· != pa / 128) } else d2
  | .err d1 => d1

/-- A counted access, and the notification it may post (R91). The write of the entry is counted itself, and posts nothing. -/
def countAccess (d : Dev) (pa : Nat) (who : Option Nat) : Dev :=
  if !isMemory pa then d
  else
    let d1 := countOnly d pa who
    let g := d1.regions.get (regionOf pa)
    let p := d1.pkg (paPkg pa)
    if p.migThresh = 0 || g.count < p.migThresh || g.q then d1
    else if (p.migTail + 8192 - p.migHead) % 8192 = 4096 then d1.updPkg (paPkg pa) fun p => { p with migOvf := true }
    else
      let at0 := bits p.migBase 16 36 * 2 ^ 16 + 16 * (p.migTail % 4096)
      let entry := bytesOf 8 (regionOf pa * 2 ^ 21 % 2 ^ 52) ++ bytesOf 8 (g.count + g.who.toNat * 2 ^ 16)
      let d2 := if isMemory at0 then ctlPiece countOnly d1 (paPkg pa) at0 entry else d1
      { d2 with regions := d2.regions.update (regionOf pa) fun g => { g with q := true } }.updPkg (paPkg pa) fun p =>
        { p with migTail := (p.migTail + 1) % 8192 }

def mergeLine (d : Dev) (line : Nat) (who : Option Nat) : Option Dev := mergeLineWith countAccess d line who
def coRead (d : Dev) (line r : Nat) (own : Bool) : Co Line := coReadWith countAccess d line r own
def coWrite (d : Dev) (line r : Nat) (own cmp : Bool) (bs : List (Nat × Byte)) : Co Unit :=
  coWriteWith countAccess d line r own cmp bs

/-! ## Accesses of the control die (R92) -/

/-- Pieces of a span that lie in one line each: address and length. -/
def linePieces : Nat → Nat → Nat → List (Nat × Nat)
  | 0, _, _ => []
  | fuel + 1, a, n =>
    if n = 0 then []
    else
      let m := Nat.min n (128 - a % 128)
      (a, m) :: linePieces fuel (a + m) (n - m)

/-- The system cache reads the lines of a span of main memory, so that what follows finds their data there: merges are done,
requests counted, tokens moved (R89, R92, R109). What a pin or a belay request holds back stays where it is. -/
def ctlRead (d : Dev) (pkg pa n : Nat) : Dev :=
  (linePieces (n / 128 + 2) pa n).foldl (fun d p =>
    if !isMemory p.1 then d
    else
      match coRead d (p.1 / 128) (sysCache pkg) false with
      | .ok d1 _ => d1
      | .wait _ => d
      | .err d1 => d1) d

/-- The control die writes a span of main memory through the system cache. -/
def ctlWrite (d : Dev) (pkg pa : Nat) (bs : List Byte) : Dev :=
  (linePieces (bs.length / 128 + 2) pa bs.length).foldl (fun d p =>
    if isMemory p.1 then ctlPiece countAccess d pkg p.1 ((bs.drop (p.1 - pa)).take p.2) else d) d

end Sys2Proof.Machine
end

