-- ==== Sys2Proof/Machine/Translate.lean ====
section
/-! DEFINITION. Virtual addresses: the heap window, the page tables, permissions, and the system region (R16, R17, R70 to
R83). -/

namespace Sys2Proof.Machine

/-- Kinds of access (R80). -/
inductive Access where
  | fetch | read | write | amo | red
  deriving DecidableEq, Repr, Inhabited

/-- Cause codes (R359). -/
def causeViolation : Nat := 0x0B
def causePage : Nat := 0x0A
def causeRemote : Nat := 0x0C

/-- Outcome of a translation: the physical address with the CMP attribute, or the cause of the fault. -/
inductive Xlate where
  | ok (pa : Nat) (cmp : Bool)
  | fault (cause : Nat)
  deriving DecidableEq, Repr, Inhabited

/-- ACCESS bits of a record (R403). -/
def Access.bits : Access → Nat
  | fetch => 4
  | read => 1
  | write | red => 2
  | amo => 3

/-- Attributes an access needs, in the places of R77: R bit 1, W bit 2, X bit 3, UPD bit 4 (R80). -/
def Access.need : Access → Nat
  | fetch => 8
  | read => 2
  | write => 4
  | amo => 6
  | red => 20

/-- Size of the page a leaf of a level maps (R76). -/
def levelSize (level : Nat) : Nat := 2 ^ (12 + 9 * (4 - level))

/-- A malformed entry, or one with V = 0, ends the walk as a page fault (R78). -/
def entryBad (level e : Nat) : Bool :=
  !nbit e 0 || nbits e 52 12 != 0 || nbits e 10 2 != 0 || (nbit e 7 && level == 1) || (!nbit e 7 && level == 4) ||
  (nbit e 7 && nbits e 12 40 * 4096 % levelSize level != 0) || (!nbit e 7 && nbits e 1 9 != 0)

/-- An entry of a table as the walker's coherent read sees it; none where nothing can be read there (R72, R108). -/
def tableEntry (d : Dev) (pa : Nat) : Option Nat :=
  if !isMemory pa && paKind pa != .system then none
  else if d.npkg ≤ paPkg pa then none
  else if d.lineBad (pa / 128) then none
  else some (ofBytes (peekBytes d pa 8))

/-- Result of a walk: the leaf with its level and address, or the cause. -/
inductive WalkRes where
  | leaf (level e at_ : Nat)
  | fault (cause : Nat)
  deriving DecidableEq, Repr

/-- Address of the entry that a walk reads in a table at a level (R76). -/
def entryAt (va level table : Nat) : Nat := table + 8 * (va / levelSize level % 512)

/-- The walk from a table at `level`, with `fuel` levels to go (R76). -/
def walkFrom (d : Dev) (va : Nat) : Nat → Nat → WalkRes
  | 0, _ => .fault causePage
  | fuel + 1, table =>
    let level := 4 - fuel
    let a := entryAt va level table
    match tableEntry d a with
    | none => .fault causeRemote
    | some e =>
      if entryBad level e then .fault causePage
      else if nbit e 7 then .leaf level e a
      else walkFrom d va fuel (nbits e 12 40 * 4096)

def walk (d : Dev) (root va : Nat) : WalkRes := walkFrom d va 4 root

/-- The coherent reads that a walk makes through the system cache of its package (R76, R92). -/
def walkReads (pkg va : Nat) : Nat → Nat → Dev → Dev
  | 0, _, d => d
  | fuel + 1, table, d =>
    let level := 4 - fuel
    let d1 := ctlRead d pkg (entryAt va level table) 8
    match tableEntry d1 (entryAt va level table) with
    | none => d1
    | some e => if entryBad level e || nbit e 7 then d1 else walkReads pkg va fuel (nbits e 12 40 * 4096) d1

/-- The contiguous group of an entry is well formed, so it is cached as one page (R79). -/
def groupOk (d : Dev) (level a : Nat) : Bool :=
  let base := a - a / 8 % 16 * 8
  let es := (List.range 16).map fun i => (tableEntry d (base + 8 * i)).getD 0
  let e0 := at_ es 0
  let sz := levelSize level
  (level == 3 || level == 4) && nbits e0 12 40 * 4096 % (16 * sz) == 0 &&
  (List.range 16).all fun i =>
    let e := at_ es i
    nbit e 7 && nbit e 8 && nbits e 0 10 == nbits e0 0 10 && nbits e 12 40 * 4096 == nbits e0 12 40 * 4096 + i * sz

/-- The translation a walk makes for the TLB (R79, R82). -/
def walkTlb (d : Dev) (job va level e a : Nat) : Tlb :=
  let sz := levelSize level
  let frame := nbits e 12 40 * 4096
  if nbit e 8 && groupOk d level a then
    let big := 16 * sz
    { job := job, va := va / big * big, size := big, pa := frame / big * big, attrs := BitVec.ofNat 10 e }
  else { job := job, va := va / sz * sz, size := sz, pa := frame, attrs := BitVec.ofNat 10 e }

/-- The cached translation of an address on a die. -/
def tlbHit (d : Dev) (die job va : Nat) : Option Tlb :=
  (d.dies.get die).tlb.find? fun t => t.job == job && decide (t.va ≤ va) && decide (va < t.va + t.size)

/-- A cached translation meets another one's addresses. -/
def Tlb.meets (x y : Tlb) : Bool := x.job == y.job && decide (x.va < y.va + y.size) && decide (y.va < x.va + x.size)

/-- Caches a translation; a full pinned partition takes a PIN translation as an ordinary one, and what the partition holds stays
until an invalidation covers it (R82). -/
def tlbInsert (d : Dev) (die : Nat) (t : Tlb) : Dev :=
  { d with dies := d.dies.update die fun x =>
      let pinned := x.tlb.filter fun y => y.attrs.getLsbD 6
      if pinned.any t.meets then x
      else
        let t := if t.attrs.getLsbD 6 && decide (Config.pinnedTlb ≤ pinned.length) then { t with attrs := t.attrs &&& 0x3BF#10 } else t
        { x with tlb := (x.tlb.filter fun y => !y.meets t) ++ [t] } }

/-- The physical place of the system page of a package, in the system region (log entry 11). -/
def sysPagePa (pkg : Nat) : Nat := pkg * 2 ^ 46 + 0x200000000000

/-- A physical address lies in the system page of its package (R16). -/
def inSysPage (pa : Nat) : Bool := pa / 4096 == sysPagePa (paPkg pa) / 4096

/-- What a physical address means for an access that has its permission (R16, R72). -/
def checkPa (d : Dev) (own : Nat) (priv : Bool) (k : Access) (pa : Nat) (cmp : Bool) : Xlate :=
  match paKind pa with
  | .compression => .fault causeViolation
  | .system =>
    if d.npkg ≤ paPkg pa then .fault causeRemote
    else if inSysPage pa then (if k = .read then .ok pa cmp else .fault causeViolation)
    else if priv then .ok pa cmp else .fault causeViolation
  | .hole => .fault causeRemote
  | _ => if d.npkg ≤ paPkg pa || (paPkg pa != own && (d.pkg (paPkg pa)).unreachable) then .fault causeRemote else .ok pa cmp

/-- An address lies in a heap window of a base and length (R74, R75). -/
def windowHolds (base len : Word) (va : Nat) : Bool :=
  decide (base.toNat ≤ va) && decide (va < base.toNat + len.toNat) && (decide (base.toNat + len.toNat ≤ 2 ^ 48) || decide (va < 2 ^ 48))

/-- The device with the window of an access's issue in force for a context (R74). -/
def Dev.atWin (d : Dev) (c : Nat) (w : Win) : Dev := d.updCtx c fun k => k.setWin w

/-- An address lies in a window (R74). -/
def Win.holds (w : Win) (va : Word) : Bool := windowHolds w.base w.len va.toNat

/-- An address lies in the heap window of a context (R74). -/
def inWindow (k : Ctx) (va : Word) : Bool := k.win.holds va

/-- An address lies in the page at which firmware maps the system page into every job (R16; log entry 11). -/
def onSysPage (d : Dev) (va : Nat) : Bool := va / 4096 == d.pageVa.toNat / 4096

/-- The translation by which firmware maps its package's system page: readable, for every context (R16). -/
def sysPageMap (d : Dev) (pkg job : Nat) : Tlb :=
  { job := job, va := d.pageVa.toNat / 4096 * 4096, size := 4096, pa := sysPagePa pkg, attrs := 0x83#10 }

/-- The translation of an address of a job as a die meets it: the mapping of the system page, a cached one, or that of a walk. -/
def lookup (d : Dev) (die job va : Nat) : Except Nat Tlb :=
  let pkg := die / 8
  if onSysPage d va then .ok (sysPageMap d pkg job)
  else
    match tlbHit d die job va with
    | some t => .ok t
    | none =>
      match walk d (d.job pkg job).ptroot va with
      | .leaf level e a => .ok (walkTlb d job va level e a)
      | .fault cause => .error cause

/-- Translation of an access of a context at a privilege (R70 to R80). -/
def translateAs (d : Dev) (c : Nat) (priv : Bool) (va : Word) (k : Access) : Xlate :=
  let x := d.ctx c
  let a := va.toNat
  if inWindow x va then
    if k = .fetch || k = .red then .fault causeViolation
    else checkPa d (pkgOf c) priv k ((va + x.spr' Spr.hwo).toNat % 2 ^ 52) true
  else if 2 ^ 48 ≤ a then .fault causeViolation
  else
    match lookup d (dieKey c) x.task.job a with
    | .error cause => .fault cause
    | .ok t =>
      if (t.attrs.toNat &&& k.need) != k.need || (t.attrs.getLsbD 9 && !priv) then .fault causeViolation
      else checkPa d (pkgOf c) priv k (t.pa + (a - t.va)) (t.attrs.getLsbD 5)

/-- Translation of an access of a context's engines and nodes, at the privilege of its task. -/
def translate (d : Dev) (c : Nat) (va : Word) (k : Access) : Xlate := translateAs d c (d.ctx c).priv va k

/-- A walk for an address of a job on a die, unless its translation is there: its reads, and the translation cached (R81,
R82, R92). -/
def walkFor (d : Dev) (die job va : Nat) : Dev :=
  if 2 ^ 48 ≤ va || onSysPage d va || (tlbHit d die job va).isSome then d
  else
    let d1 := walkReads (die / 8) va 4 (d.job (die / 8) job).ptroot d
    match walk d1 (d1.job (die / 8) job).ptroot va with
    | .leaf level e a => tlbInsert d1 die (walkTlb d1 job va level e a)
    | .fault _ => d1

/-- The walk that the translation of an address by a window needs, if it needs one. -/
def walkedIn (d : Dev) (c : Nat) (w : Win) (va : Word) : Dev :=
  if w.holds va then d else walkFor d (dieKey c) (d.ctx c).task.job va.toNat

/-- The walk that the translation of a context's address needs, if it needs one. -/
def walked (d : Dev) (c : Nat) (va : Word) : Dev := walkedIn d c (d.ctx c).win va

/-- A word fault at issue of R112: an address that is not translated at all (R70, R74). -/
def issueViolation (x : Ctx) (va : Word) (k : Access) : Bool :=
  if inWindow x va then k == .red else decide (2 ^ 48 ≤ va.toNat)

/-! ## The system page (R17, R18, R21) -/

/-- Enabled cores of a package. -/
def enabledCores (d : Dev) (pkg : Nat) : Nat :=
  ((List.range 1536).filter fun i =>
    !d.disabled.contains (pkg * 2 ^ 11 + i / 192 * 2 ^ 8 + i % 192 / 48 * 2 ^ 6 + i % 48)).length

/-- Byte of the core-enable bitmaps. -/
def bitmapByte (d : Dev) (pkg o : Nat) : Byte :=
  BitVec.ofNat 8 ((List.range 8).foldl (fun n b =>
    let i := o % 24 * 8 + b
    let core := pkg * 2 ^ 11 + o / 24 * 2 ^ 8 + i / 48 * 2 ^ 6 + i % 48
    if d.disabled.contains core then n else n + 2 ^ b) 0)

/-- A capability entry of the linked list (R18): identifier, version 1, offset of the next entry, FEAT. The entries follow each
other from 0x100 on in ascending order of identifier (log entry 78). -/
def capByte (d : Dev) (o : Nat) : Byte :=
  let i := o / 16
  match d.capList[i]? with
  | none => 0
  | some (id, feat) =>
    let nxt := if i + 1 < d.capList.length then 0x100 + 16 * (i + 1) else 0
    at_ (bytesOf 2 id ++ bytesOf 2 1 ++ bytesOf 4 nxt ++ bytesOf 8 feat.toNat) (o % 16)

/-- A byte of the system page of a package. -/
def sysPageByte (d : Dev) (pkg o : Nat) : Byte :=
  if o < 4 then at_ (bytesOf 4 0x59534746) o
  else if o = 4 then 1
  else if o = 8 then BitVec.ofNat 8 pkg
  else if o = 9 then BitVec.ofNat 8 d.npkg
  else if o = 10 then 8
  else if o = 11 then 4
  else if o = 12 then 48
  else if o = 13 then 4
  else if o = 16 || o = 17 then at_ (bytesOf 2 (enabledCores d pkg)) (o - 16)
  else if o = 18 then 10
  else if 0x20 ≤ o && o < 0x24 then at_ (bytesOf 4 0x100) (o - 0x20)
  else if 0x40 ≤ o && o < 0x100 then bitmapByte d pkg (o - 0x40)
  else if 0x100 ≤ o then capByte d (o - 0x100)
  else 0

end Sys2Proof.Machine
end

