-- ==== Sys2Proof/Machine/SysRegs.lean ====
section
/-! DEFINITION. The described registers of the control-die system region (R90, R110, R151, R376, R377, R383). Every other
address of the region is held as plain memory (log entry 12). -/

namespace Sys2Proof.Machine

/-- Offset in the package of the system region. -/
def sysBase : Nat := 0x200000000000

/-- The register at an 8-byte aligned offset from the start of the system region, as firmware reads it. -/
def regRead (d : Dev) (pkg off : Nat) : Option Word :=
  let p := d.pkg pkg
  if off = 0x10000 then some p.migBase
  else if off = 0x10008 then some (BitVec.ofNat 64 p.migHead)
  else if off = 0x10010 then some (BitVec.ofNat 64 p.migTail)
  else if off = 0x10018 then some (BitVec.ofNat 64 p.migThresh)
  else if off = 0x10020 then some (bitWord p.migOvf)
  else if off = 0x10028 then some 0
  else if 0x10100 ≤ off && off < 0x10140 && alignedTo 8 off then some (BitVec.ofNat 64 (p.updEarly.get ((off - 0x10100) / 8)))
  else if 0x10200 ≤ off && off < 0x10240 && alignedTo 8 off then some (d.dies.get (pkg * 8 + (off - 0x10200) / 8)).dsown
  else if off = 0x10300 then some p.fringBase
  else if off = 0x10308 then some (BitVec.ofNat 64 p.fringSize)
  else if off = 0x10310 then some (BitVec.ofNat 64 p.fringHead)
  else if off = 0x10318 then some (BitVec.ofNat 64 p.fringTail)
  else if off = 0x10320 then some (bitWord p.fringWaited)
  else if off = 0x10400 then some 0
  else if off = 0x20000 then some 0
  else if off = 0x20008 then some (BitVec.ofNat 64 (64 - p.admitUsed))
  else if off = 0x20010 then some (BitVec.ofNat 64 (p.admitDrop % 2 ^ 32))
  else if off = 0x20018 then some (BitVec.ofNat 64 p.admitState)
  else if 0x20000 ≤ off && off < 0x21000 then some 0
  else none

/-- What the host reads at an 8-byte aligned offset of BAR0, which maps the admission page (R383). -/
def barRead (d : Dev) (pkg off : Nat) : Word := if off < 4096 then (regRead d pkg (0x20000 + off)).getD 0#64 else 0#64

/-- MIG_CLEAR: the counter and Q of the region named become 0 (R90), and no requester is noted of it any more (R91). The
region's package bits count: a region of another package is cleared there (log entry 79). -/
def migClearTo (d : Dev) (v : Word) : Dev :=
  { d with regions := d.regions.set (regionOf (bits v 21 31 * 2 ^ 21)) default }

/-- A write to ADMIT (R384); `firmware` marks a management core's write. -/
def admitTo (d : Dev) (pkg bytes : Nat) (v : Word) (firmware : Bool) : Dev :=
  d.updPkg pkg fun p =>
    if bytes ≠ 8 || bits v 52 12 != 0 || bits v 0 8 != 0 || decide (64 ≤ p.admitUsed) || p.admitState != 1 then
      { p with admitDrop := (p.admitDrop + 1) % 2 ^ 32 }
    else { p with admitUsed := p.admitUsed + 1, admissions := p.admissions ++ [(bits v 8 44 * 2 ^ 8, firmware)] }

/-- A 64-bit write to a described register; reserved fields are ignored (R8, R9). CTXCMD goes on as a message. -/
def regWrite (d : Dev) (pkg off : Nat) (v : Word) : Dev :=
  let up (f : Pkg → Pkg) : Dev := d.updPkg pkg f
  if off = 0x10000 then up fun p => { p with migBase := BitVec.ofNat 64 (bits v 16 36 * 2 ^ 16) }
  else if off = 0x10008 then up fun p => { p with migHead := bits v 0 13 }
  else if off = 0x10018 then up fun p => { p with migThresh := bits v 0 16 }
  else if off = 0x10020 then up fun p => { p with migOvf := p.migOvf && !v.getLsbD 0 }
  else if off = 0x10028 then migClearTo d v
  else if 0x10200 ≤ off && off < 0x10240 && alignedTo 8 off then
    { d with dies := d.dies.update (pkg * 8 + (off - 0x10200) / 8) fun x => { x with dsown := v } }
  else if off = 0x10300 then up fun p => { p with fringBase := BitVec.ofNat 64 (bits v 12 40 * 2 ^ 12) }
  else if off = 0x10308 then up fun p => { p with fringSize := bits v 0 5 }
  else if off = 0x10310 then up fun p => { p with fringHead := bits v 0 17 }
  else if off = 0x10320 then up fun p => { p with fringWaited := p.fringWaited && !v.getLsbD 0 }
  else if off = 0x10400 then
    if decide (1 ≤ bits v 56 8) && decide (bits v 56 8 ≤ 3) && bits v 11 6 == pkg then d.send (.ctxcmd pkg v) else d
  else if off = 0x20000 then admitTo d pkg 8 v true
  else d

/-- A byte of the system region as a privileged access reads it. -/
def sysByte (d : Dev) (pa : Nat) : Byte :=
  let off := paLocal pa - sysBase
  if off < 4096 then sysPageByte d (paPkg pa) off
  else
    match regRead d (paPkg pa) (off / 8 * 8) with
    | some v => v.extractLsb' (8 * (off % 8)) 8
    | none => rdByte d.gmem pa

/-- Writes the selected bytes of an aligned dword of the system region: a register takes the bytes written and keeps the others,
and ADMIT takes eight or none (R384). -/
def sysWriteDword (d : Dev) (pa : Nat) (bs : List (Bool × Byte)) : Dev :=
  let off := paLocal pa - sysBase
  let n := (bs.filter Prod.fst).length
  if off < 4096 || n = 0 then d
  else
    match regRead d (paPkg pa) off with
    | some now =>
      let old := if off = 0x10020 || off = 0x10320 then 0 else now
      if n < 8 && off = 0x20000 then admitTo d (paPkg pa) n 0 true
      else
        regWrite d (paPkg pa) off (BitVec.ofNat 64 (ofBytes ((List.range 8).map fun i =>
          match bs[i]? with
          | some (true, b) => b
          | _ => old.extractLsb' (8 * i) 8)))
    | none => { d with gmem := wrMemSel d.gmem pa bs }

/-- Writes the selected bytes of a span of the system region, dword by dword. -/
def sysWriteSel (d : Dev) (pa : Nat) (bs : List (Bool × Byte)) : Dev :=
  (List.range ((pa % 8 + bs.length + 7) / 8)).foldl (fun d i =>
    sysWriteDword d (pa / 8 * 8 + 8 * i) ((List.range 8).map fun j =>
      if 8 * i + j < pa % 8 then (false, 0) else (bs[8 * i + j - pa % 8]?).getD (false, 0))) d

/-- Writes bytes of the system region by a scalar access. -/
def sysWrite (d : Dev) (pa n : Nat) (v : Word) : Dev := sysWriteSel d pa ((bytesOf n v.toNat).map fun b => (true, b))

/-- `n` bytes of global memory or of the system region as a coherent read sees them. -/
def peekAny (d : Dev) (pa n : Nat) : Nat :=
  if paKind pa = .system then ofBytes ((List.range n).map fun i => sysByte d (pa + i)) else ofBytes (peekBytes d pa n)

end Sys2Proof.Machine
end

