-- ==== Sys2Proof/Machine/Global.lean ====
section
/-! DEFINITION. Scalar accesses to global memory: their places in program order, the requests they make, and the moment they
perform (R98 to R117, R322). -/

namespace Sys2Proof.Machine

/-! ## Requests (R98, R100) -/

/-- The message of an attempt (R98). -/
def Req.msg (q : Req) (line h : Nat) : Msg := if q.write then .twrite line h q.attempt else .tread line h q.attempt

/-- A holder asks the home for a line: the first attempt of a transient request. -/
def ask (d : Dev) (line h : Nat) (write : Bool) : Dev :=
  match (d.hl line h).req with
  | some _ => d
  | none =>
    let q : Req := { write := write, attempt := 1, first := d.cycle, sent := d.cycle, belay := false }
    (d.updHl line h fun x => { x with req := some q }).send (q.msg line h)

/-- An attempt fails: the next is sent at once, or the request becomes a belay request (R98). -/
def attemptFailed (d : Dev) (line h : Nat) : Dev :=
  match (d.hl line h).req with
  | none => d
  | some q =>
    if q.belay then d
    else if Config.maxAttempts ≤ q.attempt || Config.escalateCycles ≤ d.cycle - q.first then
      (d.updHl line h fun x => { x with req := some { q with belay := true } }).send (.belay line h)
    else
      let q1 := { q with attempt := q.attempt + 1, sent := d.cycle }
      (d.updHl line h fun x => { x with req := some q1 }).send (q1.msg line h)

/-- A request is satisfied: a belay request tells the home (R100 step 4). -/
def settle (d : Dev) (line h : Nat) : Dev :=
  let x := d.hl line h
  match x.req with
  | none => d
  | some q =>
    if (if q.write then x.tokens == 1024 else decide (1 ≤ x.tokens)) && x.data.isSome then
      let d1 := d.setHl line h { x with req := none }
      if q.belay then d1.send (.belayDone line h) else d1
    else d

/-! ## Results and faults of an access -/

/-- Changes the entry that an access supplies, in the stream or in a frozen group. -/
def Ctx.updAcc (k : Ctx) (tag : Nat) (f : Entry → Entry) : Ctx :=
  let g := fun e : Entry => if e.acc = tag then f e else e
  { k with infl := k.infl.map g, gTrap := k.gTrap.map g, gCue := k.gCue.map g, gSave := k.gSave.map g }

/-- Whether an entry still carries the tag of an access. -/
def Ctx.hasAcc (k : Ctx) (tag : Nat) : Bool :=
  (k.infl ++ k.gTrap ++ k.gCue ++ k.gSave).any fun e => e.acc == tag

/-- The kind of access an operation makes (R80). -/
def GOp.access : GOp → Access
  | ldg _ => .read
  | stg _ => .write
  | amo _ => .amo
  | red _ => .red

/-- The trap record of a failed access (R112). -/
def GAcc.trap (a : GAcc) (cause : Nat) (imp : Bool) : TrapRec :=
  { (default : TrapRec) with
    cause := cause, info0 := a.va, imp := imp, access := a.op.access.bits, va := a.va, slot := a.slot, opc := a.opc
    info1 := BitVec.ofNat 64 (a.opc + (if imp then 256 else 0) + a.slot * 512)
    acc := a.tag }

/-- The access fails: at its due count if its entry is still in flight, at the next boundary otherwise (R112). It is kept
for firmware to have it replayed (R376). -/
def failAcc (d : Dev) (c : Nat) (a : GAcc) (cause : Nat) : Dev :=
  d.updCtx c fun k =>
    if k.hasAcc a.tag then
      let k1 := k.updAcc a.tag fun e => { e with fault := some (a.trap cause false) }
      if cause = causePage then k1 else { k1 with failed := k1.failed ++ [{ a with asked := false, susp := false }] }
    else { k with asyncs := k.asyncs ++ [a.trap cause true] }

/-- The access supplies its value, or completes its checks. -/
def giveAcc (d : Dev) (c tag : Nat) (v : Word) : Dev :=
  d.updCtx c fun k => k.updAcc tag fun e => { e with ready := true, val := vecOfWord v }

/-! ## The operations (R114 to R117) -/

/-- Extension of a loaded value (R114). -/
def ldgExt (op : LdgOp) (x : Nat) : Word :=
  match op with
  | .b => wordOf (sext 8 x)
  | .h => wordOf (sext 16 x)
  | .w => wordOf (sext 32 x)
  | _ => BitVec.ofNat 64 x

def ldgBytes : LdgOp → Nat
  | .b | .bu => 1
  | .h | .hu => 2
  | .w | .wu => 4
  | .d => 8

/-- Width of an atomic in bytes (R116). -/
def amoBytes : AmoOp → Nat
  | .fadd | .casw => 4
  | _ => 8

/-- The new value of an atomic: `x` old, `b` operand, `c` compare (R116). -/
def amoNew (op : AmoOp) (x b c : Nat) : Nat :=
  match op with
  | .add => (x + b) % 2 ^ 64
  | .and => x &&& b
  | .or => x ||| b
  | .xor => x ^^^ b
  | .min => if sext 64 b < sext 64 x then b else x
  | .max => if sext 64 x < sext 64 b then b else x
  | .minn => Nat.min x b
  | .maxn => Nat.max x b
  | .fadd => (addF .f32 .rne false 0 (x % 2 ^ 32) (b % 2 ^ 32)).1
  | .swap => b
  | .cas => if x = c then b else x
  | .casw => if x % 2 ^ 32 = c % 2 ^ 32 then b % 2 ^ 32 else x

def redBytes : RedOp → Nat
  | .addI64 => 8
  | _ => 4

/-! ## Performing (R113, R322) -/

/-- The narrower of two scopes below `.dom`. -/
def narrower (a b : Scope) : Scope := if a = .die || b = .die then .die else .pkg

/-- Adds the pin of an access, or narrows the one the line has; the 65th releases the oldest first (R104). -/
def pinLine (d : Dev) (c line h : Nat) (a : GAcc) : Dev :=
  match pinOf d line h with
  | some p =>
    updPins d ((d.hl line h).pinned - 1) fun l =>
      l.map fun q =>
        if q ≠ p then q
        else
          { q with scope := narrower q.scope a.scope, va := a.va
                   tag := if (d.hl line h).pinned = c + 1 then a.tag else q.tag, last := a.scope }
  | none =>
    let d1 :=
      match (d.ctx c).pins with
      | p :: _ => if Config.maxPins ≤ (d.ctx c).pins.length then releasePin d p.line p.holder else d
      | [] => d
    (d1.updHl line h fun x => { x with pinned := c + 1 }).updCtx c fun k =>
      { k with pins := k.pins ++ [{ line := line, holder := h, scope := a.scope, va := a.va, refused := none, tag := a.tag, last := a.scope }] }

/-- What becomes of the first access of a context's queue: it performs, or it waits for its line. -/
inductive Perf where
  | done (d : Dev)
  | wait (d : Dev)

/-- The holder writes a line it has whole. -/
def writeHeld (d : Dev) (line h : Nat) (cmp : Bool) (bs : List (Nat × Byte)) : Dev :=
  d.updHl line h fun x => { x with dirty := true, cmp := cmp, data := some (linePuts (x.data.getD 0) bs) }

/-- A `red` enters its die's entry, joining the line first if the die has none (R109, R110, R117). -/
def performRed (d : Dev) (c : Nat) (a : GAcc) (op : RedOp) : Perf :=
  let line := a.pa / 128
  let die := dieKey c
  let e := a.pa % 128 / redBytes op
  match dieEntry d die line with
  | some u =>
    if u.op = op && (d.home line).upd = some op then
      let u1 := { u with ops := u.ops ++ [(e, a.data)] }
      let d1 := { d with dies := d.dies.update die fun x => { x with upd := (x.upd.filter fun y : UpdEnt => y.line != line) ++ [u1] } }
      .done (giveAcc (d1.updHome line fun x => { x with reds := x.reds + 1 }) c a.tag 0)
    else .wait (if a.asked then d else d.send (.join line die op))
  | none => .wait (if a.asked then d else d.send (.join line die op))

/-- Tries to perform an access at its die's L2. -/
def performAcc (d : Dev) (c : Nat) (a : GAcc) : Perf :=
  let line := a.pa / 128
  let h := holderOf c
  let off := a.pa % 128
  let sysPage := paKind a.pa == .system
  let x := d.hl line h
  let hit := 1 ≤ x.tokens && x.data.isSome
  let full := x.tokens == 1024 && x.data.isSome
  let old := lineGet (x.data.getD 0) off a.bytes
  let bs (v : Nat) : List (Nat × Byte) := spanOf a.pa (bytesOf a.bytes v)
  let pin (d : Dev) : Dev :=
    if a.scope ≠ .dom then pinLine d c line h a else d
  if sysPage then
    match a.op with
    | .ldg op => .done (giveAcc d c a.tag (ldgExt op (peekAny d a.pa a.bytes)))
    | .stg _ => .done (giveAcc (sysWrite d a.pa a.bytes a.data) c a.tag 0)
    | .amo op =>
      let v := peekAny d a.pa a.bytes
      .done (giveAcc (sysWrite d a.pa a.bytes (BitVec.ofNat 64 (amoNew op v a.data.toNat a.cmp.toNat))) c a.tag
        (BitVec.ofNat 64 v))
    | .red _ => .done (giveAcc d c a.tag 0)
  else
    match a.op with
    | .ldg op =>
      if !hit then .wait (ask d line h false)
      else if d.dataBad line then .done (failAcc d c a causeRemote)
      else .done (giveAcc d c a.tag (ldgExt op old))
    | .stg _ =>
      if !full then .wait (ask d line h true)
      else if d.dataBad line then .done (failAcc d c a causeRemote)
      else .done (pin (giveAcc (writeHeld d line h a.cmpAttr (bs a.data.toNat)) c a.tag 0))
    | .amo op =>
      if !full then .wait (ask d line h true)
      else if d.dataBad line then .done (failAcc d c a causeRemote)
      else
        .done (pin (giveAcc (writeHeld d line h a.cmpAttr (bs (amoNew op old a.data.toNat a.cmp.toNat))) c a.tag
          (BitVec.ofNat 64 old)))
    | .red op => performRed d c a op

/-- Performs the accesses of a context in program order as far as they can (R113). -/
def pumpFuel : Nat → Dev → Nat → Dev
  | 0, d, _ => d
  | n + 1, d, c =>
    match (d.ctx c).gq with
    | [] => d
    | a :: r =>
      if a.susp then d
      else
        match performAcc d c a with
        | .done d1 => pumpFuel n (d1.updCtx c fun k => { k with gq := r }) c
        | .wait d1 => d1.updCtx c fun k => { k with gq := { a with asked := true } :: r }

def pump (d : Dev) (c : Nat) : Dev := pumpFuel ((d.ctx c).gq.length + 1) d c

/-- Contexts whose accesses go through a holder. -/
def contextsOf (d : Dev) (h : Nat) : List Nat := d.ctxs.keys.filter fun c => holderOf c == h

/-- A holder's waiting accesses perform, then its request is settled (R94, R100). -/
def pumpHolder (d : Dev) (line h : Nat) : Dev :=
  settle ((contextsOf d h).foldl pump (settle d line h)) line h

/-- A holder that waits for a line may have got what it needs by an access that gathered in one step. -/
def wakeHolder (d : Dev) (line h : Nat) : Dev := if (d.hl line h).req.isSome then pumpHolder d line h else d

/-- A coherent read or write of one line for a context's die (R93), after which the die's waiting accesses go on (R94). -/
def dieRead (d : Dev) (c line : Nat) (own : Bool) : Co Line :=
  match coRead d line (holderOf c) own with
  | .ok d1 v => .ok (wakeHolder d1 line (holderOf c)) v
  | x => x

def dieWrite (d : Dev) (c line : Nat) (own cmp : Bool) (bs : List (Nat × Byte)) : Co Unit :=
  match coWrite d line (holderOf c) own cmp bs with
  | .ok d1 v => .ok (wakeHolder d1 line (holderOf c)) v
  | x => x

/-! ## Issue (R112, R113) -/

/-- The translation of an access, by the window and at the privilege of its issue (R70, R74). -/
def accXlate (d : Dev) (c : Nat) (a : GAcc) : Xlate := translateAs (d.atWin c a.win) c a.priv a.va a.op.access

/-- Gives an access its translation, or its fault (R112). A page fault keeps its place (R83); any other ends the access. -/
def startAcc (d0 : Dev) (c : Nat) (a : GAcc) : Dev :=
  let d := walkedIn d0 c a.win a.va
  match accXlate d c a with
  | .ok pa cmp =>
    let checksDone := match a.op with
      | .stg _ | .red _ => true
      | _ => false
    let d1 := if checksDone then giveAcc d c a.tag 0 else d
    d1.updCtx c fun k => { k with gq := k.gq ++ [{ a with pa := pa, cmpAttr := cmp }] }
  | .fault cause =>
    let d1 := failAcc d c a cause
    if cause = causePage then d1.updCtx c fun k => { k with gq := k.gq ++ [{ a with susp := true }] } else d1

/-- A page-faulted access is replayed from translation in its place (R83, R376). -/
def replayAcc (d0 : Dev) (c : Nat) (a : GAcc) : Dev :=
  let d := walkedIn d0 c a.win a.va
  match accXlate d c a with
  | .ok pa cmp =>
    let clear := d.updCtx c fun k =>
      { k with gq := k.gq.map fun b => if b.tag = a.tag then { b with susp := false, pa := pa, cmpAttr := cmp } else b }
    match a.op with
    | .stg _ | .red _ => giveAcc clear c a.tag 0
    | _ => clear
  | .fault cause =>
    let d1 := failAcc d c a cause
    if cause = causePage then d1 else d1.updCtx c fun k => { k with gq := k.gq.filter fun b => b.tag != a.tag }

/-- Issue checks of a scalar global access (R69, R70, R74, R112). -/
def globalHits (E : Env) (va : Word) (bytes : Nat) (k : Access) : List Hit :=
  E.fails
    [(!alignedTo bytes va.toNat, E.badAddr 0x08 va k.bits),
     (issueViolation E.k va k, E.hit 9 { E.trap causeViolation with info0 := va, info1 := E.tag false, va := va, access := k.bits })]

/-- The access of this syllable with the entry its due count has. -/
def Env.newAcc (E : Env) (w : Dev) (op : GOp) (va : Word) (bytes : Nat) (data cmp : Word) (sc : Scope) (sd : BitVec 6) : Dev :=
  let tag := (w.ctx E.c).nextTag + 1
  let e := { E.entry 64 (E.k.destS sd) 0 with ready := false, acc := tag }
  let a : GAcc := { tag := tag, op := op, va := va, pa := 0, bytes := bytes, data := data, cmp := cmp
                    scope := if E.k.spr' Spr.pinlim = 0#64 then .dom else sc
                    cmpAttr := false, slot := E.slot, opc := E.opc, pc := E.addr, priv := E.k.privNow, win := E.k.win, asked := false
                    susp := false }
  let w1 := (addEntry w E.c e).updCtx E.c fun k => { k with nextTag := tag }
  pump (startAcc w1 E.c a) E.c

/-- A page-faulted access ahead in program order that a stalled bundle can never outlive: the context is suspended for it
at this boundary (R83; log entry 13). -/
def pageFaultAhead (d : Dev) (c : Nat) : Option (Dev × TrapRec) :=
  match (d.ctx c).gq with
  | a :: _ =>
    if a.susp then
      some (d.updCtx c fun k => k.updAcc a.tag fun e => { e with fault := none },
            { a.trap causePage false with utpc := (d.ctx c).pc })
    else none
  | [] => none

end Sys2Proof.Machine
end

