-- ==== Sys2Proof/Machine/Spaces.lean ====
section
/-! DEFINITION. The on-chip memories as places, their checks, and the accesses of engines and tile nodes to any space (R13,
R80, R145 to R154). -/

namespace Sys2Proof.Machine

/-! ## Places

A place is a number that names one physical byte: core scratchpads from 0 (packed core id times 2^20 plus offset), die
scratchpads from 2^60, lane-slice arrays from 2^61, and virtual global addresses from 2^62. -/

def placeDie : Nat := 2 ^ 60
def placeLane : Nat := 2 ^ 61
def placeVa : Nat := 2 ^ 62

/-- The place of an address of a space (codes of R60) as a context names it (R145, R147, R148). -/
def placeOf (d : Dev) (c space a : Nat) : Nat :=
  let k := d.ctx c
  match space with
  | 0 => coreOf c * 2 ^ 20 + (k.allot.spBase + a) % 2 ^ 20
  | 1 => placeLane + coreOf c * 2 ^ 18 + (k.allot.lsBase + a) % 2 ^ 18
  | 2 => clusterOf c * 2 ^ 26 + a % 2 ^ 26
  | 3 => placeDie + dieKey c * 2 ^ 26 + a % 2 ^ 26
  | _ => placeVa + a

/-- A byte of on-chip memory. -/
def rdPlace (d : Dev) (p : Nat) : Byte :=
  if p < placeDie then rdByte d.spad p
  else if p < placeLane then rdByte d.dspad (p - placeDie)
  else rdByte d.lanes (p - placeLane)

def rdPlaces (d : Dev) (p n : Nat) : List Byte := (List.range n).map fun i => rdPlace d (p + i)

/-- A word of on-chip memory with an uncorrectable error (R154). -/
def badWord (d : Dev) (p : Nat) : Bool :=
  if p < placeDie then d.badSpad.contains (p / 4)
  else if p < placeLane then d.badDie.contains ((p - placeDie) / 4)
  else d.badLane.contains ((p - placeLane) / 4)

/-- Clears the error of a word that a store writes whole (R154). -/
def healWord (d : Dev) (p : Nat) : Dev :=
  if p < placeDie then { d with badSpad := d.badSpad.filter (· != p / 4) }
  else if p < placeLane then { d with badDie := d.badDie.filter (· != (p - placeDie) / 4) }
  else { d with badLane := d.badLane.filter (· != (p - placeLane) / 4) }

/-- Writes the selected bytes from a place on. -/
def wrPlaces (d : Dev) (p : Nat) (bs : List (Bool × Byte)) : Dev :=
  if p < placeDie then { d with spad := wrMemSel d.spad p bs }
  else if p < placeLane then { d with dspad := wrMemSel d.dspad (p - placeDie) bs }
  else { d with lanes := wrMemSel d.lanes (p - placeLane) bs }

/-- Every byte of a list, selected. -/
def allBytes (bs : List Byte) : List (Bool × Byte) := bs.map fun b => (true, b)

/-! ## Checks -/

/-- Scratchpad allotment of a resident or saved context of a job that holds a byte (R150). -/
def inAllotment (d : Dev) (core job off : Nat) : Bool :=
  (List.range 4).any fun n =>
    let owns (k : Ctx) : Bool :=
      (k.cond == .resident || k.cond == .saved) && k.task.job == job && decide (k.allot.spBase ≤ off) &&
        decide (off < k.allot.spBase + k.allot.spLen)
    owns (d.ctx (ctxId core n)) || d.spilled.any fun s => s.1 == ctxId core n && owns s.2

/-- A core that no request reaches (R13, R15, R150): core index 48 to 63, disabled, or on a die in reset. -/
def coreDown (d : Dev) (core : Nat) : Bool :=
  decide (48 ≤ core % 64) || d.disabled.contains core || (d.dies.get (core / 2 ^ 8)).inReset

/-- The check of a cluster-memory access of `n` bytes at the target core (R150). -/
def clusterFault (d : Dev) (c a n : Nat) : Option Nat :=
  let core := clusterOf c * 64 + a / 2 ^ 20 % 64
  if coreDown d core then some causeRemote
  else if (List.range n).all fun i => inAllotment d core (d.ctx c).task.job ((a + i) % 2 ^ 20) then none
  else some causeViolation

/-- The job owns the die scratchpad (R151). -/
def ownsDie (d : Dev) (c : Nat) : Bool :=
  let o := (d.dies.get (dieKey c)).dsown
  o.getLsbD 63 && bits o 0 63 == (d.ctx c).task.job

/-- An access leaves its space (R149). -/
def outOfSpace (k : Ctx) (space a n : Nat) : Bool :=
  match space with
  | 0 => decide (k.allot.spLen < a + n)
  | 1 => decide (k.allot.lsLen < a + n)
  | 2 => decide (2 ^ 26 ≤ a) || decide (2 ^ 20 < a % 2 ^ 20 + n)
  | _ => decide (2 ^ 26 < a + n)

/-- The checks of a span of cluster memory that may run on into the next core's scratchpad (R145, R150). -/
def clusterSpanFault (d : Dev) (c a n : Nat) : Option Nat :=
  let m := Nat.min n (2 ^ 20 - a % 2 ^ 20)
  if 2 ^ 26 < a + n then some causeViolation
  else (clusterFault d c a m).orElse fun _ => if m < n then clusterFault d c (a + m) (n - m) else none

/-- The fault an engine or a node meets at an on-chip span (R131, R150, R151, R256). -/
def onChipFault (d : Dev) (c space a n : Nat) : Option Nat :=
  if space = 2 then clusterSpanFault d c a n
  else if outOfSpace (d.ctx c) space a n then some causeViolation
  else if space = 3 && !ownsDie d c then some causeViolation
  else none

/-! ## Accesses of engines and nodes -/

/-- Result of an engine access: done, held back by a pin, or a fault with its address. -/
inductive EAcc (α : Type) where
  | ok (d : Dev) (v : α)
  | wait (d : Dev)
  | fault (d : Dev) (cause : Nat) (addr : Word)

/-- Memory supplies a line to a reader: no holder has its data (R97). -/
def fromMemory (d : Dev) (c line : Nat) : Bool :=
  let x := d.hl line (holderOf c)
  !(decide (1 ≤ x.tokens) && x.data.isSome) && !(d.home line).ownerAway

/-- A line request of a context's engine: its die's L2 looks it up, or it is a stack controller's own (`own`), and its line may
travel between the home and memory (R126). -/
def noteReq (d : Dev) (c : Nat) (own mem : Bool) : Dev :=
  d.updCtx c fun k =>
    { k with reqs := { l2 := k.reqs.l2 + (if own then 0 else 1), hbm := k.reqs.hbm + (if own || mem then 1 else 0) } }

/-- What a bucket of a register and a level still lets through of `need` requests, when `paid` have passed: the level and the requests
that have passed then, 128 bytes each (R125, R126). -/
def bucketPay (r : Word) (level need paid : Nat) : Nat × Nat :=
  if bits r 0 32 = 0 then (level, Nat.max need paid)
  else
    let n := Nat.min (need - paid) (level / (128 * 1024))
    (level - n * (128 * 1024), paid + n)

/-- A transfer of an engine or a node: its addresses are translated by the window of its issue (R74), and it is made once its buckets
have let every line request of it through (R126). `paid` are those that have passed, which `keep` records. -/
def engineTransfer {α : Type} (d : Dev) (c : Nat) (win : Win) (paid : Paid) (keep : Paid → Ctx → Ctx) (run : Dev → EAcc α) : EAcc α :=
  let k := d.ctx c
  let back (e : Dev) : Dev := e.updCtx c fun x => { x with spr := k.spr, reqs := k.reqs }
  match run (d.updCtx c fun x => { x.setWin win with reqs := default }) with
  | .wait d1 => .wait (back d1)
  | .fault d1 cause a => .fault (back d1) cause a
  | .ok d1 v =>
    let need := (d1.ctx c).reqs
    let (l2, n2) := bucketPay (k.spr' Spr.tbl2) k.bktL2 need.l2 paid.l2
    let (hbm, nh) := bucketPay (k.spr' Spr.tbhbm) k.bktHbm need.hbm paid.hbm
    let levels (x : Ctx) : Ctx := { x with bktL2 := l2, bktHbm := hbm }
    if need.l2 ≤ n2 && need.hbm ≤ nh then .ok ((back d1).updCtx c fun x => keep default (levels x)) v
    else .wait (d.updCtx c fun x => keep { l2 := n2, hbm := nh } (levels x))

/-- A global read of one piece by a context's engine (R80, R93, R102). -/
def gReadPiece (d : Dev) (c : Nat) (own : Bool) (va n : Nat) : EAcc (List Byte) :=
  let a := BitVec.ofNat 64 va
  let d := walked d c a
  match translate d c a .read with
  | .fault cause => .fault d cause a
  | .ok pa _ =>
    if paKind pa = .system then .ok d ((List.range n).map fun i => sysByte d (pa + i))
    else
      match dieRead (noteReq d c own (fromMemory d c (pa / 128))) c (pa / 128) own with
      | .ok d1 v => .ok d1 ((List.range n).map fun i => BitVec.ofNat 8 (lineGet v (pa % 128 + i) 1))
      | .wait d1 => .wait d1
      | .err d1 => .fault d1 causeRemote a

def gReadPieces (c : Nat) (own : Bool) : List (Nat × Nat) → Dev → List Byte → EAcc (List Byte)
  | [], d, acc => .ok d acc
  | (a, n) :: r, d, acc =>
    match gReadPiece d c own a n with
    | .ok d1 bs => gReadPieces c own r d1 (acc ++ bs)
    | .wait d1 => .wait d1
    | .fault d1 cause va => .fault d1 cause va

/-- A global read of a span. -/
def gRead (d : Dev) (c : Nat) (own : Bool) (va n : Nat) : EAcc (List Byte) :=
  gReadPieces c own (linePieces (n + 1) va n) d []

/-- A global write of the selected bytes of one piece by a context's engine; a fault names the first of them. -/
def gWritePiece (d : Dev) (c : Nat) (own : Bool) (va : Nat) (bs : List (Bool × Byte)) : EAcc Unit :=
  let first := if bs.any Prod.fst then bs.findIdx Prod.fst else 0
  let a := BitVec.ofNat 64 (va + first)
  let d := walked d c (BitVec.ofNat 64 va)
  match translate d c (BitVec.ofNat 64 va) .write with
  | .fault cause => .fault d cause a
  | .ok pa cmp =>
    let sel := (((List.range bs.length).zip bs).filter fun p => p.2.1).map fun p => (pa % 128 + p.1, p.2.2)
    if paKind pa = .system then .ok (sysWriteSel d pa bs) ()
    else if sel.isEmpty then .ok d ()
    else
      match dieWrite (noteReq d c own (sel.length < 128 && fromMemory d c (pa / 128))) c (pa / 128) own cmp sel with
      | .ok d1 _ => .ok d1 ()
      | .wait d1 => .wait d1
      | .err d1 => .fault d1 causeRemote a

def gWritePieces (c : Nat) (own : Bool) (bs : List (Bool × Byte)) (base : Nat) : List (Nat × Nat) → Dev → EAcc Unit
  | [], d => .ok d ()
  | (a, n) :: r, d =>
    match gWritePiece d c own a ((bs.drop (a - base)).take n) with
    | .ok d1 _ => gWritePieces c own bs base r d1
    | .wait d1 => .wait d1
    | .fault d1 cause va => .fault d1 cause va

/-- A global write of the selected bytes of a span. -/
def gWriteSel (d : Dev) (c : Nat) (own : Bool) (va : Nat) (bs : List (Bool × Byte)) : EAcc Unit :=
  gWritePieces c own bs va (linePieces (bs.length + 1) va bs.length) d

/-- Words of a span: address of each aligned word that it meets. -/
def wordsOf (a n : Nat) : List Nat := (List.range ((a % 4 + n + 3) / 4)).map fun i => a / 4 * 4 + 4 * i

/-- A read of a span of any space by an engine or a node. -/
def eRead (d : Dev) (c space a n : Nat) : EAcc (List Byte) :=
  if space = 4 then gRead d c false a n
  else
    match onChipFault d c space a n with
    | some cause => .fault d cause (BitVec.ofNat 64 a)
    | none =>
      match (wordsOf a n).find? fun w => badWord d (placeOf d c space w) with
      | some w => .fault d causeRemote (BitVec.ofNat 64 w)
      | none => .ok d (rdPlaces d (placeOf d c space a) n)

/-- Whether every byte of the word at `w` is written by the span of selected bytes from `a` on. -/
def wholeWord (a : Nat) (bs : List (Bool × Byte)) (w : Nat) : Bool :=
  (List.range 4).all fun i => decide (a ≤ w + i) && ((bs[w + i - a]?).getD (false, 0)).1

/-- Whether some byte of the word at `w` is written. -/
def someWord (a : Nat) (bs : List (Bool × Byte)) (w : Nat) : Bool :=
  (List.range 4).any fun i => decide (a ≤ w + i) && ((bs[w + i - a]?).getD (false, 0)).1

/-- An on-chip store of the selected bytes; an erroneous word written in part is the fault (R154). -/
def storeOnChip (d : Dev) (c space a : Nat) (bs : List (Bool × Byte)) : Except Nat Dev :=
  let ws := wordsOf a bs.length
  match ws.find? fun w => badWord d (placeOf d c space w) && someWord a bs w && !wholeWord a bs w with
  | some w => .error w
  | none =>
    let d1 := (ws.filter fun w => badWord d (placeOf d c space w) && wholeWord a bs w).foldl
      (fun d w => healWord d (placeOf d c space w)) d
    .ok (wrPlaces d1 (placeOf d c space a) bs)

/-- A write of the selected bytes of a span of any space by an engine or a node. -/
def eWriteSel (d : Dev) (c space a : Nat) (bs : List (Bool × Byte)) : EAcc Unit :=
  if space = 4 then gWriteSel d c false a bs
  else
    match onChipFault d c space a bs.length with
    | some cause => .fault d cause (BitVec.ofNat 64 a)
    | none =>
      match storeOnChip d c space a bs with
      | .error w => .fault d causeRemote (BitVec.ofNat 64 w)
      | .ok d1 => .ok d1 ()

/-! ## Scattered writes -/

/-- Bytes at addresses, gathered by line or word of size `m` in order of first appearance. -/
def groupBy (m : Nat) : List (Nat × Byte) → List (Nat × List (Nat × Byte))
  | [] => []
  | (a, b) :: r =>
    let g := groupBy m r
    match g.find? fun x => x.1 == a / m with
    | some x => (a / m, (a, b) :: x.2) :: g.filter fun y => y.1 != a / m
    | none => (a / m, [(a, b)]) :: g

/-- A list of selected bytes from the start of a unit of size `m`. -/
def unitBytes (m base : Nat) (l : List (Nat × Byte)) : List (Bool × Byte) :=
  (List.range m).map fun o =>
    match l.find? fun x => x.1 == base + o with
    | some x => (true, x.2)
    | none => (false, 0)

/-- Writes units of a scattered store one by one: global lines, on-chip words. -/
def writeUnits (c space : Nat) (own : Bool) (m : Nat) : List (Nat × List (Nat × Byte)) → Dev → EAcc Unit
  | [], d => .ok d ()
  | (u, l) :: r, d =>
    let w := if space = 4 then gWriteSel d c own (u * m) (unitBytes m (u * m) l) else eWriteSel d c space (u * m) (unitBytes m (u * m) l)
    match w with
    | .ok d1 _ => writeUnits c space own m r d1
    | .wait d1 => .wait d1
    | .fault d1 cause va => .fault d1 cause va

/-! ## The context's own scratchpad, as instructions and engines read records there (R121) -/

/-- Bytes of SPACE 0 as a number. -/
def rdSpad (d : Dev) (c a n : Nat) : Nat := ofBytes (rdPlaces d (placeOf d c 0 a) n)

/-- Writes whole words of SPACE 0 of a context. -/
def wrSpad (d : Dev) (c a : Nat) (bs : List Byte) : Dev :=
  match storeOnChip d c 0 a (allBytes bs) with
  | .ok d1 => d1
  | .error _ => d

/-- The first erroneous word of a record in SPACE 0. -/
def badRecord (d : Dev) (c a n : Nat) : Option Nat := (wordsOf a n).find? fun w => badWord d (placeOf d c 0 w)

/-- Checks of a record address: alignment and range whatever the guard, a soft error when selected (R121, R149). -/
def recordHits (E : Env) (a : Word) (align n : Nat) (sel : Bool) : List Hit :=
  let bad := if sel && !outOfSpace E.k 0 a.toNat n then badRecord E.d0 E.c a.toNat n else none
  E.fails
    [(!alignedTo align a.toNat, E.badAddr 0x08 a 1),
     (outOfSpace E.k 0 a.toNat n, E.badAddr 0x09 a 1),
     (bad.isSome, E.hit 9 { E.trap causeRemote with
        info0 := BitVec.ofNat 64 (bad.getD 0), info1 := E.tag false, va := BitVec.ofNat 64 (bad.getD 0), access := 1 })]

end Sys2Proof.Machine
end

