-- ==== Sys2Proof/Machine/Tiles.lean ====
section
/-! DEFINITION. The thunk table: descriptors, nodes, demand, the arena, and what forcing one panel computes (R193 to R202,
R238 to R258, R268 to R270). -/

namespace Sys2Proof.Machine

/-! ## Tensor-identifier descriptors (R195, R196) -/

abbrev TDesc := BitVec 256

def tdLoc (t : TDesc) : Nat := bits t 60 4
def tdAddr (t : TDesc) : Nat := if tdLoc t = 0 then bits t 0 48 else bits t 0 32
def tdEt (t : TDesc) : Nat := bits t 64 4
def tdKdim (t : TDesc) : Bool := t.getLsbD 68
def tdTiled (t : TDesc) : Bool := t.getLsbD 69
def tdRot (t : TDesc) : Nat := bits t 72 3
/-- Elements of a scale block, 0 without block scales. -/
def tdBlock (t : TDesc) : Nat :=
  match bits t 75 2 with
  | 1 => 16
  | 2 => 32
  | _ => 0
def tdCb (t : TDesc) : Nat := bits t 80 2
def tdRowPitch (t : TDesc) : Nat := bits t 96 32
def tdTilePitch (t : TDesc) : Nat := bits t 128 32
def tdRows (t : TDesc) : Nat := bits t 160 16
def tdCols (t : TDesc) : Nat := bits t 176 16
def tdScaleAddr (t : TDesc) : Nat := bits t 192 48

/-- The tensor scale as an f32, 0 standing for 1.0 (R195): a bf16 beside block scales. -/
def tdScale (t : TDesc) : BitVec 32 :=
  if tdBlock t = 0 then BitVec.ofNat 32 (bits t 192 32) else BitVec.ofNat 32 (bits t 240 16 * 2 ^ 16)

/-- Space code of a LOC (R60, R195). -/
def tdSpace (t : TDesc) : Nat :=
  match tdLoc t with
  | 0 => 4
  | 8 => 0
  | 0xA => 2
  | _ => 3

/-- Tile types by element-type code (R64, R238). -/
def tileType (code : Nat) : Option ET :=
  match ET.ofCode code with
  | some .f32 => some .f32
  | some .bf16 => some .bf16
  | some .f16 => some .f16
  | some .e4m3 => some .e4m3
  | some .e5m2 => some .e5m2
  | some .e2m1 => some .e2m1
  | some .cb16 => some .cb16
  | _ => none

/-- Bits of an element of a tile, 2 for cb16 (R196, R251). -/
def tileBits (et : ET) : Nat := if et = .cb16 then 2 else et.width

/-- The element type that a descriptor's code names. -/
def tdType (t : TDesc) : ET := (ET.ofCode (tdEt t)).getD .f32

/-- Offset of row `i` of tile (R, C) from the base (R196). -/
def rowOffset (t : TDesc) (R C i : Nat) : Nat :=
  let b := tileBits (tdType t)
  if tdTiled t then R * tdRowPitch t + C * tdTilePitch t + 64 * i * b / 8
  else (64 * R + i) * tdRowPitch t + 64 * C * b / 8

/-- Offset after bank rotation (R153). -/
def rotOffset (code o : Nat) : Nat :=
  let u := o / 256
  let step := if code = 0 then 0 else 2 ^ (code - 1)
  256 * u + 4 * ((o % 256 / 4 + u * step) % 64) + o % 4

/-- Where a byte of the image lies in its space. -/
def imageAddr (t : TDesc) (o : Nat) : Nat :=
  tdAddr t + (if tdLoc t = 0 then o else rotOffset (tdRot t) o)

/-- Offset of the scale byte of element (r, c) of the tensor from the scale address (R196). -/
def scaleOffset (t : TDesc) (r c : Nat) : Nat :=
  let B := tdBlock t
  if tdKdim t then c * (64 * tdRows t / B) + r / B else r * (64 * tdCols t / B) + c / B

/-- Addresses of the 4-byte words of row `i` of a tile, in order. -/
def rowWords (t : TDesc) (R C i : Nat) : List Nat :=
  (List.range (2 * tileBits (tdType t))).map fun w => imageAddr t (rowOffset t R C i + 4 * w)

/-- Scale addresses of row `i` of a tile, by column. -/
def rowScales (t : TDesc) (R C i : Nat) : List Nat :=
  if tdBlock t = 0 then [] else (List.range 64).map fun j => tdScaleAddr t + scaleOffset t (64 * R + i) (64 * C + j)

def minL : List Nat → Nat
  | [] => 0
  | x :: r => r.foldl Nat.min x
def maxL (l : List Nat) : Nat := l.foldl Nat.max 0

/-- Source ranges of a panel as places, first and last byte: its rows and its block scales (R255). -/
def panelRanges (d : Dev) (c : Nat) (t : TDesc) (R C p : Nat) : List (Nat × Nat) :=
  let ws := (List.range 8).flatMap fun i => rowWords t R C (8 * p + i)
  let ss := (List.range 8).flatMap fun i => rowScales t R C (8 * p + i)
  let at0 (a : Nat) := placeOf d c (tdSpace t) a
  (at0 (minL ws), at0 (maxL ws + 3)) :: (if ss.isEmpty then [] else [(at0 (minL ss), at0 (maxL ss))])

/-! ## Nodes (R240 to R246) -/

def pendingAll : List PState := List.replicate 8 .pending

def Node.st (n : Node) (p : Nat) : PState := at_ n.ps p

def NOp.isSink : NOp → Bool
  | contrib .. | store .. => true
  | _ => false

def NOp.isContrib : NOp → Bool
  | contrib .. => true
  | _ => false

def NOp.isSource : NOp → Bool
  | tld .. | close .. => true
  | _ => false

def NOp.isPure (o : NOp) : Bool := !o.isSink && !o.isSource

/-- Neither block scales nor a tensor scale other than 1.0 (R238). -/
def Node.unscaled (n : Node) : Bool := n.sblk == 0 && (n.tscale == 0#32 || n.tscale == 0x3F800000#32)

/-- A node of which some panel is pending or forcing. -/
def Node.unfinished (n : Node) : Bool := n.ps.any fun s => s == .pending

/-- Panels that can still be forced: pending ones, and none of a faulted node (R256; log entry 83). -/
def Node.pendingMask (n : Node) : BitVec 8 :=
  if n.faults.isEmpty then
    (List.range 8).foldl (fun m p => if n.st p = .pending then m ||| BitVec.ofNat 8 (2 ^ p) else m) 0#8
  else 0#8

/-- Nodes that a node refers to: its operands, and of a store the nodes it has forced. -/
def Node.operands (n : Node) : List Nat := n.a.toList ++ n.b.toList ++ n.waits.map Prod.fst

/-- Panels whose rows hold source rows of output panel `p` under a map (R245, R246). -/
def mapPanels (m : Word) (p : Nat) : BitVec 8 :=
  let shi := bits m 24 6
  let slo := bits m 16 6
  let ro := bits m 0 6
  let rows := ((List.range 8).map fun i => 8 * p + i).filter fun i => decide (slo ≤ i) && decide (i ≤ shi)
  let src := (rows.map fun i => (if m.getLsbD 8 then 0 else if m.getLsbD 6 then 63 - i else i) + ro)
  if m.getLsbD 7 then (if rows.isEmpty then 0#8 else 0xFF#8)
  else (src.filter fun r => decide (r ≤ 63)).foldl (fun acc r => acc ||| BitVec.ofNat 8 (2 ^ (r / 8))) 0#8

/-- Panels that panel `p` needs: of its operands (R246), and of a store those that its rows overwrite (R255). -/
def Node.needs (n : Node) (p : Nat) : List (Nat × BitVec 8) :=
  let m : BitVec 8 :=
    match n.op with
    | .tmap map => mapPanels map p
    | .contrib .. => 0xFF#8
    | _ => BitVec.ofNat 8 (2 ^ p)
  (match n.a with | some a => [(a, m)] | none => []) ++ (match n.b with | some b => [(b, m)] | none => []) ++ n.waits

/-- The nodes in order of append. -/
def insertSeq (x : Nat × Node) : List (Nat × Node) → List (Nat × Node)
  | [] => [x]
  | y :: r => if x.2.seq < y.2.seq then x :: y :: r else y :: insertSeq x r

def sortSeq (l : List (Nat × Node)) : List (Nat × Node) := l.foldr insertSeq []

def Ctx.node (k : Ctx) (n : Nat) : Node := k.nodes.get n
def Ctx.updNode (k : Ctx) (n : Nat) (f : Node → Node) : Ctx := { k with nodes := k.nodes.update n f }
def Ctx.inOrder (k : Ctx) : List (Nat × Node) := sortSeq k.nodes

/-- A node holds its references on its operands (R242, R252). -/
def Node.holds (n : Node) : Bool := n.unfinished || n.evicted != 0#8

/-- An entry of the collective tile table holds its source node until its firing completes (R294). -/
def Ctt.holds (e : Ctt) (n : Nat) : Bool := e.state != 0 && e.src == .node n

/-- Where the demands in force of a context start. -/
def Ctx.starts (k : Ctx) : List (Nat × BitVec 8) := (k.demands.map fun q => (q.node, q.mask)) ++ k.holds

/-- References on a node from tile names, from nodes, from collective entries and from demands (R242, R294). -/
def Ctx.refs (k : Ctx) (n : Nat) : Nat :=
  (k.names.filter fun x => x.2 == some n).length +
    (k.nodes.filter fun x => x.2.holds && x.2.operands.contains n).length +
    (k.ctt.filter fun x => x.2.holds n).length + (k.starts.filter fun x => x.1 == n).length

/-- A node that can go: it has no references, and no sink goes that has work to do (R242). -/
def Ctx.free? (k : Ctx) (x : Nat × Node) : Bool := !(x.2.op.isSink && x.2.unfinished) && k.refs x.1 == 0

/-- A node whose operand `i` has gone. -/
def Node.without (i : Nat) (n : Node) : Node :=
  { n with a := if n.a = some i then none else n.a, b := if n.b = some i then none else n.b
           waits := n.waits.filter fun x => x.1 != i }

/-- Discards and reclaims nodes, newest first, so that the references they hold go with them (R242). -/
def sweepList : List (Nat × Node) → Ctx → Ctx
  | [], k => k
  | x :: r, k =>
    sweepList r (if k.free? x then
      { k with nodes := SMap.set (k.nodes.map fun y => (y.1, y.2.without x.1)) x.1 default } else k)

/-- Ends the demands without a report that have nothing left to force, then discards and reclaims nodes. -/
def sweep (k : Ctx) : Ctx :=
  let k1 := { k with holds := k.holds.filter fun x => (k.node x.1).pendingMask &&& x.2 != 0#8 }
  sweepList k1.inOrder.reverse k1

/-! ## Demand (R246, R247, R252, R253) -/

/-- Panels of a node that a demand for `m` computes: those it can force, or done and given up. -/
def Node.active (n : Node) (m : BitVec 8) : List Nat :=
  (List.range 8).filter fun p => m.getLsbD p && (n.pendingMask.getLsbD p || (n.st p == .done && n.evicted.getLsbD p))

/-- A demand on a close node reaches all of it (R281). -/
def Node.widen (n : Node) (m : BitVec 8) : BitVec 8 :=
  match n.op with
  | .close .. => if m = 0#8 then 0#8 else 0xFF#8
  | _ => m

def orMask (s : SMap (BitVec 8)) (l : List (Nat × BitVec 8)) : SMap (BitVec 8) :=
  l.foldl (fun s x => SMap.update s x.1 fun m => m ||| x.2) s

def closeOver : List (Nat × Node) → SMap (BitVec 8) → SMap (BitVec 8)
  | [], s => s
  | (i, n) :: r, s =>
    let m := n.widen (s.get i)
    closeOver r (orMask (SMap.set s i m) ((n.active m).flatMap n.needs))

/-- Every panel that demands reach, by node (R246). -/
def Ctx.closure (k : Ctx) (starts : List (Nat × BitVec 8)) : SMap (BitVec 8) :=
  closeOver k.inOrder.reverse (orMask [] starts)

/-! ### Links as demand meets them (R271, R274, R278, R282) -/

/-- The chain a handle names, while it is live (R272). -/
def chainKey (h : Word) : Nat := bits h 12 6 * 4096 + bits h 0 12
def liveChain (d : Dev) (h : Word) : Option Chain :=
  let x := d.chains.get (chainKey h)
  if bits h 32 32 = 0 && bits h 18 14 != 0 && x.live && x.gen == bits h 18 14 then some x else none

def slotKey (core slot : Nat) : Nat := core * 8 + slot
def Dev.slot (d : Dev) (key : Nat) : Slot := d.slots.get key
def Dev.updSlot (d : Dev) (key : Nat) (f : Slot → Slot) : Dev := { d with slots := d.slots.update key f }
def Dev.updChain (d : Dev) (key : Nat) (f : Chain → Chain) : Dev := { d with chains := d.chains.update key f }
def Chain.link (x : Chain) (pos : Nat) : Link := at_ x.links pos
def linkSlot (l : Link) : Nat := slotKey l.core l.slot

/-- The slot of a link, while one is bound there. -/
def boundSlot (d : Dev) (x : Chain) (h : Word) (pos : Nat) : Option Slot :=
  let l := x.link pos
  let s := d.slot (linkSlot l)
  if l.hasSlot && s.handle == h && s.pos == pos && s.state != .free then some s else none

/-- Freezes a chain with a link as freeze site (R285); the first cause of a link stands, but for that of a count overflow,
which gives way to a cause that keeps the chain from resuming (R290). -/
def freezeAt (d : Dev) (h : Word) (pos cause : Nat) (overflow : Bool) : Dev :=
  match liveChain d h with
  | none => d
  | some x =>
    let l := x.link pos
    let soft := !overflow && (boundSlot d x h pos).any fun s => s.state == .frozen && s.overflow
    let d1 := d.updChain (chainKey h) fun x =>
      { x with frozen := true
               links := setAt x.links pos { l with cause := if l.cause = 0 || soft then cause else l.cause } }
    match boundSlot d x h pos with
    | none => d1
    | some s =>
      if s.state = .frozen then
        if soft then d1.updSlot (linkSlot l) fun s => { s with cause := cause, overflow := false } else d1
      else d1.updSlot (linkSlot l) fun s => { s with prev := s.state, state := .frozen, cause := cause, overflow := overflow }

/-- A demand reaches a link and what lies upstream of it (R282); at each link it is held until its owner takes it up
(R250), with the highest priority of its demanders. -/
def demandLinks (h : Word) (prio : Nat) : Nat → Dev → Dev
  | n, d =>
    match liveChain d h with
    | none => d
    | some x =>
      if x.frozen then d
      else
        let l := x.link n
        let d1 := d.updChain (chainKey h) fun x =>
          { x with links := setAt x.links n { l with demanded := true, prio := Nat.max l.prio prio } }
        let d2 :=
          match boundSlot d x h n with
          | some s => if s.demanded then d1 else d1.updSlot (linkSlot (x.link n)) fun s => { s with demanded := true, held := true }
          | none => d1
        let got := match boundSlot d x h n with
          | some s => s.inboxGot
          | none => false
        match n with
        | 0 => d2
        | m + 1 => if got then d2 else demandLinks h prio m d2

/-- Demands in force that report to no bundle that has issued (R250, R253). -/
def Ctx.hold (k : Ctx) (l : List (Nat × BitVec 8)) : Ctx := { k with holds := k.holds ++ l.filter fun x => !k.holds.contains x }

/-! ### The arena (R251 to R253) -/

/-- Units of 256 bytes that a panel occupies (R251). -/
def Node.units (n : Node) : Nat :=
  if n.op.isSink then 0
  else
    let s := if n.sblk = 0 then 0 else if n.kdim then 64 else 8 * (64 / n.sblk)
    (64 * tileBits n.ety + s + 255) / 256

/-- Units held by done panels and reserved for those that a demand set computes. -/
def Ctx.arenaUse (k : Ctx) (need : SMap (BitVec 8)) : Nat :=
  (k.nodes.map fun (i, n) =>
    ((List.range 8).filter fun p =>
      (n.st p == .done && !n.evicted.getLsbD p) || ((need.get i).getLsbD p && (n.active (need.get i)).contains p)).length *
      n.units).sum

/-- Panels that can be given up: done, of a pure node whose operands are still there, and not in use (R252). -/
def Ctx.evictable (k : Ctx) (need : SMap (BitVec 8)) : List (Nat × Nat) :=
  k.inOrder.flatMap fun (i, n) =>
    let binary := match n.op with
      | .tew .. => true
      | _ => false
    if n.op.isPure && n.a.isSome && (n.b.isSome || !binary) then
      ((List.range 8).filter fun p => n.st p == .done && !n.evicted.getLsbD p && !(need.get i).getLsbD p).map fun p => (i, p)
    else []

def evictUntil (need : SMap (BitVec 8)) (cap : Nat) : List (Nat × Nat) → Ctx → Option Ctx
  | [], k => if k.arenaUse need ≤ cap then some k else none
  | (i, p) :: r, k =>
    if k.arenaUse need ≤ cap then some k
    else evictUntil need cap r (k.updNode i fun n => { n with evicted := n.evicted ||| BitVec.ofNat 8 (2 ^ p) })

/-- Reserves arena units for what `starts` newly demand, beside the demands in force; none when it does not fit (R253). -/
def reserve (d : Dev) (c : Nat) (starts : List (Nat × BitVec 8)) : Option Dev :=
  let k := sweep (d.ctx c)
  let need := k.closure (k.starts ++ starts)
  match evictUntil need (k.allot.arLen / 256) (k.evictable need) k with
  | some k1 => some (d.setCtx c k1)
  | none => if (k.closure starts).all fun x => ((k.node x.1).active x.2).isEmpty then some (d.setCtx c k) else none

/-! ## Values (R193, R196 to R198, R248) -/

/-- Element (i, j) of a node's done panels, as bits; a cb16 index for its eight columns. -/
def Node.at (n : Node) (i j : Nat) : Nat := if n.ety = .cb16 then n.data.get (8 * i + j / 8) else n.data.get (64 * i + j)

/-- The codebook table of a core that a tile names, as a map by entry (R194). -/
def tableOf (d : Dev) (c : Nat) (n : Node) : SMap (BitVec 32) :=
  let base := cbKey (coreOf c) (at_ n.cbs 0) 0
  if n.ety = .cb16 then d.cbt.filterMap fun x => if base ≤ x.1 && x.1 < base + 256 then some (x.1 - base, x.2) else none else []

/-- The unscaled value of element (i, j) by a codebook table (R193). -/
def Node.val (tab : SMap (BitVec 32)) (n : Node) (i j : Nat) : FVal :=
  if n.ety = .cb16 then cbWeight (tab.get (n.at i j / 256)).toNat (n.at i j) (j % 8)
  else valueOf n.ety (n.at i j)

/-- The tensor scale (R195). -/
def Node.tensorScale (n : Node) : FVal := if n.tscale = 0#32 then .fin false 1 0 else valueOf .f32 n.tscale.toNat

/-- The block scale of element (i, j), 1.0 without block scales (R196). -/
def Node.blockScale (n : Node) (i j : Nat) : FVal :=
  if n.sblk = 0 then .fin false 1 0 else valueOf .e8m0 (n.scl.get (64 * i + j))

/-- Random bits of element (i, j) from the base the node recorded (R191). -/
def Node.random (n : Node) (i j : Nat) : Nat :=
  elem (randomWord n.key0 n.key1 (n.rngctr + BitVec.ofNat 64 (16 * i))) 32 j

/-- `vfmin` or `vfmax` of an element and the scalar y of `tews`, compared exactly (R261). -/
def tewsMinmax (et : ET) (mx : Bool) (a : Nat) (y : Nat) : Nat :=
  let u := valueOf et a
  let v := valueOf .f32 y
  let yBits := (convert .f32 et .rne false 0 y).1
  if u.isNan && v.isNan then canonNan et
  else if u.isNan then yBits
  else if v.isNan then a
  else if mx then (if ltX u v then yBits else a) else (if ltX v u then yBits else a)

/-- Value of an element-wise operation (R261); `b` is y for `tews`. -/
def tewElem (op : TewOp) (et : ET) (rm : RM) (r a b : Nat) : Nat :=
  match op with
  | .add => (addF et rm false r a b).1
  | .sub => (subF et rm false r a b).1
  | .mul => (mulF et rm false r a b).1
  | .min => (minmaxF et false a b).1
  | .max => (minmaxF et true a b).1

def tewsElem (op : TewsOp) (et : ET) (rm : RM) (r a y : Nat) : Nat :=
  let u := valueOf et a
  let v := valueOf .f32 y
  match op with
  | .add => (roundRes et rm false r (addX (rm == .rdn) u v)).1
  | .sub => (roundRes et rm false r (addX (rm == .rdn) u v.negate)).1
  | .rsub => (roundRes et rm false r (addX (rm == .rdn) v u.negate)).1
  | .mul => (roundRes et rm false r (mulX u v)).1
  | .min => tewsMinmax et false a y
  | .max => tewsMinmax et true a y

/-- A function of one element (R262): widened to f32, the f32 result converted RNE. -/
def tfnElem (op : TfnOp) (et : ET) (a : Nat) : Nat :=
  let wide := (convert et .f32 .rne false 0 a).1
  let back (x : Nat) : Nat := (convert .f32 et .rne false 0 x).1
  match op with
  | .abs => absE et a
  | .neg => negE et a
  | .relu => (minmaxF et true a 0).1
  | .exp2 => back (exp2F wide).1
  | .rcpa => back (rcpaF wide).1
  | .rsqa => back (rsqaF wide).1
  | .log2 => back (log2F wide).1

def dstEt : TileDst → ET
  | .f32 => .f32
  | .bf16 => .bf16
  | .f16 => .f16
  | .e4m3 => .e4m3
  | .e5m2 => .e5m2
  | .e2m1 => .e2m1

/-- Source element of a map, or none for +0 (R245). -/
def mapSource (m : Word) (i j : Nat) : Option (Nat × Nat) :=
  if i < bits m 16 6 || bits m 24 6 < i then none
  else
    let r0 := if m.getLsbD 6 then 63 - i else i
    let r := (if m.getLsbD 8 then 0 else r0) + bits m 0 6
    if 63 < r then none else if m.getLsbD 7 then some (j, r) else some (r, j)

/-- The value of a close node's element: out times SCALE, rounded once (R281). -/
def closeElem (x : Chain) (rm : RM) (r out : Nat) : Nat :=
  let s := if x.scale = 0#32 then FVal.fin false 1 0 else valueOf .f32 x.scale.toNat
  (roundRes (dstEt x.outET) rm x.sat r (mulX (valueOf .f32 out) s)).1

/-- Element (i, j) of a pure or close node from its operands and a codebook table. -/
def elemOf (tab : SMap (BitVec 32)) (n A B : Node) (tail : Slot) (x : Chain) (i j : Nat) : Nat :=
  match n.op with
  | .tew op rm => tewElem op n.ety rm (n.random i j) (A.at i j) (B.at i j)
  | .tews op rm y => tewsElem op n.ety rm (n.random i j) (A.at i j) y.toNat
  | .tfn op => tfnElem op n.ety (A.at i j)
  | .tmap m =>
    match mapSource m i j with
    | some (a, b) => A.at a b
    | none => 0
  | .tcvt dst rm sat =>
    (roundRes (dstEt dst) rm sat (n.random i j)
      (mulX (mulX (A.val tab i j) (A.blockScale i j)).1 A.tensorScale)).1
  | .close _ rm => closeElem x rm (n.random i j) (tail.acc.get (64 * i + j)).toNat
  | _ => 0

/-- The 64 by 8 element keys of a panel. -/
def panelKeys (p : Nat) : List (Nat × Nat) :=
  (List.range 8).flatMap fun i => (List.range 64).map fun j => (8 * p + i, j)

/-! ## Contributions (R200, R268, R269, R279) -/

/-- Effective group size: the least of G and the operands' block sizes (R269). -/
def effGroup (A B : Node) : Nat :=
  let g := groupG A.ety
  let g1 := if A.sblk = 0 then g else Nat.min g A.sblk
  if B.sblk = 0 then g1 else Nat.min g1 B.sblk

/-- Element (i, j) of S after a contribution (R268, R279). -/
def contribElem (d : Dev) (c : Nat) (A B : Node) (ta tb : Bool) (i j S : Nat) : Nat :=
  let G := effGroup A B
  let L := groupW A.ety - 2 - Nat.log2 G
  let tabA := tableOf d c A
  let tabB := tableOf d c B
  let av (k : Nat) : FVal := if ta then A.val tabA k i else A.val tabA i k
  let bv (k : Nat) : FVal := if tb then B.val tabB j k else B.val tabB k j
  let asc (k : Nat) : FVal := if ta then A.blockScale k i else A.blockScale i k
  let bsc (k : Nat) : FVal := if tb then B.blockScale j k else B.blockScale k j
  (List.range (64 / G)).foldl (fun S g =>
    let ks := (List.range G).map fun t => g * G + t
    let sc := (mulX (mulX (asc (g * G)) A.tensorScale).1 (mulX (bsc (g * G)) B.tensorScale).1).1
    (groupAdd L (ks.map fun k => (av k, bv k)) sc S).1) S

/-- S after a contribution. -/
def contribAcc (d : Dev) (c : Nat) (A B : Node) (ta tb : Bool) (acc : SMap (BitVec 32)) : SMap (BitVec 32) :=
  ((List.range 64).flatMap fun i => (List.range 64).map fun j => (i, j)).foldl (fun m (i, j) =>
    SMap.set m (64 * i + j) (BitVec.ofNat 32 (contribElem d c A B ta tb i j (SMap.get acc (64 * i + j)).toNat))) acc

/-- A link becomes READY when S is complete and its inbox is there, or it is the head (R278). -/
def slotReady (s : Slot) : Slot :=
  if s.state = .opened && s.done = s.count && (s.inboxGot || s.pos = 0) then { s with state := .ready } else s

/-! ## Forcing one panel (R248, R256) -/

/-- What forcing a panel comes to. -/
inductive Force where
  | done (d : Dev)
  | wait (d : Dev)

/-- Marks a panel of a node. -/
def setPanel (p : Nat) (s : PState) (n : Node) : Node :=
  { n with ps := setAt n.ps p s, evicted := n.evicted &&& ~~~(BitVec.ofNat 8 (2 ^ p)) }

def faultPanel (p : Nat) (f : NFault) (n : Node) : Node :=
  { setPanel p .faulted n with faults := n.faults ++ [(p, f)] }

/-- The faults that a demand for panels of a node meets: theirs, or, where it reaches a pending panel of a faulted node, which is
never forced, those of the node (R256; log entry 83). -/
def Node.faultsIn (n : Node) (m : BitVec 8) : List (Nat × NFault) :=
  let l := n.faults.filter fun f => m.getLsbD f.1
  if l.isEmpty && (List.range 8).any fun p => m.getLsbD p && n.st p == .pending then n.faults else l

/-- The first fault among operand panels that are needed. -/
def operandFault (k : Ctx) (l : List (Nat × BitVec 8)) : Option NFault :=
  l.findSome? fun (o, m) => ((k.node o).faultsIn m).head?.map Prod.snd

/-- Every needed operand panel is done. -/
def operandsDone (k : Ctx) (l : List (Nat × BitVec 8)) : Bool :=
  l.all fun (o, m) => (List.range 8).all fun p => !m.getLsbD p || (k.node o).st p == .done

/-- Accesses up to a tag have performed (R119, R327). -/
def Ctx.performedTo (k : Ctx) (tag : Nat) : Bool := k.gq.all fun a => decide (tag < a.tag)

/-- Reads the words of a row, then its scales: bytes in order. -/
def readWords (c space : Nat) (n : Nat) : List Nat → Dev → List Byte → EAcc (List Byte)
  | [], d, acc => .ok d acc
  | a :: r, d, acc =>
    match eRead d c space a n with
    | .ok d1 bs => readWords c space n r d1 (acc ++ bs)
    | .wait d1 => .wait d1
    | .fault d1 cause va => .fault d1 cause va

/-- Reads row `i` of a tile: global rows by span, on-chip rows by word. -/
def readRow (d : Dev) (c : Nat) (t : TDesc) (R C i : Nat) : EAcc (List Byte) :=
  if tdLoc t = 0 then gRead d c false (imageAddr t (rowOffset t R C i)) (8 * tileBits (tdType t))
  else readWords c (tdSpace t) 4 (rowWords t R C i) d []

/-- Reads a panel of a tile: rows as numbers, and scale bytes by row. -/
def readPanelRows (c : Nat) (t : TDesc) (R C : Nat) : List Nat → Dev → List (Nat × Nat × List Byte) →
    EAcc (List (Nat × Nat × List Byte))
  | [], d, acc => .ok d acc
  | i :: r, d, acc =>
    match readRow d c t R C i with
    | .wait d1 => .wait d1
    | .fault d1 cause va => .fault d1 cause va
    | .ok d1 bs =>
      match readWords c (tdSpace t) 1 (rowScales t R C i) d1 [] with
      | .wait d2 => .wait d2
      | .fault d2 cause va => .fault d2 cause va
      | .ok d2 sc => readPanelRows c t R C r d2 (acc ++ [(i, ofBytes bs, sc)])

def readPanel (d : Dev) (c : Nat) (t : TDesc) (R C p : Nat) : EAcc (List (Nat × Nat × List Byte)) :=
  readPanelRows c t R C ((List.range 8).map fun i => 8 * p + i) d []

/-- Puts the rows read into a node. -/
def putRows (et : ET) (rows : List (Nat × Nat × List Byte)) (n : Node) : Node :=
  rows.foldl (fun n (i, x, sc) =>
    let cols := if et = .cb16 then 8 else 64
    let w := if et = .cb16 then 16 else et.width
    let n1 := (List.range cols).foldl (fun (n : Node) j =>
      { n with data := n.data.set ((if et = .cb16 then 8 else 64) * i + j) (nbits x (w * j) w) }) n
    ((List.range sc.length).zip sc).foldl (fun (n : Node) (j, b) => { n with scl := n.scl.set (64 * i + j) b.toNat }) n1) n

/-- The record of a page fault that suspends an engine operation or a node access (R83, R378, R403); `q` is the queue, `info0` and
`info1` what UTINFO0 and UTINFO1 would have held. -/
def engineRecord (d : Dev) (c q access : Nat) (va pc info0 info1 : Word) : Dev :=
  let k := d.ctx c
  addRecord d (pkgOf c)
    { cause := causePage, kind := 1, access := access + (if k.priv then 8 else 0), source := q, ctx := c % 2 ^ 19
      job := k.task.job, va := va, pc := pc, count := k.bclk, info0 := info0, info1 := info1 }

/-- Ranges of places that a store writes, row by row. -/
def storeRanges (d : Dev) (c : Nat) (t : TDesc) (R C : Nat) (mask : BitVec 8) : List (Nat × Nat) :=
  ((List.range 64).filter fun i => mask.getLsbD (i / 8)).map fun i =>
    let ws := (rowWords t R C i).map (placeOf d c (tdSpace t))
    (minL ws, maxL ws + 3)

def rangesMeet (x y : List (Nat × Nat)) : Bool := x.any fun a => y.any fun b => decide (a.1 ≤ b.2) && decide (b.1 ≤ a.2)

/-- Unfinished on-chip stores whose rows meet a range. -/
def storesMeeting (d : Dev) (c : Nat) (ranges : List (Nat × Nat)) : List Nat :=
  (d.ctx c).nodes.filterMap fun (i, n) =>
    match n.op with
    | .store t R C mask =>
      if tdLoc t ≠ 0 && n.unfinished && rangesMeet (storeRanges d c t R C mask) ranges then some i else none
    | _ => none

/-- An on-chip store of an earlier append that is not written yet meets a range (R155, R265). -/
def storeAhead (d : Dev) (c seq : Nat) (ranges : List (Nat × Nat)) : Bool :=
  (storesMeeting d c ranges).any fun j => decide (((d.ctx c).node j).seq < seq)

/-- Records the requests of a node's next transfer that a bucket has let through. -/
def keepNode (i : Nat) (p : Paid) (k : Ctx) : Ctx := k.updNode i fun n => { n with paid := p }

/-- Forces one panel of a `tld` (R248, R256, R260, R327). -/
def forceTld (d : Dev) (c i p : Nat) (n : Node) (t : TDesc) (R C : Nat) : Force :=
  if tdLoc t = 0 && !(d.ctx c).performedTo n.gtag then .wait d
  else if storeAhead d c n.seq (panelRanges d c t R C p) then .wait d
  else
    match engineTransfer d c n.win n.paid (keepNode i) fun e => readPanel e c t R C p with
    | .ok d1 rows => .done (d1.updCtx c fun k => k.updNode i fun n => setPanel p .done (putRows n.ety rows n))
    | .wait d1 => .wait d1
    | .fault d1 cause va =>
      if cause = causePage then
        .wait ((engineRecord d1 c 2 1 va n.pc va 0).updCtx c fun k => k.updNode i fun n => { n with susp := true })
      else
        .done (d1.updCtx c fun k => k.updNode i fun n => faultPanel p { inner := cause, va := va, pc := n.pc, bclk := n.bclk } n)

/-- Adds a contribution into its link's S, once every earlier one is there (R279); a faulted operand freezes the chain
(R285). -/
def forceContrib (d : Dev) (c i : Nat) (n : Node) (h : Word) (pos ord : Nat) (ta tb : Bool) : Force :=
  let k := d.ctx c
  let needs := n.needs 0
  match liveChain d h with
  | none => .done (d.updCtx c fun k => k.updNode i fun n => setPanel 0 .done n)
  | some x =>
    match boundSlot d x h pos with
    | none => .wait d
    | some s =>
      match operandFault k needs with
      | some _ => .done ((freezeAt d h pos 0x10 false).updCtx c fun k => k.updNode i fun n => setPanel 0 .done n)
      | none =>
        if x.frozen then .wait d
        else
          if s.done ≠ ord || !operandsDone k needs then .wait d
          else if s.badS then .wait (freezeAt d h pos 0x1A false)
          else
            match n.a, n.b with
            | some a, some b =>
              let d1 := d.updSlot (linkSlot (x.link pos)) fun s =>
                slotReady { s with acc := contribAcc d c (k.node a) (k.node b) ta tb s.acc, done := s.done + 1 }
              .done (d1.updCtx c fun k => k.updNode i fun n => setPanel 0 .done n)
            | _, _ => .wait d

/-- Forces one panel of a close node once the tail has its total (R281). -/
def forceClose (d : Dev) (c i p : Nat) (n : Node) (h : Word) : Force :=
  match liveChain d h with
  | none => .wait d
  | some x =>
    if x.frozen then .wait d
    else
      let pos := x.links.length - 1
      match boundSlot d x h pos with
      | none => .wait (demandLinks h (d.ctx c).task.prio pos d)
      | some s =>
        if s.state = .advanced || s.state = .closed then
          let vals := (panelKeys p).map fun (i, j) => (64 * i + j, elemOf [] n default default s x i j)
          let d1 := d.updCtx c fun k => k.updNode i fun n =>
            setPanel p .done { n with data := vals.foldl (fun m v => SMap.set m v.1 v.2) n.data }
          .done (if ((d1.ctx c).node i).unfinished then d1
            else d1.updChain (chainKey h) fun x => { x with filled := some n.gtag })
        else .wait (demandLinks h (d.ctx c).task.prio pos d)

/-- Forces one panel of a pure node once its operand panels are done (R248); its panels read one codebook table (R194). -/
def forcePure (d : Dev) (c i p : Nat) (n : Node) : Force :=
  let k := d.ctx c
  match operandFault k (n.needs p) with
  | some f => .done (d.updCtx c fun k => k.updNode i fun n => faultPanel p f n)
  | none =>
    if !operandsDone k (n.needs p) then .wait d
    else
      let A := k.node (n.a.getD 0)
      let B := k.node (n.b.getD 0)
      let tab := n.table.getD (tableOf d c A)
      let vals := (panelKeys p).map fun (i, j) => (64 * i + j, elemOf tab n A B default default i j)
      .done (d.updCtx c fun k => k.updNode i fun n =>
        setPanel p .done { n with data := vals.foldl (fun m v => SMap.set m v.1 v.2) n.data, table := some tab })

/-! ### Stores (R265) -/

/-- Elements of a row as the number its bytes make; of a cb16 tile its eight indices (R134, R196). -/
def rowNumber (n : Node) (i : Nat) : Nat :=
  if n.ety = .cb16 then packN 16 ((List.range 8).map fun g => n.at i (8 * g))
  else packN n.ety.width ((List.range 64).map fun j => n.at i j)

/-- Bytes that a store writes, in row order: address in the space, and byte. -/
def storeBytes (A : Node) (t : TDesc) (R C : Nat) (mask : BitVec 8) : List (Nat × Byte) :=
  ((List.range 64).filter fun i => mask.getLsbD (i / 8)).flatMap fun i =>
    let bs := bytesOf (8 * tileBits (tdType t)) (rowNumber A i)
    ((List.range bs.length).zip bs).map fun (o, b) => (imageAddr t (rowOffset t R C i + o), b)

def scatterWrite (d : Dev) (c space : Nat) (l : List (Nat × Byte)) : EAcc Unit :=
  let m := if space = 4 then 128 else 4
  writeUnits c space false m (groupBy m l) d

/-- Whether a pin holds back a write of any line of a list of global addresses; the refusal starts the clock (R105). -/
def pinsAhead (d : Dev) (c : Nat) (space : Nat) (as : List Nat) : Option Dev :=
  if space ≠ 4 then none
  else
    as.findSome? fun a =>
      match translate d c (BitVec.ofNat 64 a) .write with
      | .ok pa _ =>
        match passPins d (pa / 128) (holderOf c) false with
        | (d1, false) => some d1
        | _ => none
      | .fault _ => none

/-! ## Alias forcing (R255) -/

/-- `tld` panels that can still be forced and whose source range meets a range written. -/
def aliasStarts (d : Dev) (c : Nat) (ranges : List (Nat × Nat)) : List (Nat × BitVec 8) :=
  (d.ctx c).nodes.filterMap fun (i, n) =>
    match n.op with
    | .tld t R C =>
      let m : BitVec 8 := (List.range 8).foldl (fun m p =>
        if n.pendingMask.getLsbD p && rangesMeet (panelRanges d c t R C p) ranges then m ||| BitVec.ofNat 8 (2 ^ p) else m) 0#8
      if m = 0#8 then none else some (i, m)
    | _ => none

/-- Counts the nodes of an alias forcing once each (R255). -/
def countAliases (k : Ctx) (l : List (Nat × BitVec 8)) : Ctx :=
  let new := (l.map Prod.fst).filter fun i => !k.aliased.contains i
  { k.setSpr Spr.aliascnt (k.spr' Spr.aliascnt + BitVec.ofNat 64 new.length) with aliased := k.aliased ++ new }

/-! ## Forcing in order -/

/-- Forces one panel of a node, but for a store. -/
def forcePanel (d : Dev) (c i p : Nat) : Force :=
  let n := (d.ctx c).node i
  if n.susp then .wait d
  else
    match n.op with
    | .tld t R C => forceTld d c i p n t R C
    | .contrib h pos ord ta tb => forceContrib d c i n h pos ord ta tb
    | .close h _ => forceClose d c i p n h
    | .store .. => .wait d
    | _ => forcePure d c i p n

/-- An evicted panel that is needed again takes its units back; its value is the same (R252). -/
def restorePanels (k : Ctx) (need : SMap (BitVec 8)) : Ctx :=
  need.foldl (fun k (i, m) => if (k.node i).evicted &&& m = 0#8 then k
    else k.updNode i fun n => { n with evicted := n.evicted &&& ~~~m }) k

def forcePanels (c i : Nat) : List Nat → Dev → Dev
  | [], d => d
  | p :: r, d =>
    match forcePanel d c i p with
    | .done d1 => forcePanels c i r d1
    | .wait d1 => forcePanels c i r d1

def forceNodes (c : Nat) (need : SMap (BitVec 8)) : List (Nat × Node) → Dev → Dev
  | [], d => d
  | (i, n) :: r, d =>
    forceNodes c need r (forcePanels c i ((List.range 8).filter fun p => (need.get i).getLsbD p && n.pendingMask.getLsbD p) d)

/-- The panels of a context's nodes in one list of demands, with their present state. -/
def panelsWhere (k : Ctx) (s : PState) (l : List (Nat × BitVec 8)) : List (Nat × Nat) :=
  l.flatMap fun (i, m) => ((List.range 8).filter fun p => m.getLsbD p && (k.node i).st p == s).map fun p => (i, p)

/-- Demands of a list that meet a fault (R257). -/
def faultedIn (k : Ctx) (l : List (Nat × BitVec 8)) : List (Nat × BitVec 8) := l.filter fun x => !((k.node x.1).faultsIn x.2).isEmpty

/-- NODE_FAULT of a demand (R258); `mask` is that of the panels demanded of the node. -/
def nodeFault (k : Ctx) (i : Nat) (mask : BitVec 8) (demPc : Word) (opc slot : Nat) (imp : Bool) : TrapRec :=
  let n := k.node i
  let fl := n.faultsIn mask
  let f := (fl.head?.map Prod.snd).getD { inner := 0, va := 0, pc := 0, bclk := 0 }
  let m : BitVec 8 := fl.foldl (fun m x => m ||| BitVec.ofNat 8 (2 ^ x.1)) 0#8
  { (default : TrapRec) with
    cause := 0x10, info0 := BitVec.ofNat 64 (f.inner % 256)
    info1 := BitVec.ofNat 64 (opc + (if imp then 256 else 0) + slot * 512 + m.toNat * 2 ^ 16)
    info2 := f.va, info3 := demPc, imp := imp, slot := slot, opc := opc, nodePc := f.pc, nodeBclk := f.bclk }

/-- The lowest-positioned freeze site of a chain: position and cause (R286). -/
def freezeSite (d : Dev) (h : Word) (x : Chain) : Nat × Nat :=
  match (List.range x.links.length).find? fun p =>
      (match boundSlot d x h p with | some s => s.state == .frozen | none => (x.link p).cause != 0) with
  | some p => (p, match boundSlot d x h p with | some s => s.cause | none => (x.link p).cause)
  | none => (0, 0)

/-- CHAIN_FROZEN of a demand (R286). -/
def chainFrozen (d : Dev) (h : Word) (x : Chain) (demPc : Word) (opc slot : Nat) (imp : Bool) : TrapRec :=
  let (p, cause) := freezeSite d h x
  { (default : TrapRec) with
    cause := 0x12, info0 := BitVec.ofNat 64 (cause % 256 + p * 256)
    info1 := BitVec.ofNat 64 (opc + (if imp then 256 else 0) + slot * 512)
    info2 := h, info3 := demPc, imp := imp, slot := slot, opc := opc }

/-- A pending close node of a frozen chain among the panels demanded (R286). -/
def frozenClose (d : Dev) (k : Ctx) (need : SMap (BitVec 8)) : Option (Word × Chain) :=
  need.findSome? fun (i, m) =>
    let n := k.node i
    match n.op with
    | .close h _ =>
      if m ≠ 0#8 && n.unfinished then
        match liveChain d h with
        | some x => if x.frozen then some (h, x) else none
        | none => none
      else none
    | _ => none

/-- Ends the demands without a report that meet the close of a frozen chain: it stays pending (R286). -/
def dropFrozen (d : Dev) (c : Nat) : Dev :=
  d.updCtx c fun k => { k with holds := k.holds.filter fun x =>
    (k.node x.1).op.isContrib || (frozenClose d k (k.closure [x])).isNone }

/-- What a demand that stalls its bundle comes to (R247, R257). -/
inductive Forced where
  | ok (d : Dev)
  | wait (d : Dev)
  | trap (d : Dev) (r : TrapRec)

/-- THUNK_OVERFLOW with a reason (R253, R254). -/
def Env.thunkOverflow (E : Env) (reason : Nat) : TrapRec :=
  { E.trap 0x11 with info0 := BitVec.ofNat 64 reason, info1 := 0 }

/-- Demands panels and forces them as far as they go; the bundle waits for the rest, and its reservation holds (R247, R253, R257,
R286). -/
def forceNow (E : Env) (d : Dev) (starts : List (Nat × BitVec 8)) : Forced :=
  if starts.isEmpty then .ok d
  else
    match reserve d E.c starts with
    | none => .trap d (E.thunkOverflow 2)
    | some d0 =>
      let k0 := d0.ctx E.c
      let need := k0.closure starts
      let d1 := forceNodes E.c need k0.inOrder (d0.updCtx E.c fun k => restorePanels k need)
      let k := d1.ctx E.c
      match (faultedIn k starts).head? with
      | some (i, m) => .trap d1 { nodeFault k i m E.addr E.opc E.slot false with utpc := E.addr }
      | none =>
        if (panelsWhere k .pending starts).isEmpty then .ok d1
        else
          match frozenClose d1 k need with
          | some (h, x) => .trap (dropFrozen d1 E.c) { chainFrozen d1 h x E.addr E.opc E.slot false with utpc := E.addr }
          | none => .wait (d1.updCtx E.c fun k => k.hold starts)

/-- Forces what a write of the context would overwrite (R255). -/
def forceAliased (E : Env) (d : Dev) (ranges : List (Nat × Nat)) : Forced :=
  let l := aliasStarts d E.c ranges
  if l.isEmpty then .ok d
  else
    match forceNow E d l with
    | .ok d1 => .ok (d1.updCtx E.c fun k => countAliases k l)
    | .wait d1 => .wait (d1.updCtx E.c fun k => countAliases k l)
    | .trap d1 r =>
      .trap (if r.cause = 0x11 then d1 else d1.updCtx E.c fun k => countAliases k l) r

/-- Runs a forcing on the working device; when the bundle cannot go on, what was forced stands on the boundary's device
(R123, R253, R257). -/
def withForced (E : Env) (w : Dev) (f : Dev → Forced) (k : Dev → Eff) : Eff :=
  match f w with
  | .ok w1 => k w1
  | _ =>
    match f E.pre with
    | .ok d => .stop d none .engine
    | .wait d => .stop d none .engine
    | .trap d r => .stop d (some r) .engine

/-! ## Engine queues, as far as stores need them (R118, R119, R144) -/

def Ctx.queue (k : Ctx) (q : Nat) : List EngOp := k.queues.get q
def Ctx.setQueue (k : Ctx) (q : Nat) (l : List EngOp) : Ctx := { k with queues := k.queues.set q l }

/-- An operation may start: earlier scalar global accesses have performed, and no queue fence before it is outstanding
(R119, R144). -/
def Ctx.mayStart (k : Ctx) (q : Nat) (o : EngOp) : Bool :=
  k.performedTo o.gtag && !k.fences.any fun f => decide (f.seq < o.seq) && f.mask.getLsbD q

/-- The queue has no place for another operation (R118). -/
def Ctx.queueFull (k : Ctx) (q : Nat) : Bool := decide (Config.queueDepth ≤ (k.queue q).length)

/-- Ticket of the next accepted operation of a queue; 0 is skipped (R120). -/
def Ctx.nextTicket (k : Ctx) (q : Nat) : Nat :=
  let t := (k.tickets.get q + 1) % 2 ^ 32
  if t = 0 then 1 else t

/-! ## The store of a `tst` (R255, R256, R265) -/

/-- The Q2 operation of a global store is first in its queue and may start. -/
def storeTurn (k : Ctx) (i : Nat) : Bool :=
  match k.queue 2 with
  | o :: _ => o.kind == .tst i && k.mayStart 2 o
  | [] => false

/-- Ends the store's Q2 operation, if it has one. -/
def finishStore (i : Nat) (k : Ctx) : Ctx :=
  k.setQueue 2 ((k.queue 2).map fun o => if o.kind = .tst i then { o with phase := .finished } else o)

/-- Every pending panel of a store node takes a state. -/
def settleStore (i : Nat) (s : PState) (fl : List (Nat × NFault)) (k : Ctx) : Ctx :=
  finishStore i (k.updNode i fun n =>
    { n with ps := n.ps.map (fun x => if x = .pending then s else x), faults := n.faults ++ fl })

/-- A store meets faulted operand panels: it writes nothing, and those panels of it are faulted (R257). -/
def failStore (d : Dev) (c i : Nat) (n : Node) : Dev :=
  d.updCtx c fun k =>
    let fl := ((List.range 8).filter fun p => n.st p == .pending).filterMap fun p =>
      (operandFault k (n.needs p)).map fun f => (p, f)
    finishStore i (k.updNode i fun n =>
      { n with faults := n.faults ++ fl
               ps := (List.range 8).map fun p => if fl.any fun f => f.1 == p then .faulted else
                 if n.st p = .pending then .done else n.st p })

/-- `tld` panels that a store's rows would overwrite before they have been read, but for those it has forced (R255). A `tld` appended
after an on-chip store reads what that has written (R155). -/
def storeAliases (d : Dev) (c : Nat) (n : Node) (t : TDesc) (R C : Nat) (mask : BitVec 8) : List (Nat × BitVec 8) :=
  (aliasStarts d c (storeRanges d c t R C mask)).filter fun x =>
    (tdLoc t == 0 || decide (((d.ctx c).node x.1).seq < n.seq)) && !n.waits.contains x

/-- A store node takes up the panels that its rows would overwrite: it waits for them, and ALIASCNT counts their nodes (R255). -/
def takeAliases (i : Nat) (al : List (Nat × BitVec 8)) (k : Ctx) : Ctx :=
  let old := (k.node i).waits
  let new := (al.map Prod.fst).filter fun j => !old.any fun x => x.1 == j
  (k.setSpr Spr.aliascnt (k.spr' Spr.aliascnt + BitVec.ofNat 64 new.length)).updNode i fun n => { n with waits := n.waits ++ al }

/-- Writes the rows of a store, all of them or, behind a pin, none (R265). -/
def writeStore (c : Nat) (t : TDesc) (bs : List (Nat × Byte)) (d : Dev) : EAcc Unit :=
  match pinsAhead d c (tdSpace t) (bs.map Prod.fst) with
  | some d1 => .wait d1
  | none => scatterWrite d c (tdSpace t) bs

/-- The store node writes its rows, once what it needs is done (TST_STORE_WRITE, R124, R265). -/
def storeStep (d : Dev) (c i : Nat) : Dev :=
  let k := d.ctx c
  let n := k.node i
  match n.op, n.a with
  | .store t R C mask, some a =>
    let needs := (List.range 8).flatMap fun p => if n.st p = .pending then n.needs p else []
    let al := storeAliases d c n t R C mask
    if !n.unfinished || n.susp then d
    else if (operandFault k needs).isSome then failStore d c i n
    else if !operandsDone k needs then d
    else if !al.isEmpty then
      match reserve d c al with
      | some d1 => d1.updCtx c fun k => takeAliases i al k
      | none => d
    else if tdLoc t = 0 && !storeTurn k i then d
    else if storeAhead d c n.seq (storeRanges d c t R C mask) then d
    else
      match engineTransfer d c n.win n.paid (keepNode i) (writeStore c t (storeBytes (k.node a) t R C mask)) with
      | .ok d1 _ => d1.updCtx c fun k => sweep (settleStore i .done [] k)
      | .wait d1 => d1
      | .fault d1 cause va =>
          if cause = causePage then
            (engineRecord d1 c 2 2 va n.pc va 0).updCtx c fun k => k.updNode i fun n => { n with susp := true }
          else
            let f : NFault := { inner := cause, va := va, pc := n.pc, bclk := n.bclk }
            d1.updCtx c fun k =>
              settleStore i .faulted (((List.range 8).filter fun p => n.st p == .pending).map fun p => (p, f)) k
  | _, _ => d

/-! ## Reports to `tst` and `tforce` (R257, R286) -/

/-- A demand that has met a fault or a frozen chain reports it once and ends; one whose panels are done ends. The demand of
a `cttset` waits for a frozen chain (R301). -/
def reportOne (c : Nat) (d : Dev) (q : Demand) : Dev :=
  let k := d.ctx c
  let drop (k : Ctx) : Ctx := { k with demands := k.demands.erase q }
  let panels := [(q.node, q.mask)]
  if !(faultedIn k panels).isEmpty then
    d.updCtx c fun k =>
      sweep { drop k with asyncs := k.asyncs ++ [nodeFault k q.node q.mask q.pc q.opc q.slot true] }
  else if (panelsWhere k .pending panels).isEmpty then d.updCtx c fun k => sweep (drop k)
  else
    match frozenClose d k (k.closure panels) with
    | some (h, x) =>
      if q.slot = 6 then d else
      let r := chainFrozen d h x q.pc q.opc 3 true
      d.updCtx c fun k =>
        let k1 := { drop k with asyncs := k.asyncs ++ [r] }
        sweep (if (k.node q.node).op.isSink then settleStore q.node .done [] k1 else k1)
    | none => d

def reportDemands (d : Dev) (c : Nat) : Dev := (d.ctx c).demands.foldl (reportOne c) (dropFrozen d c)

/-! ## Accesses that meet an unfinished on-chip store (R265) -/

/-- Forces a store node: its operand first, then the write. A fault is the store's own to report (R257). -/
def forceStore (E : Env) (d : Dev) (i : Nat) : Forced :=
  let n := (d.ctx E.c).node i
  let starts := (List.range 8).flatMap fun p => if n.st p = .pending then n.needs p else []
  match forceNow E d starts with
  | .ok d1 =>
    let d2 := storeStep d1 E.c i
    if ((d2.ctx E.c).node i).used && ((d2.ctx E.c).node i).unfinished then .wait d2 else .ok d2
  | .wait d1 => .wait d1
  | .trap d1 _ => .ok (storeStep d1 E.c i)

/-- An access waits until the stores it meets are written (R265). -/
def settleStores (E : Env) (ranges : List (Nat × Nat)) (d : Dev) : Forced :=
  (storesMeeting d E.c ranges).foldl (fun r i =>
    match r with
    | .ok d1 => forceStore E d1 i
    | x => x) (.ok d)

/-! ## Appending (R242, R254) -/

/-- First free entry of the thunk table. -/
def freeEntry (k : Ctx) : Option Nat := (List.range Config.thunkEntries).find? fun i => !(k.node i).used

/-- Pending nodes: some panel is pending, and no demand in force reaches it (R241). -/
def Ctx.pendingNodes (k : Ctx) : List (Nat × Node) :=
  let need := k.closure k.starts
  k.inOrder.filter fun (i, n) => n.pendingMask &&& ~~~(need.get i) != 0#8

/-- The pending node with the lowest append count that no pending node uses as an operand (R254). -/
def overflowVictim (k : Ctx) : Option (Nat × Node) :=
  k.pendingNodes.find? fun (i, _) => !k.pendingNodes.any fun x => x.2.operands.contains i

/-- Panels to force for a node: a contribution takes every earlier one of its link with it (R279, R282). -/
def withEarlier (k : Ctx) (i : Nat) (n : Node) (m : BitVec 8) : List (Nat × BitVec 8) :=
  match n.op with
  | .contrib h pos ord _ _ =>
    k.nodes.filterMap fun (j, m) =>
      match m.op with
      | .contrib h1 pos1 ord1 _ _ => if h1 = h && pos1 = pos && ord1 ≤ ord && m.unfinished then some (j, 1#8) else none
      | _ => none
  | _ => [(i, m)]

/-- A faulted operand among the contributions that an overflow forces: their chain is frozen, and the appending bundle traps
(R254, R257). -/
def victimFault (k : Ctx) (l : List (Nat × BitVec 8)) : Option Nat :=
  l.findSome? fun (i, _) =>
    let n := k.node i
    if n.op.isContrib then ([n.a, n.b].filterMap id).find? fun a => !(k.node a).faults.isEmpty else none

/-- The outcome of forcing what an overflow has chosen. -/
def victimForced (E : Env) (l : List (Nat × BitVec 8)) (d : Dev) (r : Forced) : Forced :=
  match victimFault (d.ctx E.c) l with
  | some a => .trap d { nodeFault (d.ctx E.c) a 0xFF#8 E.addr E.opc E.slot false with utpc := E.addr }
  | none => r

/-- Makes room for an append (R254). -/
def makeRoom (E : Env) : Nat → Dev → Forced
  | 0, d => .trap d (E.thunkOverflow 1)
  | fuel + 1, d =>
    let d1 := d.updCtx E.c sweep
    let k := d1.ctx E.c
    if (freeEntry k).isSome then .ok d1
    else
      match overflowVictim k with
      | none => .trap d1 (E.thunkOverflow 1)
      | some (i, n) =>
        let starts := withEarlier k i n 0xFF#8
        match forceNow E d1 starts with
        | .ok d2 =>
          let d3 := d2.updCtx E.c fun k => k.setSpr Spr.ovfcnt (k.spr' Spr.ovfcnt + 1)
          match victimForced E starts d3 (.ok d3) with
          | .ok d4 => makeRoom E fuel d4
          | x => x
        | .wait d2 => victimForced E starts d2 (.wait d2)
        | .trap d2 t => .trap d2 (if t.cause = 0x11 then E.thunkOverflow 1 else t)

/-- A node with nothing in it but what every append records (R240); its random base comes after the words that the bundle's other
syllables take (R191; log entry 84). -/
def Env.newNode (E : Env) (w : Dev) (op : NOp) (a b : Option Nat) (et : ET) : Node :=
  let k := w.ctx E.c
  { (default : Node) with
    used := true, op := op, a := a, b := b, seq := k.seq, ety := et, pc := E.addr, bclk := E.k.bclk
    rngctr := k.spr' Spr.rngctr, key0 := E.k.spr' Spr.rngkey0, key1 := E.k.spr' Spr.rngkey1
    gtag := E.k.nextTag, win := E.k.win, ps := pendingAll }

/-- Puts a node into the first free entry, and binds a name to it. -/
def placeNode (w : Dev) (c : Nat) (n : Node) (zd : Option (BitVec 6)) : Dev × Nat :=
  let k := w.ctx c
  let i := (freeEntry k).getD 0
  let names := match zd with
    | some z => k.names.set z.toNat (some i)
    | none => k.names
  (w.setCtx c { k with nodes := k.nodes.set i n, seq := k.seq + 1, names := names }, i)

/-- A tile instruction that rounds with SR advances RNGCTR by 1024 and discards the queue (R191). -/
def drawTile (rm : RM) (c : Nat) (w : Dev) : Dev :=
  if rm = .sr then w.updCtx c fun k => { k with rq := [] }.setSpr Spr.rngctr (k.spr' Spr.rngctr + 1024) else w

/-- Appends a node; the bundle waits while the table makes room (R254). -/
def Env.append (E : Env) (w : Dev) (n : Dev → Node) (zd : Option (BitVec 6)) (rest : Dev → Nat → Eff) : Eff :=
  withForced E w (makeRoom E (Config.thunkEntries + 1)) fun w1 =>
    let (w2, i) := placeNode w1 E.c (n w1) zd
    rest (w2.updCtx E.c sweep) i

/-- Forces one panel that a demand in force reaches (PANEL_FORCE, R248, R249); nothing else happens by it. -/
def panelForceStep (d : Dev) (c i p : Nat) : Dev :=
  let k := d.ctx c
  let need := k.closure k.starts
  if k.cond = .resident && (need.get i).getLsbD p && (k.node i).pendingMask.getLsbD p then
    match forcePanel d c i p with
    | .done d1 => d1.updCtx c sweep
    | .wait d1 => d1
  else d

end Sys2Proof.Machine
end

