-- ==== Sys2Proof/Machine/Vector.lean ====
section
/-! DEFINITION. A vector syllable: its operand checks, its pops, its random word, what a push forces, and the entry of its
result (R30, R54, R123, R142, R191). -/

namespace Sys2Proof.Machine

/-- Places of the 256 bytes that the next push to a stream writes. -/
def pushRange (d : Dev) (c n : Nat) : List (Nat × Nat) :=
  let st := (d.ctx c).stream n
  let p := placeOf d c st.space (st.elemAddr st.idx).toNat
  [(p, p + 255)]

/-- A push forces the pending nodes that read what it writes, and takes its element (R123, R142). -/
def beforePush (E : Env) (w : Dev) (dst : Option VOp) (k : Dev → (Entry → Entry) → Eff) : Eff :=
  match dst with
  | some (.q n) =>
    withForced E w (fun d => forceAliased E d (pushRange w E.c n.toNat)) fun w1 =>
      k (pushNext w1 E.c n.toNat) fun e => { e with dest := pushDest w1 E.c n.toNat }
  | _ => k w id

/-- The effect of a vector syllable: the bundle waits for an element, for room to push or for a random word, or the entry of the
result joins. -/
def vecEff (E : Env) (w : Dev) (srcs : List VOp) (dst : Option VOp) (random : Env → Bool)
    (mk : Env → Vec → List Vec → Entry) : Eff :=
  if E.latchWaits srcs then .stop E.pre none .short
  else
    match E.readSrcs srcs w with
    | none => .stop E.pre none .engine
    | some (vs, flt, w1) =>
      if dst.any (pushFull w1 E.c) then .stop E.pre none .engine
      else
        match if random E then popWord w1 E.c else some (0, w1) with
        | none => .stop E.pre none .short
        | some (rw, w2) =>
          beforePush E w2 dst fun w3 bind =>
            let e := bind (mk E rw vs)
            match flt with
            | none => .ok (addEntry w3 E.c e) none
            | some f => .ok (addEntry w3 E.c { e with fault := some (E.popFault f), flags := 0 }) none

/-- A vector syllable: checks of its operands, its pops in the order of the fields, one random word where it rounds with SR
or is `vgkey`, and the entry of its result (R30, R54, R191). -/
def vecSyl (i : Instr) (s : State) (srcs : List VOp) (dst : Option VOp) (random : Env → Bool)
    (extra : Env → Dev → List Hit) (mk : Env → Vec → List Vec → Entry) : Out :=
  syllable i s
    (fun E w => extra E w ++ E.srcsHits w [] srcs ++ (match dst with | some d => E.dstHits w d | none => []))
    fun E w => (vecEff E w srcs dst random mk).past (E.passOver (srcs ++ dst.toList) w)

end Sys2Proof.Machine
end

