-- ==== Sys2Proof/Machine/Engines.lean ====
section
/-! DEFINITION. Engine queues, issue status and descriptors; copies, subscriptions, streams and queue fences (R118 to R144),
and the random-word queue (R190). -/

namespace Sys2Proof.Machine

/-! ## Issue status and acceptance (R118, R120, R121) -/

/-- The issue status (R120). -/
def statusWord (ticket queue code : Nat) : Word := BitVec.ofNat 64 (code % 256 + queue * 2 ^ 8 + ticket * 2 ^ 32)

/-- The core has seen the cancel of the context's job (R124, R348). -/
def Env.cancelled (E : Env) : Bool := (E.d0.job (pkgOf E.c) E.k.task.job).cancelled

/-- Codes of R120. -/
def codeBadDesc : Nat := 1
def codeRange : Nat := 2
def codeAlign : Nat := 3
def codeOverlap : Nat := 4
def codeState : Nat := 5
def codeCancelled : Nat := 6
def codeForeign : Nat := 7

/-- The first code that applies; a list gives the cases in the order of R120, and 0 is ACCEPTED. -/
def firstCode (l : List (Bool × Nat)) : Nat :=
  match l.find? fun p => p.1 with
  | some p => p.2
  | none => 0

/-- What an accepted operation is: its kind, its completion word, and a place it starts from. -/
structure NewOp where
  kind : EOp
  done : Option Nat
  pos : Nat
  deriving DecidableEq, Repr

/-- Puts an accepted operation into its queue (R118, R120). -/
def enqueue (E : Env) (w : Dev) (q : Nat) (cue : Bool) (o : NewOp) : Dev :=
  w.updCtx E.c fun k =>
    let t := k.nextTicket q
    let e : EngOp := { kind := o.kind, ticket := t, cue := cue, done := o.done, phase := .queued, result := 0, seq := k.seq
                       gtag := E.k.nextTag, pc := E.addr, pos := o.pos, fault := none, win := E.k.win, paid := default }
    { (k.setQueue q (k.queue q ++ [e])) with seq := k.seq + 1, tickets := k.tickets.set q t }

/-- A record in SPACE 0 is captured as the bundle issues; an unfinished store of its own that it meets is written first
(R121, R265). -/
def afterRecord (E : Env) (a n : Nat) (k : Eff) : Eff :=
  let r := accessPlaces E.d0 a n
  if (storesMeeting E.d0 E.c r).isEmpty then k
  else
    match settleStores E r E.pre with
    | .ok d => .stop d none .engine
    | .wait d => .stop d none .engine
    | .trap d t => .stop d (some t) .engine
where
  accessPlaces (d : Dev) (a n : Nat) : List (Nat × Nat) := [(placeOf d E.c 0 a, placeOf d E.c 0 a + n - 1)]

/-- An engine instruction of queue `q` that passed its checks: it waits for room, refuses, or is accepted after the forcing
that `force` asks for (R118, R120, R123). -/
def engineEff (E : Env) (w : Dev) (q : Nat) (cue : Bool) (sd : BitVec 6) (codes : List (Bool × Nat))
    (force : Dev → List (Nat × Nat)) (act : Dev → Dev) (op : NewOp) : Eff :=
  if (w.ctx E.c).queueFull q then .stop E.pre none .engine
  else
    match firstCode ((E.cancelled, codeCancelled) :: codes) with
    | 0 =>
      withForced E w (fun d => forceAliased E d (force d)) fun w1 =>
        let t := (w1.ctx E.c).nextTicket q
        .ok (E.putS (enqueue E (act w1) q cue op) 2 sd (statusWord t q 0)) none
    | code => .ok (E.putS w 2 sd (statusWord 0 q code)) none

/-! ## Descriptors (R121) -/

/-- `n` bytes at offset `o` of the record at scratchpad address `a`, as the bundle reads it. -/
def Env.rec_ (E : Env) (a o n : Nat) : Nat := rdSpad E.d0 E.c (a + o) n

/-- Signed field of a record. -/
def Env.recS (E : Env) (a o n : Nat) : Int := sext (8 * n) (E.rec_ a o n)

/-- All bytes of a stretch of a record are zero (R8). -/
def Env.recZero (E : Env) (a o n : Nat) : Bool := E.rec_ a o n == 0

/-- The completion word a header names (R121). -/
def Env.recDone (E : Env) (a : Nat) : Option Nat := if E.rec_ a 0 4 = 0xFFFFFFFF then none else some (E.rec_ a 0 4)

/-- A completion word outside the context's range, and one that is misaligned (R121). -/
def Env.doneRange (E : Env) (done : Option Nat) : Bool := done.any fun a => decide (E.k.allot.spLen < a + 8)
def Env.doneAlign (_ : Env) (done : Option Nat) : Bool := done.any fun a => !alignedTo 8 a

/-- The header breaks R121: KIND, and bytes 5 to 7. -/
def Env.badHeader (E : Env) (a kind : Nat) : Bool := E.rec_ a 4 1 != kind || !E.recZero a 5 3

/-- Size of a space as a context may address it; global addresses end at 2^48 (R129, R149). -/
def spaceLimit (k : Ctx) (space : Nat) : Nat :=
  match space with
  | 0 => k.allot.spLen
  | 1 => k.allot.lsLen
  | 2 => 2 ^ 26
  | 3 => 2 ^ 26
  | _ => 2 ^ 48

/-! ## Copies (R129 to R131) -/

/-- Lowest and highest byte of an affine pattern: pairs of a count and a stride, the run last. -/
def patternLow (base : Nat) (l : List (Nat × Int)) : Int := l.foldl (fun a p => a + min 0 (((p.1 - 1 : Nat) : Int) * p.2)) base
def patternHigh (base run : Nat) (l : List (Nat × Int)) : Int :=
  l.foldl (fun a p => a + max 0 (((p.1 - 1 : Nat) : Int) * p.2)) ((base + run : Nat) : Int) - 1

def CpyDesc.src (d : CpyDesc) : List (Nat × Int) := [(d.n1, d.ss1), (d.n2, d.ss2), (d.n3, d.ss3)]
def CpyDesc.dst (d : CpyDesc) : List (Nat × Int) := [(d.n1, d.ds1), (d.n2, d.ds2), (d.n3, d.ds3)]

/-- Bounding range of a copy's source and of its destination. -/
def CpyDesc.srcRange (d : CpyDesc) : Int × Int := (patternLow d.sa d.src, patternHigh d.sa d.n0 d.src)
def CpyDesc.dstRange (d : CpyDesc) : Int × Int := (patternLow d.da d.dst, patternHigh d.da d.n0 d.dst)

/-- The descriptor at an address (R129). -/
def Env.cpyDesc (E : Env) (a : Nat) : CpyDesc :=
  { sa := E.rec_ a 8 8, da := E.rec_ a 16 8, ssp := E.rec_ a 24 1 % 8, dsp := E.rec_ a 25 1 % 8
    n0 := E.rec_ a 28 4, n1 := E.rec_ a 32 2, n2 := E.rec_ a 34 2, n3 := E.rec_ a 36 2
    ss1 := E.recS a 40 4, ss2 := E.recS a 44 4, ss3 := E.recS a 48 4
    ds1 := E.recS a 52 4, ds2 := E.recS a 56 4, ds3 := E.recS a 60 4 }

/-- A pattern leaves its space. -/
def leavesSpace (k : Ctx) (space : Nat) (r : Int × Int) : Bool :=
  decide (r.1 < 0) || decide ((spaceLimit k space : Int) ≤ r.2)

/-- Refusals of `cpy`, in the order of R120. -/
def Env.cpyCodes (E : Env) (a : Nat) : List (Bool × Nat) :=
  let d := E.cpyDesc a
  let done := E.recDone a
  [(E.badHeader a 1 || E.rec_ a 24 1 / 8 != 0 || E.rec_ a 25 1 / 8 != 0 || decide (4 < d.ssp) || decide (4 < d.dsp) ||
      !E.recZero a 26 2 || !E.recZero a 38 2, codeBadDesc),
   (decide (d.n0 < 4) || decide (2 ^ 24 < d.n0) || d.n0 % 4 != 0 || d.n1 == 0 || d.n2 == 0 || d.n3 == 0 ||
      leavesSpace E.k d.ssp d.srcRange || leavesSpace E.k d.dsp d.dstRange || E.doneRange done, codeRange),
   (d.sa % 4 != 0 || d.da % 4 != 0 || (d.src ++ d.dst).any (fun p => p.2 % 4 != 0) || E.doneAlign done, codeAlign),
   (d.ssp == d.dsp && decide (d.srcRange.1 ≤ d.dstRange.2) && decide (d.dstRange.1 ≤ d.srcRange.2), codeOverlap)]

/-- Places of the bounding range of a copy's destination. -/
def cpyPlaces (d : Dev) (c space : Nat) (r : Int × Int) : List (Nat × Nat) :=
  [(placeOf d c space r.1.toNat, placeOf d c space r.2.toNat)]

/-- `cpy` (R130). -/
def execCpy (x : AsD) (s : State) : Out :=
  syllable (.cpy x) s (fun E _ => recordHits E (E.rdS x.sa) 32 64 (E.on x.g)) fun E w =>
    if !E.on x.g then .ok w none
    else
      let a := (E.rdS x.sa).toNat
      let d := E.cpyDesc a
      afterRecord E a 64 (engineEff E w 0 x.cue x.sd (E.cpyCodes a) (fun v => cpyPlaces v E.c d.dsp d.dstRange) id
        { kind := .cpy d, done := E.recDone a, pos := 0 })

/-- Bytes of a copy, counted in the order of its loops. -/
def CpyDesc.bytes (d : CpyDesc) : Nat := d.n0 * d.n1 * d.n2 * d.n3

/-- Source and destination address of the byte at a position, and the bytes of its run from there on. -/
def CpyDesc.at (d : CpyDesc) (p : Nat) : Nat × Nat × Nat :=
  let run := p / d.n0
  let i1 := run % d.n1
  let i2 := run / d.n1 % d.n2
  let i3 := run / (d.n1 * d.n2)
  let b := p % d.n0
  ((d.sa + i1 * d.ss1 + i2 * d.ss2 + i3 * d.ss3).toNat + b, (d.da + i1 * d.ds1 + i2 * d.ds2 + i3 * d.ds3).toNat + b, d.n0 - b)

/-- Length of the contiguous stretches that successive runs of a copy write. -/
def CpyDesc.stretch (d : CpyDesc) : Nat :=
  if d.n1 = 1 || d.ds1 == d.n0 then
    if d.n2 = 1 || d.ds2 == d.n0 * d.n1 then
      if d.n3 = 1 || d.ds3 == d.n0 * d.n1 * d.n2 then d.bytes else d.n0 * d.n1 * d.n2
    else d.n0 * d.n1
  else d.n0

/-- Bytes written at once: one destination line as far as a contiguous stretch covers it, so that a line covered whole is
written whole (R108). -/
def CpyDesc.chunk (d : CpyDesc) (p : Nat) : Nat := Nat.min (d.stretch - p % d.stretch) (128 - (d.at p).2.1 % 128)

/-- Source address and length of the pieces of `m` bytes from position `p` on. -/
def CpyDesc.pieces (d : CpyDesc) : Nat → Nat → Nat → List (Nat × Nat)
  | 0, _, _ => []
  | fuel + 1, p, m =>
    if m = 0 then []
    else
      let (s, _, n) := d.at p
      let k := Nat.min (Nat.min m n) (128 - s % 128)
      (s, k) :: d.pieces fuel (p + k) (m - k)

/-- Reads the source of a chunk word by word or line by line, up to the first word that faults; a page fault is met at
once. -/
def cpyGather (c : Nat) (x : CpyDesc) : List (Nat × Nat) → Dev → List Byte → EAcc (List Byte)
  | [], d, acc => .ok d acc
  | (s, n) :: r, d, acc =>
    let m := if x.ssp = 4 then n
      else match (List.range (n / 4)).find? fun i => decide (0 < i) && badWord d (placeOf d c x.ssp (s + 4 * i)) with
        | some i => 4 * i
        | none => n
    match eRead d c x.ssp s m with
    | .ok d1 bs => if m < n then .ok d1 (acc ++ bs) else cpyGather c x r d1 (acc ++ bs)
    | .wait d1 => .wait d1
    | .fault d1 cause a => if cause = causePage || acc.isEmpty then .fault d1 cause a else .ok d1 acc

/-- The source pieces of the next chunk of a copy. -/
def cpySources (o : EngOp) (x : CpyDesc) : List (Nat × Nat) := x.pieces 64 o.pos (x.chunk o.pos)

/-- The chunk of a copy at its position: the position after it (R130). -/
def cpyChunk (c : Nat) (o : EngOp) (x : CpyDesc) (d : Dev) : EAcc Nat :=
  let (_, t, _) := x.at o.pos
  let srcs := cpySources o x
  let ranges := (srcs.map fun (s, n) => (placeOf d c x.ssp s, placeOf d c x.ssp s + n - 1)) ++
    [(placeOf d c x.dsp t, placeOf d c x.dsp t + x.chunk o.pos - 1)]
  if (storesMeeting d c ranges).any fun i => decide (((d.ctx c).node i).seq < o.seq) then .wait d
  else
    match cpyGather c x srcs d [] with
    | .wait d1 => .wait d1
    | .fault d1 cause a => .fault d1 cause a
    | .ok d1 bs =>
      match eWriteSel d1 c x.dsp t (allBytes bs) with
      | .wait d2 => .wait d2
      | .fault d2 cause a => .fault d2 cause a
      | .ok d2 _ => .ok d2 (o.pos + bs.length)

/-- Changes the head operation of a queue. -/
def Ctx.updHead (k : Ctx) (q : Nat) (f : EngOp → EngOp) : Ctx :=
  match k.queue q with
  | o :: r => k.setQueue q (f o :: r)
  | [] => k

/-- Records the requests that a bucket has let through for the head operation of a queue. -/
def keepHead (q : Nat) (p : Paid) (k : Ctx) : Ctx := k.updHead q fun o => { o with paid := p }

/-- A transfer of the head operation of a queue (R74, R126). -/
def headTransfer {α : Type} (d : Dev) (c q : Nat) (o : EngOp) (run : Dev → EAcc α) : EAcc α :=
  engineTransfer d c o.win o.paid (keepHead q) run

/-- The next chunk of a copy. -/
def cpyNext (d : Dev) (c : Nat) (o : EngOp) (x : CpyDesc) : EAcc Nat := headTransfer d c 0 o (cpyChunk c o x)

/-- The trap of a copy that ended with a fault (R131). -/
def cpyTrap (o : EngOp) (cause : Nat) (a : Word) (write : Bool) : TrapRec :=
  { (default : TrapRec) with
    cause := cause, info0 := a, info1 := 0xD01, info2 := BitVec.ofNat 64 o.ticket, imp := true
    access := if write then 2 else 1, va := a, slot := 6, opc := 1 }

/-! ## Starting and completing operations (R119, R122) -/

/-- The head operation of a queue is finished with a result. -/
def finishHead (d : Dev) (c q result : Nat) : Dev :=
  d.updCtx c fun k => k.updHead q fun o => { o with phase := .finished, result := result }

/-- A queue fence has nothing left to wait for: no earlier operation, and no earlier queue fence, in a queue it names (R118, R144,
R326). -/
def QFence.ready (f : QFence) (k : Ctx) : Bool :=
  ((List.range 6).all fun q => !f.mask.getLsbD q || (k.queue q).all fun o => decide (f.seq < o.seq)) &&
    k.fences.all fun g => decide (f.seq ≤ g.seq) || g.mask &&& f.mask == 0#6

/-- The lowest queue of a mask. -/
def lowestQueue (m : BitVec 6) : Nat := ((List.range 6).find? fun q => m.getLsbD q).getD 0

def Ctx.pendCue (k : Ctx) (bit : Nat) : Ctx := k.setSpr Spr.cuepend (k.spr' Spr.cuepend ||| BitVec.ofNat 64 (2 ^ bit))

/-- Queue fences complete in order and raise their cues (R144). -/
def settleFences (k : Ctx) : Ctx :=
  k.fences.foldl (fun k f =>
    if !f.ready k then { k with fences := k.fences ++ [f] } else if f.cue then k.pendCue (lowestQueue f.mask) else k)
    { k with fences := [] }

/-- Writes a completion word (R122). -/
def writeDone (d : Dev) (c : Nat) (done : Option Nat) (ticket result : Nat) : Dev :=
  match done with
  | none => d
  | some a => wrSpad d c a (bytesOf 8 (ticket + result % 256 * 2 ^ 32))

/-- The head operation of a queue completes (R122). -/
def completeHead (d : Dev) (c q : Nat) : Dev :=
  match (d.ctx c).queue q with
  | [] => d
  | o :: r =>
    if o.phase = .finished then
      let d1 := writeDone d c o.done o.ticket o.result
      d1.updCtx c fun k =>
        let k1 := k.setQueue q r
        settleFences (if o.cue then k1.pendCue q else k1)
    else d

/-- The head operation of a queue, where a predicate holds of it. -/
def headIf (d : Dev) (c q : Nat) (p : EngOp → Bool) : Option EngOp :=
  match (d.ctx c).queue q with
  | o :: _ => if p o then some o else none
  | [] => none

/-- A started copy at the head of Q0. -/
def copyAt (d : Dev) (c : Nat) : Option (EngOp × CpyDesc) :=
  match headIf d c 0 fun o => o.phase == .started with
  | some o =>
    match o.kind with
    | .cpy x => some (o, x)
    | _ => none
  | none => none

/-- Whether the fault of a copy's chunk came from its write. -/
def cpyWriteFault (d : Dev) (c : Nat) (o : EngOp) (x : CpyDesc) : Bool :=
  match headTransfer d c 0 o fun e => cpyGather c x (cpySources o x) e [] with
  | .fault .. => false
  | _ => true

/-- COPY_FAULT of the task in place (R131). -/
def copyFaultStep (c : Nat) (d : Dev) : Dev :=
  match copyAt d c with
  | none => d
  | some (o, x) =>
    match cpyNext d c o x with
    | .fault d1 cause a =>
      if cause = causePage then d
      else
        (finishHead d1 c 0 cause).updCtx c fun k =>
          { k with asyncs := k.asyncs ++ [cpyTrap o cause a (cpyWriteFault d c o x)] }
    | _ => d

/-- COPY_FAULT (R131). -/
def execCopyFault (c : Nat) (s : State) : Out := .next { s with dev := onTasks s.dev c (copyFaultStep c) }

/-! ## Subscriptions (R132 to R139) -/

/-- Fields of a `subs` descriptor (R132). -/
def Env.subDesc (E : Env) (a : Nat) : Sub :=
  { (default : Sub) with
    state := 1, mode := E.rec_ a 8 1 % 4, src := (E.k.tids.get (E.rec_ a 9 1)).getD 0, dst := (E.k.tids.get (E.rec_ a 10 1)).getD 0
    ring := E.rec_ a 12 4, slotsz := E.rec_ a 16 2, nslot := E.rec_ a 18 2, rcb := E.rec_ a 20 4
    trow := E.rec_ a 24 2, tcol := E.rec_ a 26 2, cnt1 := E.rec_ a 28 2, cnt2 := E.rec_ a 30 2
    drow1 := E.recS a 32 2, dcol1 := E.recS a 34 2, drow2 := E.recS a 36 2, dcol2 := E.recS a 38 2, pc := E.addr
    win := E.k.win }

def Sub.loads (u : Sub) : Bool := u.mode == 1 || u.mode == 3
def Sub.stores (u : Sub) : Bool := u.mode == 2 || u.mode == 3
def Sub.tiles (u : Sub) : Nat := u.cnt1 * u.cnt2

/-- Coordinates of tile `n` of the sequence (R132). -/
def Sub.coord (u : Sub) (n : Nat) : Int × Int :=
  let i : Int := (n % u.cnt1 : Nat)
  let j : Int := (n / u.cnt1 : Nat)
  (u.trow + i * u.drow1 + j * u.drow2, u.tcol + i * u.dcol1 + j * u.dcol2)

/-- Bytes of a tile image with its scales (R134). -/
def imageBytes (t : TDesc) : Nat := 512 * tileBits (tdType t) + (if tdBlock t = 0 then 0 else 4096 / tdBlock t)

/-- A tile lies outside the extent of its identifier. -/
def outsideExtent (t : TDesc) (p : Int × Int) : Bool :=
  decide (p.1 < 0) || decide (p.2 < 0) || decide ((tdRows t : Int) ≤ p.1) || decide ((tdCols t : Int) ≤ p.2)

/-- The corner tiles of a sequence. -/
def Sub.corners (u : Sub) : List (Int × Int) :=
  [u.coord 0, u.coord (u.cnt1 - 1), u.coord ((u.cnt2 - 1) * u.cnt1), u.coord (u.tiles - 1)]

/-- Ranges of a subscription's slots and control block, as core scratchpad places. -/
def subPlaces (c : Nat) (k : Ctx) (u : Sub) : List (Nat × Nat) :=
  let b := coreOf c * 2 ^ 20 + k.allot.spBase
  [(b + u.ring, b + u.ring + 256 * u.slotsz * u.nslot - 1), (b + u.rcb, b + u.rcb + 31)]

/-- Active or draining. -/
def Sub.live (u : Sub) : Bool := u.state == 1 || u.state == 2

/-- Slots and control blocks of the active subscriptions of a core, but for subscription `n` of the context in place at `c`
(R132). -/
def corePlaces (d : Dev) (c n : Nat) : List (Nat × Nat) :=
  let of (own : Bool) (x : Nat × Ctx) : List (Nat × Nat) :=
    if coreOf x.1 = coreOf c then
      x.2.subs.flatMap fun (m, u) => if u.state = 1 && !(own && x.1 = c && m = n) then subPlaces x.1 x.2 u else []
    else []
  d.ctxs.flatMap (of true) ++ d.spilled.flatMap (of false)

/-- A tensor identifier that the mode uses is invalid or not global. -/
def Env.badSubTid (E : Env) (n : Nat) : Bool := (E.k.tids.get n).all fun t => tdLoc t != 0

/-- Refusals of `subs`, in the order of R120. -/
def Env.subCodes (E : Env) (a n : Nat) : List (Bool × Nat) :=
  let u := E.subDesc a
  let done := E.recDone a
  let ids := (if u.loads then [E.rec_ a 9 1] else []) ++ (if u.stores then [E.rec_ a 10 1] else [])
  let ts := (if u.loads then [u.src] else []) ++ (if u.stores then [u.dst] else [])
  let sp := E.k.allot.spLen
  let mine := subPlaces E.c E.k u
  [(E.badHeader a 2 || E.rec_ a 8 1 / 4 != 0 || u.mode == 0 || !E.recZero a 11 1 || !E.recZero a 40 24 ||
      ids.any (fun i => decide (i < 64) && E.badSubTid i), codeBadDesc),
   (ids.any (fun i => decide (63 < i)) || u.slotsz == 0 || decide (4096 < u.slotsz) ||
      ts.any (fun t => decide (256 * u.slotsz < imageBytes t)) || u.nslot == 0 || decide (64 < u.nslot) ||
      u.cnt1 == 0 || u.cnt2 == 0 || ts.any (fun t => u.corners.any (outsideExtent t)) ||
      decide (sp < u.ring + 256 * u.slotsz * u.nslot) || decide (sp < u.rcb + 32) || E.doneRange done, codeRange),
   (u.ring % 256 != 0 || u.rcb % 32 != 0 || E.doneAlign done, codeAlign),
   (rangesMeet (mine.take 1) (mine.drop 1) || rangesMeet mine (corePlaces E.d0 E.c n), codeOverlap),
   ((E.k.subs.get n).live || (E.k.subs.get n).state == 4, codeState)]

/-- Writes the ring control block (R133). -/
def writeRcb (d : Dev) (c : Nat) (u : Sub) : Dev :=
  wrSpad d c u.rcb (bytesOf 4 u.ring ++ bytesOf 2 u.slotsz ++ bytesOf 2 u.nslot ++ bytesOf 4 u.fill ++ bytesOf 4 u.rel ++
    bytesOf 4 u.fin ++ bytesOf 4 u.stored ++ bytesOf 1 u.state ++ bytesOf 1 u.ecause ++ bytesOf 2 0 ++ bytesOf 4 u.etile)

def Ctx.sub (k : Ctx) (n : Nat) : Sub := k.subs.get n

/-- Changes a subscription and rewrites its control block. -/
def updSub (d : Dev) (c n : Nat) (f : Sub → Sub) : Dev :=
  let u := f ((d.ctx c).sub n)
  writeRcb (d.updCtx c fun k => { k with subs := k.subs.set n u }) c u

/-- `subs` (R136). -/
def execSubs (x : AsD) (n : BitVec 5) (s : State) : Out :=
  syllable (.subs x n) s (fun E _ => recordHits E (E.rdS x.sa) 32 64 (E.on x.g)) fun E w =>
    if !E.on x.g then .ok w none
    else
      let a := (E.rdS x.sa).toNat
      afterRecord E a 64 (engineEff E w 1 x.cue x.sd (E.subCodes a n.toNat) (fun _ => [])
        (fun w1 => updSub w1 E.c n.toNat fun _ => E.subDesc a) { kind := .subs n.toNat, done := E.recDone a, pos := 0 })

/-- `unsub` (R137): the loader starts no new fill from here on. -/
def execUnsub (g : Guard) (cue : Bool) (sd : BitVec 6) (n : BitVec 5) (s : State) : Out :=
  syllable (.unsub g cue sd n) s noChecks fun E w =>
    if !E.on g then .ok w none
    else
      let u := E.k.sub n.toNat
      engineEff E w 1 cue sd [(u.state != 1, codeState)] (fun _ => [])
        (fun w1 => updSub w1 E.c n.toNat fun u => { u with state := 2 }) { kind := .unsub n.toNat u.fin, done := none, pos := 0 }

/-- RING_ERROR at issue (R139). -/
def Env.ringHit (E : Env) (n reason : Nat) (counter : Nat) (m : Nat) : Hit :=
  E.hit 9 { E.trap 0x14 with
    info0 := BitVec.ofNat 64 (n + reason * 256), info1 := E.tag false, info2 := BitVec.ofNat 64 counter
    info3 := BitVec.ofNat 64 m }

/-- The failed check of `rrel` or `rfin` (R138). -/
def Env.ringHits (E : Env) (n m : Nat) (mode limit : Bool) (counter : Nat) : List Hit :=
  if (E.k.sub n).state != 1 then [E.ringHit n 1 counter m]
  else if !mode then [E.ringHit n 2 counter m]
  else if !limit then [E.ringHit n 3 counter m]
  else []

/-- `rrel` (R138): the slots released are forced first (R123). -/
def execRrel (g : Guard) (cue : Bool) (sd : BitVec 6) (n : BitVec 5) (m : BitVec 8) (s : State) : Out :=
  syllable (.rrel g cue sd n m) s
    (fun E _ =>
      let u := E.k.sub n.toNat
      E.ringHits n.toNat m.toNat (u.mode == 1) (decide (u.rel + m.toNat ≤ u.fill)) u.fill)
    fun E w =>
      if !E.on g then .ok w none
      else
        let slots (d : Dev) : List (Nat × Nat) :=
          let u := (d.ctx E.c).sub n.toNat
          (List.range m.toNat).map fun i =>
            let a := placeOf d E.c 0 (u.ring + 256 * u.slotsz * ((u.rel + i) % u.nslot))
            (a, a + 256 * u.slotsz - 1)
        let rel := (E.k.sub n.toNat).rel + m.toNat
        engineEff E w 1 cue sd [] slots (fun w1 => updSub w1 E.c n.toNat fun u => { u with rel := rel })
          { kind := .rrel n.toNat rel, done := none, pos := 0 }

/-- Coordinates as naturals, for a tile inside its extent. -/
def natCoord (p : Int × Int) : Nat × Nat := (p.1.toNat, p.2.toNat)

/-- Virtual ranges of a tile in global memory: its rows, and its scales. -/
def tilePlaces (t : TDesc) (R C : Nat) : List (Nat × Nat) :=
  let rows := (List.range 64).map fun i => (placeVa + tdAddr t + rowOffset t R C i,
    placeVa + tdAddr t + rowOffset t R C i + 8 * tileBits (tdType t) - 1)
  rows ++ (List.range 64).flatMap fun i => (rowScales t R C i).map fun a => (placeVa + a, placeVa + a)

/-- `rfin` (R138): the tiles that the storer will write are forced first (R123). -/
def execRfin (g : Guard) (cue : Bool) (sd : BitVec 6) (n : BitVec 5) (m : BitVec 8) (s : State) : Out :=
  syllable (.rfin g cue sd n m) s
    (fun E _ =>
      let u := E.k.sub n.toNat
      let f := u.fin + m.toNat
      E.ringHits n.toNat m.toNat u.stores
        (decide (f ≤ u.tiles) && (if u.mode = 3 then decide (f ≤ u.fill) else decide (f ≤ u.nslot + u.stored))) u.stored)
    fun E w =>
      if !E.on g then .ok w none
      else
        let u := E.k.sub n.toNat
        let tiles (_ : Dev) : List (Nat × Nat) :=
          (List.range m.toNat).flatMap fun i => tilePlaces u.dst (natCoord (u.coord (u.fin + i))).1 (natCoord (u.coord (u.fin + i))).2
        let fin := u.fin + m.toNat
        engineEff E w 1 cue sd [] tiles (fun w1 => updSub w1 E.c n.toNat fun u => { u with fin := fin })
          { kind := .rfin n.toNat fin, done := none, pos := 0 }

/-! ### The loader and the storer (R134, R135) -/

/-- Block index of element (i, j) within a tile's scales, in row-major order of blocks (R134). -/
def blockIndex (t : TDesc) (i j : Nat) : Nat :=
  let B := tdBlock t
  if tdKdim t then i / B * 64 + j else i * (64 / B) + j / B

/-- Pairs of the tensor's scale address and the offset within a tile's scales. -/
def tileScales (t : TDesc) (R C : Nat) : List (Nat × Nat) :=
  if tdBlock t = 0 then []
  else
    (List.range 64).flatMap fun i => (List.range 64).filterMap fun j =>
      let first := if tdKdim t then i % tdBlock t == 0 else j % tdBlock t == 0
      if first then some (tdScaleAddr t + scaleOffset t (64 * R + i) (64 * C + j), blockIndex t i j) else none

/-- Pieces of a tile between global memory and a slot: global address, offset in the slot, length. -/
def tilePieces (t : TDesc) (R C : Nat) : List (Nat × Nat × Nat) :=
  let rb := 8 * tileBits (tdType t)
  ((List.range 64).map fun i => (tdAddr t + rowOffset t R C i, rb * i, rb)) ++
    (tileScales t R C).map fun p => (p.1, 64 * rb + p.2, 1)

/-- Slot address of tile `n` in SPACE 0. -/
def Sub.slotAddr (u : Sub) (n : Nat) : Nat := u.ring + 256 * u.slotsz * (n % u.nslot)

/-- Reads the pieces of a tile; their bytes in ascending order of offset. -/
def gatherTile (c : Nat) : List (Nat × Nat × Nat) → Dev → List Byte → EAcc (List Byte)
  | [], d, acc => .ok d acc
  | (a, _, n) :: r, d, acc =>
    match gRead d c true a n with
    | .ok d1 bs => gatherTile c r d1 (acc ++ bs)
    | .wait d1 => .wait d1
    | .fault d1 cause x => .fault d1 cause x

/-- Reads a tile into a slot. -/
def fillPieces (c slot : Nat) (l : List (Nat × Nat × Nat)) (d : Dev) : EAcc Unit :=
  match gatherTile c l d [] with
  | .ok d1 bs => eWriteSel d1 c 0 slot (allBytes bs)
  | .wait d1 => .wait d1
  | .fault d1 cause x => .fault d1 cause x

/-- Reads the pieces of a slot: global address and byte. -/
def gatherSlot (c slot : Nat) : List (Nat × Nat × Nat) → Dev → List (Nat × Byte) → EAcc (List (Nat × Byte))
  | [], d, acc => .ok d acc
  | (a, o, n) :: r, d, acc =>
    match eRead d c 0 (slot + o) n with
    | .ok d1 bs => gatherSlot c slot r d1 (acc ++ ((List.range n).map fun i => a + i).zip bs)
    | .wait d1 => .wait d1
    | .fault d1 cause x => .fault d1 cause x

/-- Writes a slot to its tile, line by line, a line covered whole as one event (R108). -/
def storePieces (c slot : Nat) (l : List (Nat × Nat × Nat)) (d : Dev) : EAcc Unit :=
  match gatherSlot c slot l d [] with
  | .ok d1 bs => writeUnits c 4 true 128 (groupBy 128 bs) d1
  | .wait d1 => .wait d1
  | .fault d1 cause x => .fault d1 cause x

/-- The `subs` of a subscription has not started. -/
def Ctx.subWaits (k : Ctx) (n : Nat) : Bool := (k.queue 1).any fun o => o.phase == .queued && o.kind == .subs n

/-- The loader may fill its next tile: a fill that has started finishes while the ring drains (R134, R137). -/
def mayFill (k : Ctx) (n : Nat) : Bool :=
  let u := k.sub n
  (u.state == 1 || (u.state == 2 && u.filling)) && u.loads && !u.suspL && !k.subWaits n && decide (u.fill < u.tiles) &&
    decide (u.fill < u.nslot + (if u.mode = 3 then u.stored else u.relOk))

/-- The storer may write its next tile. -/
def mayStore (k : Ctx) (n : Nat) : Bool :=
  let u := k.sub n
  u.live && u.stores && !u.suspS && !k.subWaits n && decide (u.stored < u.finOk)

/-- Changes a subscription without a change of its counters. -/
def Ctx.noteSub (k : Ctx) (n : Nat) (f : Sub → Sub) : Ctx := { k with subs := k.subs.update n f }

/-- The next fill of a ring. -/
def fillNext (d : Dev) (c n : Nat) : EAcc Unit :=
  let u := (d.ctx c).sub n
  let (R, C) := natCoord (u.coord u.fill)
  engineTransfer d c u.win u.paidL (fun p k => k.noteSub n fun u => { u with paidL := p })
    (fillPieces c (u.slotAddr u.fill) (tilePieces u.src R C))

/-- The next store of a ring. -/
def storeNext (d : Dev) (c n : Nat) : EAcc Unit :=
  let u := (d.ctx c).sub n
  let (R, C) := natCoord (u.coord u.stored)
  engineTransfer d c u.win u.paidS (fun p k => k.noteSub n fun u => { u with paidS := p })
    (storePieces c (u.slotAddr u.stored) (tilePieces u.dst R C))

/-- SUBSCRIPTION_FILL of the task in place: a fill without a fault. -/
def fillStep (c n : Nat) (d : Dev) : Dev :=
  if !mayFill (d.ctx c) n then d
  else
    match fillNext d c n with
    | .ok d1 _ => updSub d1 c n fun u => { u with fill := u.fill + 1, filling := false }
    | .wait d1 => d1.updCtx c fun k => k.noteSub n fun u => { u with filling := true }
    | .fault .. => d

/-- STORER_WRITE of the task in place. -/
def storerStep (c n : Nat) (d : Dev) : Dev :=
  if !mayStore (d.ctx c) n then d
  else
    match storeNext d c n with
    | .ok d1 _ => updSub d1 c n fun u => { u with stored := u.stored + 1 }
    | .wait d1 => d1
    | .fault .. => d

/-- The fault that the next transfer of a ring meets: the device, the cause, the address, and whether it is the storer's. -/
def ringFaultOf (d : Dev) (c n : Nat) : Option (Dev × Nat × Word × Bool) :=
  let fill := if mayFill (d.ctx c) n then
      (match fillNext d c n with
       | .fault d1 cause a => some (d1, cause, a, false)
       | _ => none)
    else none
  match fill with
  | some x => some x
  | none =>
    if mayStore (d.ctx c) n then
      match storeNext d c n with
      | .fault d1 cause a => some (d1, cause, a, true)
      | _ => none
    else none

/-- The asynchronous RING_ERROR (R139). -/
def ringTrap (n cause tile : Nat) (a : Word) (store : Bool) : TrapRec :=
  { (default : TrapRec) with
    cause := 0x14, info0 := BitVec.ofNat 64 (n + 4 * 256), info1 := 0x100, info2 := a
    info3 := BitVec.ofNat 64 (cause + tile * 2 ^ 32), imp := true, access := if store then 2 else 1, va := a }

/-- RING_FAULT of the task in place: any fault but a page fault ends the ring (R135). An `unsub` of the ring ends with it. -/
def ringFaultStep (c n : Nat) (d : Dev) : Dev :=
  match ringFaultOf d c n with
  | some (d1, cause, a, store) =>
    if cause = causePage then d
    else
      let u := (d1.ctx c).sub n
      let tile := if store then u.stored else u.fill
      let d2 := updSub d1 c n fun u =>
        { u with state := 4, ecause := cause, etile := tile, eva := a, filling := false, paidL := default, paidS := default }
      d2.updCtx c fun k => { k with asyncs := k.asyncs ++ [ringTrap n cause tile a store] }
  | none => d

/-- SUBSCRIPTION_FILL (R134). -/
def execSubscriptionFill (c n : Nat) (s : State) : Out := .next { s with dev := onTasks s.dev c (fillStep c n) }

/-- STORER_WRITE (R134). -/
def execStorerWrite (c n : Nat) (s : State) : Out := .next { s with dev := onTasks s.dev c (storerStep c n) }

/-- RING_FAULT (R135). -/
def execRingFault (c n : Nat) (s : State) : Out := .next { s with dev := onTasks s.dev c (ringFaultStep c n) }

/-! ## Streams (R140 to R143) -/

/-- The binding a `strb` descriptor describes (R140). -/
def Env.strDesc (E : Env) (a : Nat) : Stream :=
  let ns := (List.range 4).map fun i => E.rec_ a (20 + 2 * i) 2
  { (default : Stream) with
    bound := true, out := nbit (E.rec_ a 16 1) 7, space := E.rec_ a 16 1 % 8, base := E.rec_ a 8 8, depth := E.rec_ a 17 1
    counts := ns, strides := (List.range 4).map fun i => E.recS a (32 + 4 * i) 4, total := ns.foldl (· * ·) 1
    pc := E.addr, gtag := E.k.nextTag, win := E.k.win }

/-- Refusals of `strb`, in the order of R120. -/
def Env.strCodes (E : Env) (a n : Nat) : List (Bool × Nat) :=
  let st := E.strDesc a
  let done := E.recDone a
  let pat := st.counts.zip st.strides
  [(E.badHeader a 6 || nbits (E.rec_ a 16 1) 3 4 != 0 || decide (4 < st.space) || !E.recZero a 18 2 || !E.recZero a 28 4 ||
      !E.recZero a 48 16, codeBadDesc),
   (st.counts.any (· == 0) || st.depth == 0 || decide (8 < st.depth) ||
      leavesSpace E.k st.space (patternLow st.base pat, patternHigh st.base 256 pat) || E.doneRange done, codeRange),
   (st.base % 32 != 0 || st.strides.any (fun x => x % 32 != 0) || E.doneAlign done, codeAlign),
   ((E.k.stream n).bound, codeState)]

/-- `strb` (R141): the binding serves from the next count; elements pushed to an earlier binding stay on their way. -/
def execStrb (x : AsD) (n : BitVec 5) (s : State) : Out :=
  syllable (.strb x n) s (fun E _ => recordHits E (E.rdS x.sa) 32 64 (E.on x.g)) fun E w =>
    if !E.on x.g then .ok w none
    else
      let a := (E.rdS x.sa).toNat
      let i := n.toNat
      afterRecord E a 64 (engineEff E w 0 x.cue x.sd (E.strCodes a i) (fun _ => [])
        (fun w1 => w1.updCtx E.c fun k =>
          let old := k.stream i
          let new := { E.strDesc a with ticket := k.nextTicket 0, pushed := old.pushed, susp := old.susp, paidOut := old.paidOut }
          { k with streams := k.streams.set i new })
        { kind := .strb i, done := E.recDone a, pos := 0 })

/-- Unbinds a stream; pushed elements go on (R141). -/
def Stream.unbind (st : Stream) : Stream :=
  { st with bound := false, buf := [], susp := st.susp && st.out }

/-- `stru` (R141). -/
def execStru (g : Guard) (cue : Bool) (sd : BitVec 6) (n : BitVec 5) (s : State) : Out :=
  syllable (.stru g cue sd n) s noChecks fun E w =>
    if !E.on g then .ok w none
    else
      let i := n.toNat
      let st := E.k.stream i
      engineEff E w 0 cue sd [(!st.bound, codeState)] (fun _ => [])
        (fun w1 => w1.updCtx E.c fun k => { k with streams := k.streams.update i Stream.unbind })
        { kind := .stru i, done := none, pos := if st.out then st.ticket else 0 }

/-- The `strb` of a binding has started (R142). -/
def Ctx.streamOpen (k : Ctx) (n ticket : Nat) : Bool :=
  !(k.queue 0).any fun o => o.kind == .strb n && o.ticket == ticket && o.phase == .queued

/-- The next element of an inbound stream may be read ahead (R142, R374). -/
def mayPrefetch (d : Dev) (c n : Nat) : Bool :=
  let k := d.ctx c
  let st := k.stream n
  let p := placeOf d c st.space (st.elemAddr st.fetch).toNat
  st.bound && !st.out && !st.susp && !k.spilled && decide (st.buf.length < st.depth) && decide (st.fetch < st.total) &&
    k.streamOpen n st.ticket && k.performedTo st.gtag && (storesMeeting d c [(p, p + 255)]).isEmpty

/-- Changes a stream of a context. -/
def Ctx.noteStream (k : Ctx) (n : Nat) (f : Stream → Stream) : Ctx := { k with streams := k.streams.update n f }

/-- The read of the next element. -/
def prefetchNext (d : Dev) (c n : Nat) : EAcc (List Byte) :=
  let st := (d.ctx c).stream n
  engineTransfer d c st.win st.paidIn (fun p k => k.noteStream n fun st => { st with paidIn := p }) fun e =>
    eRead e c st.space (st.elemAddr st.fetch).toNat 256

/-- Puts an element into an inbound stream's buffer. -/
def bufferElem (d : Dev) (c n : Nat) (v : Vec) (f : Option TrapRec) : Dev :=
  d.updCtx c fun k => { k with streams := k.streams.update n fun st => { st with buf := st.buf ++ [(v, f)], fetch := st.fetch + 1 } }

/-- STREAM_PREFETCH of the task in place: an element read without a fault. -/
def prefetchStep (c n : Nat) (d : Dev) : Dev :=
  if !mayPrefetch d c n then d
  else
    match prefetchNext d c n with
    | .ok d1 bs => bufferElem d1 c n (BitVec.ofNat 2048 (ofBytes bs)) none
    | .wait d1 => d1
    | .fault .. => d

/-- The oldest pushed element of a stream, once it may be written (R142). -/
def pushReady (d : Dev) (c n : Nat) : Option Push :=
  let k := d.ctx c
  let st := k.stream n
  match st.pushed with
  | p :: _ => if !st.susp && k.performedTo p.gtag && k.streamOpen n p.ticket then some p else none
  | [] => none

/-- The write of the oldest pushed element of stream `n`. -/
def pushWrite (d : Dev) (c n : Nat) (p : Push) : EAcc Unit :=
  engineTransfer d c p.win ((d.ctx c).stream n).paidOut (fun q k => k.noteStream n fun st => { st with paidOut := q }) fun e =>
    eWriteSel e c p.space p.addr ((List.range 256).map fun b => (p.sel.getLsbD b, p.val.extractLsb' (8 * b) 8))

def dropPush (d : Dev) (c n : Nat) : Dev :=
  d.updCtx c fun k => { k with streams := k.streams.update n fun st => { st with pushed := st.pushed.tail } }

/-- STREAM_PUSH_PERFORM of the task in place: an element written without a fault. -/
def pushStep (c n : Nat) (d : Dev) : Dev :=
  match pushReady d c n with
  | none => d
  | some p =>
    match pushWrite d c n p with
    | .ok d1 _ => dropPush d1 c n
    | .wait d1 => d1
    | .fault .. => d

/-- The trap of a stream element (R143). -/
def elementTrap (n e cause : Nat) (a : Word) (access : Nat) : TrapRec :=
  { (default : TrapRec) with
    cause := cause, info0 := a, info2 := BitVec.ofNat 64 n, info3 := BitVec.ofNat 64 e, access := access, va := a }

/-- A stream's access to the element at an address is suspended on a page fault (R83, R143, R378, R403). -/
def suspendStream (d : Dev) (c n access : Nat) (a info1 : Word) : Dev :=
  (engineRecord d c 0 access a ((d.ctx c).stream n).pc a info1).updCtx c fun k =>
    { k with streams := k.streams.update n fun st => { st with susp := true } }

/-- STREAM_ELEMENT_FAULT of the task in place (R143). -/
def elementFaultStep (c n : Nat) (d : Dev) : Dev :=
  let st := (d.ctx c).stream n
  if mayPrefetch d c n then
    match prefetchNext d c n with
    | .fault d1 cause _ =>
      let ad : Word := BitVec.ofInt 64 (st.elemAddr st.fetch)
      if cause = causePage then suspendStream d1 c n 1 ad 0
      else bufferElem (d1.updCtx c fun k => k.noteStream n fun st => { st with paidIn := default }) c n 0
        (some (elementTrap n st.fetch cause ad 1))
    | _ => d
  else
    match pushReady d c n with
    | none => d
    | some p =>
      match pushWrite d c n p with
      | .fault d1 cause _ =>
        if cause = causePage then suspendStream d1 c n 2 (BitVec.ofNat 64 p.addr) 0x100
        else
          let t := { elementTrap n p.elem cause (BitVec.ofNat 64 p.addr) 2 with
            info1 := 0x100, imp := true, slot := p.slot, opc := p.opc }
          (dropPush (d1.updCtx c fun k => k.noteStream n fun st => { st with paidOut := default }) c n).updCtx c fun k =>
            { k with asyncs := k.asyncs ++ [t] }
      | _ => d

/-- STREAM_PREFETCH (R142). -/
def execStreamPrefetch (c n : Nat) (s : State) : Out := .next { s with dev := onTasks s.dev c (prefetchStep c n) }

/-- STREAM_PUSH_PERFORM (R142). -/
def execStreamPushPerform (c n : Nat) (s : State) : Out := .next { s with dev := onTasks s.dev c (pushStep c n) }

/-- STREAM_ELEMENT_FAULT (R143). -/
def execStreamElementFault (c n : Nat) (s : State) : Out := .next { s with dev := onTasks s.dev c (elementFaultStep c n) }

/-! ## Queue fences (R144) -/

/-- `qfence` (R144): it takes no ticket and no place in a queue. -/
def execQfence (g : Guard) (cue : Bool) (sd : BitVec 6) (mask : BitVec 6) (s : State) : Out :=
  syllable (.qfence g cue sd mask) s noChecks fun E w =>
    if !E.on g then .ok w none
    else if E.cancelled then .ok (E.putS w 2 sd (statusWord 0 0xFF codeCancelled)) none
    else
      let w1 := w.updCtx E.c fun k =>
        settleFences { k with fences := k.fences ++ [{ mask := mask, seq := k.seq, cue := cue }], seq := k.seq + 1 }
      .ok (E.putS w1 2 sd (statusWord 0 0xFF 0)) none

/-! ## The random-bit queue (R190) -/

/-- RANDOM_WORD_GENERATION (R190): the next word of a queue of at most 16. -/
def execRandomWordGeneration (c : Nat) (s : State) : Out :=
  .next { s with dev := s.dev.updCtx c fun k =>
    if k.cond = .resident && decide (k.rq.length < 16) then
      { k with rq := k.rq ++ [randomWord (k.spr' Spr.rngkey0) (k.spr' (Spr.rngkey0 + 1))
          (k.spr' Spr.rngctr + BitVec.ofNat 64 (16 * k.rq.length))] }
    else k }

end Sys2Proof.Machine
end

