-- ==== Sys2Proof/Machine/Chains.lean ====
section
/-! DEFINITION. Accumulator chains: building, binding, advancement, hops, freezing, splicing, resumption and release (R271 to
R292). -/

namespace Sys2Proof.Machine

/-! ## Descriptors (R273, R274) -/

/-- Output types of a close by element-type code. -/
def outType (code : Nat) : Option TileDst :=
  match ET.ofCode code with
  | some .f32 => some .f32
  | some .bf16 => some .bf16
  | some .f16 => some .f16
  | some .e4m3 => some .e4m3
  | some .e5m2 => some .e5m2
  | some .e2m1 => some .e2m1
  | _ => none

/-- The link that an entry describes, not yet bound. -/
def linkOf (e : Nat) : Link :=
  { (default : Link) with
    core := nbits e 0 17, want := nbits e 24 4, slot := if nbits e 24 4 = 0xF then 0 else nbits e 24 4
    ctx := nbits e 28 2, count := nbits e 30 8, hop := nbits e 38 2 }

/-- An entry breaks a limit that gives BAD_DESC; `tail` marks the last one. -/
def badEntry (e : Nat) (tail : Bool) : Bool :=
  nbits e 40 24 != 0 || nbits e 17 7 != 0 || nbits e 38 2 == 3 || (tail && nbits e 38 2 != 0) ||
    (decide (8 ≤ nbits e 24 4) && nbits e 24 4 != 0xF)

/-- An entry names no core of the domain, or no contributions. -/
def rangeEntry (d : Dev) (e : Nat) : Bool :=
  nbits e 30 8 == 0 || decide (d.npkg ≤ nbits e 11 6) || decide (48 ≤ nbits e 0 6)

/-- Two entries name one core and one explicit slot. -/
def sameSlots : List Nat → Bool
  | [] => false
  | e :: r => r.any (fun x => nbits x 0 17 == nbits e 0 17 && nbits x 24 4 == nbits e 24 4 && nbits e 24 4 != 0xF) || sameSlots r

/-- Links written in the header at an address; 0 stands for a number outside 1 to 64. -/
def Env.chLinks (E : Env) (a : Nat) : Nat :=
  if E.k.allot.spLen < a + 16 then 0
  else
    let n := E.rec_ a 5 1
    if 64 < n then 0 else n

def Env.chEntries (E : Env) (a : Nat) : List Nat := (List.range (E.chLinks a)).map fun i => E.rec_ a (16 + 8 * i) 8

/-- Live chains of a package (R272, R275). -/
def chainsOf (d : Dev) (pkg : Nat) : Nat := (d.chains.filter fun x => x.1 / 4096 == pkg && x.2.live).length

/-- Refusals of `chbuild`, in the order of R120. -/
def Env.chCodes (E : Env) (a : Nat) : List (Bool × Nat) :=
  let es := E.chEntries a
  let done := E.recDone a
  let n := es.length
  let scale := E.rec_ a 12 4
  [(E.rec_ a 4 1 != 0x0B || nbits (E.rec_ a 6 1) 4 4 != 0 || nbits (E.rec_ a 7 1) 4 4 != 0 || !E.recZero a 9 3 ||
      (outType (E.rec_ a 6 1 % 16)).isNone || E.rec_ a 7 1 % 8 == 7 || nbits scale 23 8 == 255 ||
      ((List.range n).zip es).any (fun p => badEntry p.2 (p.1 + 1 == n)), codeBadDesc),
   (n == 0 || es.any (rangeEntry E.d0) || decide (Config.maxChains ≤ chainsOf E.d0 (pkgOf E.c)) || E.doneRange done ||
      (decide (31 < E.rec_ a 8 1) && E.rec_ a 8 1 != 0xFF), codeRange),
   (E.doneAlign done, codeAlign),
   (sameSlots es, codeOverlap)]

/-- The chain of an accepted descriptor. -/
def Env.newChain (E : Env) (w : Dev) (a num : Nat) : Chain :=
  { live := true, gen := w.gens.get (pkgOf E.c * 4096 + num) % 16383 + 1, job := E.k.task.job, owner := E.c
    links := (E.chEntries a).map linkOf, outET := (outType (E.rec_ a 6 1 % 16)).getD .f32
    rm := (RM.ofCode (E.rec_ a 7 1 % 8)).getD .rne, sat := nbit (E.rec_ a 7 1) 3
    scale := BitVec.ofNat 32 (E.rec_ a 12 4), ctt := E.rec_ a 8 1, frozen := false, closed := none, closer := 0
    filled := none, latched := false }

/-- The lowest chain number of a package that no chain holds, be it live or not yet released (R272). -/
def freeChain (d : Dev) (pkg : Nat) : Option Nat :=
  (List.range Config.maxChains).find? fun n => d.chains.all fun x => x.1 != pkg * 4096 + n

def handleOf (pkg num gen : Nat) : Word := BitVec.ofNat 64 (num + pkg * 2 ^ 12 + gen * 2 ^ 18)

/-- `chbuild` (R275). Under a false guard LINKS is read for the range check alone (log entry 88); a bundle that is to be given a
handle while every number is still held by a chain not yet released stalls (R167; log entry 88). -/
def execChbuild (x : AsD) (sb : BitVec 6) (s : State) : Out :=
  syllable (.chbuild x sb) s
    (fun E _ =>
      let a := (E.rdS x.sa).toNat
      let hits := recordHits E (E.rdS x.sa) 16 (16 + 8 * E.chLinks a) (E.on x.g)
      hits ++ (if E.on x.g && hits.isEmpty && (E.d0.feat 4).isNone &&
          (E.chEntries a).any (fun e => nbits e 11 6 != pkgOf E.c) then [E.illegalValue] else []))
    fun E w =>
      if !E.on x.g then .ok w none
      else
        let a := (E.rdS x.sa).toNat
        let free := freeChain w (pkgOf E.c)
        let num := free.getD 0
        let ch := E.newChain w a num
        let h := handleOf (pkgOf E.c) num ch.gen
        let key := pkgOf E.c * 4096 + num
        let code := firstCode ((E.cancelled, codeCancelled) :: E.chCodes a)
        let act (w1 : Dev) : Dev := { w1 with chains := w1.chains.set key ch, gens := w1.gens.set key ch.gen }
        afterRecord E a (16 + 8 * E.chLinks a)
          (if code = 0 && free.isNone then .stop E.pre none .engine
          else
            match engineEff E w 5 x.cue x.sd (E.chCodes a) (fun _ => []) act { kind := .chbuild h, done := E.recDone a, pos := 0 } with
            | .ok w2 t => .ok (E.putS w2 2 sb (if code = 0 then h else 0)) t
            | st => st)

/-! ## Binding (R276) -/

/-- The task of a job that a context number runs, resident or saved; of several the one in place (log entry 89). -/
def taskOf (d : Dev) (c job : Nat) : Option Ctx :=
  (tasksAt d c).find? fun k => (k.cond == .resident || k.cond == .saved) && k.task.job == job

/-- The slot that a binding takes: none where it fails for want of one. -/
def chooseSlot (d : Dev) (l : Link) (k : Ctx) : Option Nat :=
  let ok (i : Nat) : Bool := k.allot.links.getLsbD i && (d.slot (slotKey l.core i)).state == .free
  if l.want = 0xF then (List.range 8).find? ok else if ok l.want then some l.want else none

/-- Why a binding fails, or the slot it takes. -/
def bindResult (d : Dev) (job : Nat) (l : Link) : Except Nat Nat :=
  if coreDown d l.core || decide (d.npkg ≤ l.core / 2 ^ 11) || (d.pkg (l.core / 2 ^ 11)).unreachable then .error causeRemote
  else
    match taskOf d (ctxId l.core l.ctx) job with
    | none => .error 0x13
    | some k =>
      match chooseSlot d l k with
      | some i => .ok i
      | none => .error 0x13

/-- A slot as binding leaves it. -/
def newSlot (h : Word) (pos : Nat) (l : Link) : Slot :=
  { (default : Slot) with
    state := .opened, prev := .opened, handle := h, pos := pos, owner := l.ctx, count := l.count
    demanded := l.demanded, held := l.demanded }

/-- Binds one link of a live chain, or records that it fails and freezes the chain there (R276). -/
def bindLink (d : Dev) (h : Word) (pos : Nat) : Dev :=
  match liveChain d h with
  | none => d
  | some x =>
    let l := x.link pos
    match bindResult d x.job l with
    | .ok i =>
      let s := newSlot h pos l
      let s1 := if l.cause = 0 then s else { s with state := .frozen, cause := l.cause }
      let d1 := { d with slots := d.slots.set (slotKey l.core i) s1 }
      d1.updChain (chainKey h) fun x => { x with links := setAt x.links pos { l with slot := i, hasSlot := true, bound := 1 } }
    | .error cause =>
      let d1 := d.updChain (chainKey h) fun x =>
        { x with links := setAt x.links pos { l with slot := 0, hasSlot := false, bound := 2 } }
      freezeAt d1 h pos cause false

/-- The first failing link's cause in chain order (R276). -/
def bindCause (x : Chain) : Nat :=
  match x.links.find? fun l => l.bound == 2 with
  | some l => l.cause
  | none => 0

/-- The `chbuild` of a chain has not started. -/
def buildWaits (d : Dev) (h : Word) (owner : Nat) : Bool :=
  (tasksAt d owner).any fun k => (k.queue 5).any fun o => o.kind == .chbuild h && o.phase == .queued

/-- The `chbuild` of a chain whose links are all bound or failed is finished. -/
def finishBuild (h : Word) (result : Nat) (k : Ctx) : Ctx :=
  k.setQueue 5 ((k.queue 5).map fun o =>
    if o.kind = .chbuild h && o.phase = .started then { o with phase := .finished, result := result } else o)

/-- LINK_BINDING (R276). -/
def execLinkBinding (pkg num pos : Nat) (s : State) : Out :=
  let d := s.dev
  let x := d.chains.get (pkg * 4096 + num)
  let h := handleOf pkg num x.gen
  if x.live && decide (pos < x.links.length) && (x.link pos).bound == 0 && !buildWaits d h x.owner then
    let d1 := bindLink d h pos
    let x1 := d1.chains.get (pkg * 4096 + num)
    let d2 :=
      if x1.links.all fun l => l.bound != 0 then
        onTasks d1 x.owner fun e => e.updCtx x.owner (finishBuild h (bindCause x1))
      else d1
    .next { s with dev := d2 }
  else .next s

/-! ## Advancement and hops (R278 to R280) -/

/-- The format of a hop code. -/
def hopEt : Nat → ET
  | 1 => .bf16
  | 2 => .f16
  | _ => .f32

/-- Keys that either of two accumulators lists. -/
def keysOf (a b : SMap (BitVec 32)) : List Nat := a.keys ++ b.keys

/-- out of a link (R279). -/
def linkOut (s : Slot) : SMap (BitVec 32) :=
  if s.pos = 0 then s.acc
  else
    (keysOf s.acc s.inbox).foldl (fun m i =>
      SMap.set m i (BitVec.ofNat 32 (addF .f32 .rne false 0 (s.inbox.get i).toNat (s.acc.get i).toNat).1)) []

/-- A partial as it arrives: rounded to the hop format, and exact again in f32 (R280). -/
def hopData (hop : Nat) (m : SMap (BitVec 32)) : SMap (BitVec 32) :=
  if hop = 0 then m
  else
    m.foldl (fun acc x =>
      let y := (convert .f32 (hopEt hop) .rne false 0 x.2.toNat).1
      SMap.set acc x.1 (BitVec.ofNat 32 (convert (hopEt hop) .f32 .rne false 0 y).1)) []

/-- The task that owns a link. -/
def linkTask (d : Dev) (x : Chain) (pos : Nat) : Option Ctx := taskOf d (ctxId (x.link pos).core (x.link pos).ctx) x.job

/-- The owner of a link has room in its Q5 for a hop (R118); of an owner that has ended nothing is asked (log entry 42). -/
def hopRoom (d : Dev) (x : Chain) (pos : Nat) : Bool := (linkTask d x pos).all fun k => !k.queueFull 5

/-- A hop enters Q5; the number in the place of its ticket is none that a ticket takes. -/
def Ctx.queueHop (k : Ctx) (core slot : Nat) (data : SMap (BitVec 32)) : Ctx :=
  let o : EngOp := { (default : EngOp) with kind := .hop core slot data, ticket := 2 ^ 32, seq := k.seq }
  { (k.setQueue 5 (k.queue 5 ++ [o])) with seq := k.seq + 1 }

/-- Sends a link's retained value to the link below it, through the Q5 of the link's owner (R118, R280). -/
def sendHop (d : Dev) (x : Chain) (pos : Nat) (out : SMap (BitVec 32)) : Dev :=
  let l := x.link pos
  let below := x.link (pos + 1)
  let data := hopData l.hop out
  match linkTask d x pos with
  | some k => onSerial d (ctxId l.core l.ctx) k.serial fun k => k.queueHop below.core below.slot data
  | none => d.send (.hop below.core below.slot data)

/-- Hops of a context's Q5 that have not left it leave it as the task goes (log entry 42). -/
def sendQueued (d : Dev) (k : Ctx) : Dev :=
  (k.queue 5).foldl (fun d o =>
    match o.kind with
    | .hop core slot data => if o.phase = .queued then d.send (.hop core slot data) else d
    | _ => d) d

/-- The link that advances next reads S, and its inbox unless it is the head (R279, R285). -/
def Slot.badNow (t : Slot) : Bool :=
  (t.state == .ready && (t.badS || (t.pos != 0 && t.badIn))) || (t.state == .advanced && t.resend && t.badOut)

/-- LINK_ADVANCE (R278, R279): a READY link advances, and an ADVANCED one that is to send its retained value again does so (R290). -/
def execLinkAdvance (core slot : Nat) (s : State) : Out :=
  .next { s with dev :=
    let d := s.dev
    let key := slotKey core slot
    let t := d.slot key
    match liveChain d t.handle with
    | none => d
    | some x =>
      let below := boundSlot d x t.handle (t.pos + 1)
      if x.frozen || t.badNow then d
      else if t.state = .ready then
        if t.pos + 1 = x.links.length then
          d.updSlot key fun t => { t with acc := linkOut t, retained := true, state := .advanced, badS := false, badOut := false }
        else if below.isNone || !hopRoom d x t.pos then d
        else
          let d1 := d.updSlot key fun t => { t with acc := linkOut t, retained := true, state := .advanced, badS := false, badOut := false }
          sendHop d1 x t.pos (linkOut t)
      else if t.state = .advanced && t.resend then
        if below.any Slot.inboxGot then d.updSlot key fun t => { t with resend := false }
        else if below.isNone || !hopRoom d x t.pos then d
        else sendHop (d.updSlot key fun t => { t with resend := false }) x t.pos t.acc
      else d }

/-- Whether the package of a core can be reached (R306). -/
def routeLost (d : Dev) (core : Nat) : Bool := (d.pkg (core / 2 ^ 11)).unreachable

/-- HOP_ARRIVAL (R280): the first partial to arrive is kept; one that cannot arrive freezes the chain. -/
def hopArrive (d : Dev) (core slot : Nat) (data : SMap (BitVec 32)) : Dev :=
  let key := slotKey core slot
  let t := d.slot key
  if t.state = .free || t.state = .splicedOut then d
  else if coreDown d core || routeLost d core then freezeAt d t.handle t.pos causeRemote false
  else if t.inboxGot then d
  else
    let frozen := (liveChain d t.handle).any Chain.frozen
    d.updSlot key fun t =>
      let t1 := { t with inbox := data, inboxGot := true, badIn := false }
      if frozen then t1 else slotReady t1

/-- HOP_ARRIVAL (R280). -/
def execHopArrival (m : Nat) (s : State) : Out :=
  .next { s with dev :=
    match s.dev.msgs[m]? with
    | some (.hop core slot data) => hopArrive { s.dev with msgs := s.dev.msgs.eraseIdx m } core slot data
    | _ => s.dev }

/-! ## Freezing (R285) -/

/-- CHAIN_FREEZE (R285): a link that would next read a slot with an uncorrectable error, or whose core has gone. -/
def execChainFreeze (core slot : Nat) (s : State) : Out :=
  .next { s with dev :=
    let d := s.dev
    let t := d.slot (slotKey core slot)
    if t.state = .free || t.state = .splicedOut then d
    else if t.badNow then freezeAt d t.handle t.pos 0x1A false
    else if coreDown d core then freezeAt d t.handle t.pos causeRemote false
    else d }

/-! ## Demand held at a link (R250, R253, R282) -/

/-- Pending contributions of a context to one link. -/
def linkStarts (k : Ctx) (h : Word) (pos : Nat) : List (Nat × BitVec 8) :=
  k.nodes.filterMap fun (i, n) =>
    match n.op with
    | .contrib h1 p _ _ _ => if h1 = h && p = pos && n.unfinished then some (i, 1#8) else none
    | _ => none

/-- HELD_DEMAND_PROCEED (R250): the owner is resident and reserves its units for as long as the panels are not done (R253); a
reservation that fails freezes the chain. The demand is held no longer, also where the owner is then pre-empted (log entry 90). -/
def execHeldDemandProceed (core slot : Nat) (s : State) : Out :=
  .next { s with dev :=
    let d := s.dev
    let key := slotKey core slot
    let t := d.slot key
    let c := ctxId core t.owner
    match liveChain d t.handle with
    | none => d
    | some x =>
      if !t.held || x.frozen || (d.ctx c).cond != .resident || !(d.ctx c).allot.links.getLsbD slot then d
      else
        let starts := linkStarts (d.ctx c) t.handle t.pos
        match reserve d c starts with
        | none => freezeAt d t.handle t.pos 0x11 false
        | some d1 => (d1.updSlot key fun t => { t with held := false }).updCtx c fun k => k.hold starts }

/-! ## The close (R281, R294) -/

/-- Sets the ready latch of an entry; `tag` is the last scalar global access that precedes the bundle that sets it (R295). -/
def setLatch (n tag : Nat) (k : Ctx) : Ctx :=
  { k with ctt := k.ctt.update n fun e => { e with ready := true, gtag := Nat.max e.gtag tag } }

/-- The close node of a chain has every panel: the tail becomes CLOSED, and the ready flag is set once, in the task that appended
the node, whether or not the node is still in its table (R278, R281). -/
def closeDone (d : Dev) (key : Nat) : Dev :=
  let x := d.chains.get key
  let pos := x.links.length - 1
  match x.closed, x.filled, boundSlot d x (handleOf (key / 4096) (key % 4096) x.gen) pos with
  | some (c, _), some tag, some t =>
    if x.frozen || t.state != .advanced then d
    else
      let d1 := d.updSlot (linkSlot (x.link pos)) fun t => { t with state := .closed }
      if x.ctt = 0xFF || x.latched then d1
      else onSerial (d1.updChain key fun x => { x with latched := true }) c x.closer (setLatch x.ctt tag)
  | _, _, _ => d

/-- CLOSE_DONE (R278, R281). -/
def execCloseDone (pkg num : Nat) (s : State) : Out := .next { s with dev := closeDone s.dev (pkg * 4096 + num) }

/-! ## Inspection (R288) -/

def LState.code : LState → Nat
  | free => 0
  | opened => 1
  | ready => 2
  | advanced => 3
  | closed => 4
  | frozen => 5
  | splicedOut => 6

/-- The word of R288 from its fields. -/
def statWord (core slot : Nat) (unb : Bool) (cause : Nat) (frozen : Bool) (t : Slot) (state count : Nat) : Word :=
  BitVec.ofNat 64 (core * 2 ^ 47 + slot * 2 ^ 44 + (if unb then 2 ^ 43 else 0) + cause % 256 * 2 ^ 32 +
    (if frozen then 2 ^ 30 else 0) + (if t.retained then 2 ^ 29 else 0) + (if t.inboxGot then 2 ^ 28 else 0) +
    state * 2 ^ 24 + t.appended % 256 * 2 ^ 16 + count % 256 * 2 ^ 8 + t.done % 256)

/-- Status of link `pos` of a handle, as job `job` reads it. -/
def chainStat (d : Dev) (h : Word) (job pos : Nat) : Word :=
  match liveChain d h with
  | none => 0
  | some x =>
    if x.job ≠ job || x.links.length ≤ pos then 0
    else
      let l := x.link pos
      match boundSlot d x h pos with
      | some t => statWord l.core l.slot false (if t.state = .frozen then t.cause else l.cause) x.frozen t t.state.code t.count
      | none => statWord l.core l.slot (l.bound == 2) l.cause x.frozen default (if l.bound = 2 then 5 else 0) l.count

/-- `chstat` (R288). -/
def execChstat (g : Guard) (sd sa : BitVec 6) (pos : BitVec 6) (s : State) : Out :=
  syllable (.chstat g sd sa pos) s noChecks fun E w =>
    if E.on g then .ok (E.putS w 2 sd (chainStat w (E.rdS sa) E.k.task.job pos.toNat)) none else .ok w none

/-- Status of a slot of a core. -/
def slotStat (d : Dev) (core i : Nat) : Word :=
  let t := d.slot (slotKey core i)
  if t.state = .free then BitVec.ofNat 64 (core * 2 ^ 47 + i * 2 ^ 44)
  else statWord core i false t.cause ((liveChain d t.handle).any Chain.frozen) t t.state.code t.count

/-- `chstat.slot` (R288). -/
def execChstatSlot (g : Guard) (sd : BitVec 6) (i : BitVec 3) (s : State) : Out :=
  syllable (.chstatSlot g sd i) s noChecks fun E w =>
    if E.on g then .ok (E.putS w 2 sd (slotStat w (coreOf E.c) i.toNat)) none else .ok w none

/-! ## Splice, resume, free (R289 to R292) -/

/-- Codes that a handle gives: STATE where it is not live, FOREIGN where its chain is another job's (R120). -/
def Env.handleCodes (E : Env) (w : Dev) (h : Word) : List (Bool × Nat) :=
  [((liveChain w h).isNone, codeState), ((liveChain w h).any fun x => x.job != E.k.task.job, codeForeign)]

/-- A link of a frozen chain is a freeze site that only a splice removes (R290). -/
def hardSite (d : Dev) (h : Word) (x : Chain) : Bool :=
  (List.range x.links.length).any fun p =>
    match boundSlot d x h p with
    | some t => t.state == .frozen && !t.overflow
    | none => (x.link p).cause != 0

/-- Refusals of `chsplice`, in the order of R120 (R289); an entry that names no core is for its binding to fail (R13, R276). -/
def Env.spliceCodes (E : Env) (w : Dev) (h : Word) (e pos : Nat) : List (Bool × Nat) :=
  let x := (liveChain w h).getD default
  let inside := decide (pos < x.links.length)
  E.handleCodes w h ++
  [(badEntry e false || (inside && nbits e 38 2 != (x.link pos).hop), codeBadDesc),
   (!inside || nbits e 30 8 == 0, codeRange),
   (!x.frozen, codeState)]

/-- `chsplice` (R289). -/
def execChsplice (x : AsD) (sb : BitVec 6) (pos : BitVec 8) (s : State) : Out :=
  syllable (.chsplice x sb pos) s (fun E _ => recordHits E (E.rdS x.sa) 8 8 (E.on x.g)) fun E w =>
    if !E.on x.g then .ok w none
    else
      let a := (E.rdS x.sa).toNat
      let e := E.rec_ a 0 8
      let h := E.rdS sb
      afterRecord E a 8 (engineEff E w 5 x.cue x.sd (E.spliceCodes w h e pos.toNat) (fun _ => []) id
        { kind := .chsplice h pos.toNat (BitVec.ofNat 64 e), done := none, pos := 0 })

/-- Discards the pending contributions of a context to a chain, or to one of its positions (R242). -/
def dropContribs (h : Word) (pos : Option Nat) (k : Ctx) : Ctx :=
  sweep { k with nodes := k.nodes.map fun (i, n) =>
    match n.op with
    | .contrib h1 p _ _ _ =>
      if h1 = h && pos.all (· == p) then (i, { n with ps := List.replicate 8 .done }) else (i, n)
    | _ => (i, n) }

/-- Applies a change to every task, in place or spilled. -/
def onAllTasks (d : Dev) (f : Ctx → Ctx) : Dev :=
  { d with ctxs := d.ctxs.map fun (c, k) => (c, f k), spilled := d.spilled.map fun (c, k) => (c, f k) }

/-- Performs a splice; the result of the operation (R289). -/
def performSplice (d : Dev) (h : Word) (pos : Nat) (e : Word) : Dev × Nat :=
  match liveChain d h with
  | none => (d, 0x13)
  | some x =>
    if !x.frozen then (d, 0x13)
    else
      let l := x.link pos
      let d1 := match boundSlot d x h pos with
        | some _ => d.updSlot (linkSlot l) fun t =>
            { (default : Slot) with state := .splicedOut, handle := t.handle, pos := t.pos, owner := t.owner }
        | none => d
      let d2 := onAllTasks d1 (dropContribs h (some pos))
      let new := { linkOf e.toNat with demanded := l.demanded, prio := l.prio }
      let d3 := bindLink (d2.updChain (chainKey h) fun x => { x with links := setAt x.links pos new }) h pos
      (d3, (((liveChain d3 h).getD default).link pos).cause)

/-- `chresume` (R290). -/
def execChresume (x : AsH) (s : State) : Out :=
  syllable (.chresume x) s noChecks fun E w =>
    if !E.on x.g then .ok w none
    else
      let h := E.rdS x.sb
      let ch := (liveChain w h).getD default
      engineEff E w 5 x.cue x.sd (E.handleCodes w h ++ [(!ch.frozen || hardSite w h ch, codeState)]) (fun _ => []) id
        { kind := .chresume h, done := none, pos := 0 }

/-- Links that have advanced and whose downstream link has no inbox: they are to resend (R290). -/
def resendFrom (h : Word) (x : Chain) (d : Dev) (pos : Nat) : Dev :=
  match boundSlot d x h pos, boundSlot d x h (pos + 1) with
  | some t, some b =>
    if t.state = .advanced && !b.inboxGot then d.updSlot (linkSlot (x.link pos)) fun t => { t with resend := true } else d
  | _, _ => d

/-- A slot of a chain that is no longer frozen. -/
def thaw (t : Slot) : Slot :=
  slotReady (if t.state = .frozen then { t with state := t.prev, cause := 0, overflow := false } else t)

/-- Performs a resume; the result of the operation (R290). -/
def performResume (d : Dev) (h : Word) : Dev × Nat :=
  match liveChain d h with
  | none => (d, 0x13)
  | some x =>
    if !x.frozen then (d, 0)
    else if hardSite d h x then (d, 0x12)
    else
      let x1 := { x with frozen := false, links := x.links.map fun l => { l with cause := 0 } }
      let d1 := { d with chains := d.chains.set (chainKey h) x1 }
      let d2 := { d1 with slots := d1.slots.map fun (i, t) => if t.handle = h && t.state ≠ .splicedOut then (i, thaw t) else (i, t) }
      ((List.range (x.links.length - 1)).foldl (resendFrom h x1) d2, 0)

/-- `chfree` (R291): the handle stops being live at once. -/
def execChfree (x : AsH) (s : State) : Out :=
  syllable (.chfree x) s noChecks fun E w =>
    if !E.on x.g then .ok w none
    else
      let h := E.rdS x.sb
      engineEff E w 5 x.cue x.sd (E.handleCodes w h) (fun _ => [])
        (fun w1 => w1.updChain (chainKey h) fun ch => { ch with live := false }) { kind := .chfree h, done := none, pos := 0 }

/-- A hop to a slot of a chain. -/
def Msg.hopTo (d : Dev) (h : Word) : Msg → Bool
  | .hop core slot _ => (d.slot (slotKey core slot)).handle == h
  | _ => false

/-- A hop to a slot of a chain that is still in a Q5. -/
def EngOp.hopTo (d : Dev) (h : Word) (o : EngOp) : Bool :=
  match o.kind with
  | .hop core slot _ => (d.slot (slotKey core slot)).handle == h
  | _ => false

/-- Hops on their way to a slot of a chain, in the queues of every task and in flight. -/
def hopsFlying (d : Dev) (h : Word) : Bool :=
  d.msgs.any (Msg.hopTo d h) || (d.ctxs ++ d.spilled).any fun x => (x.2.queue 5).any (EngOp.hopTo d h)

/-- A pending close of a chain that goes is faulted (R291). -/
def faultClose (h : Word) (k : Ctx) : Ctx :=
  { k with nodes := k.nodes.map fun (i, n) =>
    match n.op with
    | .close h1 _ =>
      if h1 = h && n.unfinished then
        let f : NFault := { inner := 0x13, va := 0, pc := n.pc, bclk := n.bclk }
        (i, { n with
          ps := n.ps.map fun p => if p = .pending then .faulted else p
          faults := n.faults ++ ((List.range 8).filter fun p => n.st p == .pending).map fun p => (p, f) })
      else (i, n)
    | _ => (i, n) }

/-- Releases a chain: slots, contributions, closes and its record (R291, R292). -/
def releaseChain (d : Dev) (h : Word) : Dev :=
  let d1 := { d with slots := d.slots.filter fun x => x.2.handle != h, chains := d.chains.set (chainKey h) default }
  onAllTasks d1 fun k => dropContribs h none (faultClose h k)

/-- Takes the hops to a chain's slots out of flight and out of every Q5. -/
def dropHops (d : Dev) (h : Word) : Dev :=
  onAllTasks { d with msgs := d.msgs.filter fun m => !m.hopTo d h } fun k =>
    k.setQueue 5 ((k.queue 5).filter fun o => !o.hopTo d h)

/-- Frees every chain of a job as the job ends; hops in flight are dropped (R292). -/
def freeJobChains (d : Dev) (job : Nat) : Dev :=
  (d.chains.filter fun x => x.2.job == job).foldl (fun d x =>
    let h := handleOf (x.1 / 4096) (x.1 % 4096) x.2.gen
    releaseChain (dropHops d h) h) d

/-- Freezes every chain with a link on a core that satisfies a predicate (R306, R379). -/
def freezeCores (d : Dev) (p : Nat → Bool) (cause : Nat) : Dev :=
  d.chains.foldl (fun d x =>
    if x.2.live then
      let h := handleOf (x.1 / 4096) (x.1 % 4096) x.2.gen
      ((List.range x.2.links.length).filter fun i => p (x.2.link i).core).foldl (fun d i => freezeAt d h i cause false) d
    else d) d

/-- Freezes a job's chains at their heads (R285: cancelled). -/
def freezeJob (d : Dev) (job : Nat) : Dev :=
  d.chains.foldl (fun d x =>
    if x.2.live && x.2.job == job then freezeAt d (handleOf (x.1 / 4096) (x.1 % 4096) x.2.gen) 0 codeCancelled false else d) d

/-- The owner of links ends its task: its queued hops leave, and links that fall short freeze their chains (R284). -/
def ownerEnds (d0 : Dev) (c : Nat) (short : Slot → Bool) : Dev :=
  let d := sendQueued d0 (d0.ctx c)
  let mine := (d.ctx c).allot.links
  d.slots.foldl (fun d x =>
    if x.1 / 8 = coreOf c && mine.getLsbD (x.1 % 8) && x.2.state ≠ .free && x.2.state ≠ .splicedOut && short x.2 then
      freezeAt d x.2.handle x.2.pos 0x13 false
    else d) d

end Sys2Proof.Machine
end

