-- ==== Sys2Proof/Machine/Collective.lean ====
section
/-! DEFINITION. The collective tile table: arming, the ready latch, firings and deadlines (R293 to R305). -/

namespace Sys2Proof.Machine

/-! ## Descriptors (R296, R297) -/

/-- The peer at an index of the list at an address. -/
def Env.peer (E : Env) (a i : Nat) : Peer :=
  let b := a + 16 * i
  let f := E.rec_ b 8 4
  let w := E.rec_ b 12 4
  { dest := E.rec_ b 0 8, flag := if f = 0xFFFFFFFF then none else some f, core := nbits w 0 17, ctx := nbits w 17 2 }

/-- Peers that a descriptor may list. -/
def npeerOk (op n : Nat) : Bool := if op ≤ 1 then n == 1 else decide (1 ≤ n) && decide (n ≤ 32)

/-- Length of the peer list of a descriptor at `a`, 0 where it cannot be read. -/
def Env.peerCount (E : Env) (a : Nat) : Nat :=
  let n := E.rec_ a 10 1
  if npeerOk (E.rec_ a 9 1 % 4) n && decide (E.rec_ a 32 4 + 16 * n ≤ E.k.allot.spLen) then n else 0

def Env.peers (E : Env) (a : Nat) : List Peer := (List.range (E.peerCount a)).map (E.peer (E.rec_ a 32 4))

/-- The source that byte 8 names. -/
def Env.cttSrc (E : Env) (a : Nat) : Option CSrc :=
  let b := E.rec_ a 8 1
  if nbit b 6 then
    match E.k.tids.get (b % 64) with
    | some t => some (.tensor t (E.rec_ a 16 2) (E.rec_ a 18 2))
    | none => none
  else
    match E.k.names.get (b % 64) with
    | some i => if (E.k.node i).unscaled then some (.node i) else none
    | none => none

/-- Refusals of `cttset`, in the order of R120. -/
def Env.cttCodes (E : Env) (a n : Nat) : List (Bool × Nat) :=
  let done := E.recDone a
  let op := E.rec_ a 9 1 % 4
  let act := E.rec_ a 11 1
  let ps := E.peers a
  let tid := nbit (E.rec_ a 8 1) 6
  let glob := nbit act 3
  let far (p : Peer) : Bool := if glob then decide (2 ^ 48 ≤ p.dest) else false
  [(E.badHeader a 9 || nbit (E.rec_ a 8 1) 7 || E.rec_ a 9 1 / 4 != 0 || act / 16 != 0 || !E.recZero a 20 4 ||
      !E.recZero a 36 28 || (E.cttSrc a).isNone || (!tid && !E.recZero a 16 4) ||
      (op != 1 && E.rec_ a 13 1 != 0) || (op != 3 && E.rec_ a 14 2 != 0) ||
      ((List.range ps.length).any fun i => nbits (E.rec_ (E.rec_ a 32 4 + 16 * i) 12 4) 19 13 != 0) ||
      (!glob && ps.any fun p => p.dest / 2 ^ 32 != 0), codeBadDesc),
   (E.rec_ a 12 1 == 0 || !npeerOk op (E.rec_ a 10 1) || E.peerCount a == 0 || decide (63 < E.rec_ a 13 1) ||
      decide (4095 < E.rec_ a 14 2) || E.doneRange done || ps.any far ||
      (match E.cttSrc a with
       | some (.tensor t r c) => decide (tdRows t ≤ r) || decide (tdCols t ≤ c)
       | _ => false), codeRange),
   (E.rec_ a 32 4 % 16 != 0 || E.doneAlign done || ps.any (fun p => p.dest % 256 != 0 || p.flag.any fun f => f % 8 != 0),
      codeAlign),
   ((E.k.ctt.get n).state != 0, codeState)]

/-- The FRAME of a context's package, as a tick. -/
def tickOf (d : Dev) (c : Nat) : Nat := (d.pkg (pkgOf c)).frame.toNat

/-- The entry as arming leaves it (R305). -/
def Env.armed (E : Env) (w : Dev) (a n : Nat) (clr : Bool) : Ctt :=
  let old := (w.ctx E.c).ctt.get n
  let act := E.rec_ a 11 1
  { (default : Ctt) with
    state := 1, ready := old.ready && !clr, src := (E.cttSrc a).getD default, op := E.rec_ a 9 1 % 4
    flagAct := nbit act 0, cue := nbit act 1, dl := nbit act 2, glob := nbit act 3, mask := BitVec.ofNat 8 (E.rec_ a 12 1)
    gslot := E.rec_ a 13 1, mgroup := E.rec_ a 14 2, deadline := BitVec.ofNat 64 (E.rec_ a 24 8), done := E.recDone a
    peers := E.peers a, armTick := tickOf w E.c, gtag := Nat.max E.k.nextTag (if old.ready && !clr then old.gtag else 0)
    pc := E.addr, win := E.k.win }

/-- Deadline notices of an entry go to every peer but the issuing context, once for an arming (R304). -/
def notify (d : Dev) (c n : Nat) : Dev :=
  let e := (d.ctx c).ctt.get n
  if e.state != 1 || !e.dl || e.dlp || decide (tickOf d c < e.deadline.toNat) then d
  else
    ((e.peers.map fun p => ctxId p.core p.ctx).filter (· != c)).foldl (fun d p => d.send (.notice p))
      (d.updCtx c fun k => { k with ctt := k.ctt.update n fun e => { e with dlp := true } })

/-- The descriptor at an address and the peer list it names are captured once no unfinished store of the context meets them (R121,
R265, R297). -/
def afterLists (E : Env) (a : Nat) (k : Eff) : Eff :=
  afterRecord E a 64 (if E.peerCount a = 0 then k else afterRecord E (E.rec_ a 32 4) (16 * E.peerCount a) k)

/-- `cttset` (R305): it arms the entry and demands a tile source as `tforce` does. -/
def execCttset (x : AsD) (clr : Bool) (n : BitVec 5) (s : State) : Out :=
  syllable (.cttset x clr n) s
    (fun E _ =>
      let a := (E.rdS x.sa).toNat
      let hits := recordHits E (E.rdS x.sa) 32 64 (E.on x.g)
      let bad := if E.on x.g && hits.isEmpty then badRecord E.d0 E.c (E.rec_ a 32 4) (16 * E.peerCount a) else none
      hits ++ (match bad with
        | some p => [E.hit 9 { E.trap causeRemote with
            info0 := BitVec.ofNat 64 p, info1 := E.tag false, va := BitVec.ofNat 64 p, access := 1 }]
        | none => []))
    fun E w =>
      if !E.on x.g then .ok w none
      else
        let a := (E.rdS x.sa).toNat
        let i := n.toNat
        let arm (w1 : Dev) : Dev := notify (w1.updCtx E.c fun k => { k with ctt := k.ctt.set i (E.armed w1 a i clr) }) E.c i
        let op : NewOp := { kind := .cttset i, done := none, pos := 0 }
        let go (w1 : Dev) (act : Dev → Dev) : Eff := engineEff E w1 3 x.cue x.sd (E.cttCodes a i) (fun _ => []) act op
        afterLists E a
          (match E.cttSrc a with
           | some (.node j) =>
             if firstCode ((E.cancelled, codeCancelled) :: E.cttCodes a i) ≠ 0 || (w.ctx E.c).queueFull 3 then go w arm
             else
               let m : BitVec 8 := BitVec.ofNat 8 (E.rec_ a 12 1)
               match reserve w E.c [(j, m)] with
               | none => .stop E.pre (some (E.thunkOverflow 2)) .engine
               | some w1 =>
                 go w1 fun w2 => (arm w2).updCtx E.c fun k =>
                   { k with demands := k.demands ++ [{ node := j, mask := m, pc := E.addr, slot := E.slot, opc := E.opc }] }
           | _ => go w arm)

/-- `cttrdy` (R305): it sets the ready latch in any state. -/
def execCttrdy (g : Guard) (cue : Bool) (sd : BitVec 6) (n : BitVec 5) (s : State) : Out :=
  syllable (.cttrdy g cue sd n) s noChecks fun E w =>
    if !E.on g then .ok w none
    else
      engineEff E w 3 cue sd [] (fun _ => []) (fun w1 => w1.updCtx E.c (setLatch n.toNat E.k.nextTag))
        { kind := .cttrdy n.toNat, done := none, pos := 0 }

/-- Ticks from arming to now, saturating (R303). -/
def stallTicks (e : Ctt) (now : Nat) : Nat := if e.state = 1 then Nat.min (2 ^ 32 - 1) (now - e.armTick) else e.stall

/-- The entry word of `cttrdy.q`. -/
def cttWord (e : Ctt) (now : Nat) : Word :=
  BitVec.ofNat 64 (e.state + (if e.ready then 4 else 0) + (if e.dlp then 8 else 0) + stallTicks e now * 2 ^ 32)

/-- `cttrdy.q` (R305). -/
def execCttrdyQ (g : Guard) (sd : BitVec 6) (n : BitVec 5) (s : State) : Out :=
  syllable (.cttrdyQ g sd n) s noChecks fun E w =>
    if E.on g then .ok (E.putS w 2 sd (cttWord ((w.ctx E.c).ctt.get n.toNat) (tickOf w E.c))) none else .ok w none

/-! ## Firing (R294, R295) -/

def Ctx.updCtt (k : Ctx) (n : Nat) (f : Ctt → Ctt) : Ctx := { k with ctt := k.ctt.update n f }

/-- No selected panel of a tile source is still to come. -/
def sourceSettled (k : Ctx) (e : Ctt) : Bool :=
  match e.src with
  | .node i => (k.node i).pendingMask &&& e.mask == 0#8
  | _ => true

/-- The first fault that selected panels of a tile source meet. -/
def sourceFault (k : Ctx) (e : Ctt) : Option NFault :=
  match e.src with
  | .node i => ((k.node i).faultsIn e.mask).head?.map Prod.snd
  | _ => none

/-- The result of a peer that fails, or that none failed for. -/
def peerRes (cause : Nat) : PeerRes := { (default : PeerRes) with cause := cause }

/-- NODE_FAULT for a fault of a node: its inner cause and its append site (R258, R301). -/
def nodeRes (f : NFault) : PeerRes := { (default : PeerRes) with cause := 0x10, inner := f.inner, pc := f.pc, bclk := f.bclk }

/-- The result of a peer that an access of the engine fails: a read (1) or a write (2) (R301, R403). -/
def accessRes (cause access : Nat) (va : Word) : PeerRes := { peerRes cause with access := access, va := va }

/-- Every peer that is not served yet fails alike. -/
def failAll (r : PeerRes) (e : Ctt) : Ctt :=
  { e with served := e.served ++
    ((List.range e.peers.length).filter fun j => !e.served.any fun x => x.idx == j).map fun j => { r with idx := j } }

/-- COLLECTIVE_FIRING of the task in place. -/
def fireStep (c n : Nat) (d : Dev) : Dev :=
  let k := d.ctx c
  let e := k.ctt.get n
  if e.state != 1 || !e.ready || !sourceSettled k e || k.queueFull 3 then d
  else
    d.updCtx c fun k =>
      let t := k.nextTicket 3
      let o : EngOp := { kind := .firing n, ticket := t, cue := e.cue, done := e.done, phase := .queued, result := 0
                         seq := k.seq, gtag := e.gtag, pc := e.pc, pos := 0, fault := none, win := e.win, paid := default }
      let e1 := { e with state := 2, ready := false, stall := stallTicks e (tickOf d c), ticket := t, served := [], counted := [] }
      let e2 := match sourceFault k e with
        | some f => failAll (nodeRes f) e1
        | none => e1
      { (k.setQueue 3 (k.queue 3 ++ [o])) with seq := k.seq + 1, tickets := k.tickets.set 3 t, ctt := k.ctt.set n e2 }

/-- COLLECTIVE_FIRING (R294). -/
def execCollectiveFiring (c n : Nat) (s : State) : Out := .next { s with dev := onTasks s.dev c (fireStep c n) }

/-! ### The image (R298, R299) -/

/-- Bytes of the image without rounding, and its size Z. -/
def srcBytes (k : Ctx) (e : Ctt) : Nat :=
  match e.src with
  | .node i => 512 * tileBits (k.node i).ety
  | .tensor t _ _ => imageBytes t
def imageSize (k : Ctx) (e : Ctt) : Nat := (srcBytes k e + 255) / 256 * 256

/-- Reads pieces of a tensor tile: bytes by offset in the image. -/
def readPieces (c space : Nat) (t : TDesc) : List (Nat × Nat × Nat) → Dev → SMap Byte → EAcc (SMap Byte)
  | [], d, m => .ok d m
  | (a, o, n) :: r, d, m =>
    match eRead d c space a n with
    | .ok d1 bs => readPieces c space t r d1 (((List.range n).zip bs).foldl (fun m x => SMap.set m (o + x.1) x.2) m)
    | .wait d1 => .wait d1
    | .fault d1 cause x => .fault d1 cause x

/-- Pieces of the selected panels of a tensor tile: address, offset in the image, length. -/
def panelPieces (t : TDesc) (R C : Nat) (mask : BitVec 8) : List (Nat × Nat × Nat) :=
  let rb := 8 * tileBits (tdType t)
  ((List.range 64).filter fun i => mask.getLsbD (i / 8)).flatMap fun i =>
    let row := if tdLoc t = 0 then [(imageAddr t (rowOffset t R C i), rb * i, rb)]
      else (List.range (rb / 4)).map fun w => (imageAddr t (rowOffset t R C i + 4 * w), rb * i + 4 * w, 4)
    let sc := if tdBlock t = 0 then []
      else (List.range 64).map fun j =>
        (tdScaleAddr t + scaleOffset t (64 * R + i) (64 * C + j), 64 * rb + blockIndex t i j, 1)
    row ++ sc

/-- Offsets of the image that the mask selects. -/
def selectedOffsets (k : Ctx) (e : Ctt) : List Nat :=
  let rows (rb : Nat) : List Nat := ((List.range 64).filter fun i => e.mask.getLsbD (i / 8)).flatMap fun i =>
    (List.range rb).map fun b => rb * i + b
  match e.src with
  | .node i => rows (8 * tileBits (k.node i).ety)
  | .tensor t R C => ((panelPieces t R C e.mask).flatMap fun p => (List.range p.2.2).map fun b => p.2.1 + b).eraseDups

/-- The image of a tile-name source. -/
def nodeImage (n : Node) (mask : BitVec 8) : SMap Byte :=
  let rb := 8 * tileBits n.ety
  ((List.range 64).filter fun i => mask.getLsbD (i / 8)).foldl (fun m i =>
    ((List.range rb).zip (bytesOf rb (rowNumber n i))).foldl (fun m x => SMap.set m (rb * i + x.1) x.2) m) []

/-- Starts a firing: its source is read (R299). -/
def readSource (d : Dev) (c : Nat) (e : Ctt) : EAcc (SMap Byte) :=
  match e.src with
  | .node i => .ok d (nodeImage ((d.ctx c).node i) e.mask)
  | .tensor t R C => readPieces c (tdSpace t) t (panelPieces t R C e.mask) d []

/-! ### Serving one peer (R298 to R302) -/

/-- The started firing of entry `n` at the head of Q3. -/
def firingAt (d : Dev) (c n : Nat) : Bool :=
  (headIf d c 3 fun o => o.kind == .firing n && o.phase == .started).isSome

/-- The first peer that is neither served nor failed. -/
def nextPeer (e : Ctt) : Option (Nat × Peer) :=
  ((List.range e.peers.length).zip e.peers).find? fun p => !e.served.any fun r => r.idx == p.1

/-- The task of a peer, as R301 asks: of the issuing job, or of a job with its gang. -/
def peerTask (d : Dev) (c : Nat) (p : Peer) : Option Ctx :=
  let at_ := ctxId p.core p.ctx
  let job := (d.ctx c).task.job
  (tasksAt d at_).find? fun k => (k.cond == .resident || k.cond == .saved) &&
    (k.task.job == job || (d.job (pkgOf at_) k.task.job).gang == (d.job (pkgOf c) job).gang)

/-- Address of the image at a peer. -/
def peerDest (k : Ctx) (e : Ctt) (p : Peer) : Nat := p.dest + (if e.op = 1 then e.gslot * imageSize k e else 0)

/-- Checks of a peer (R301). -/
def peerFault (d : Dev) (c : Nat) (e : Ctt) (p : Peer) : Option Nat :=
  if coreDown d p.core || decide (d.npkg ≤ p.core / 2 ^ 11) || routeLost d p.core then some causeRemote
  else
    match peerTask d c p with
    | none => some causeViolation
    | some k =>
      let k0 := d.ctx c
      if (!e.glob && decide (k.allot.spLen < peerDest k0 e p + imageSize k0 e)) ||
          (e.flagAct && p.flag.any fun f => decide (k.allot.spLen < f + 8)) then some causeViolation
      else none

/-- Bytes of the image by address, as units that can be written. -/
def imageCells (k : Ctx) (e : Ctt) (at0 : Nat) : List (Nat × Byte) :=
  (selectedOffsets k e).map fun o => (at0 + o, e.image.get o)

/-- Writes whole words at a place of a core scratchpad. -/
def wrWordsAt (d : Dev) (p : Nat) (bs : List (Bool × Byte)) : Dev :=
  let d1 := (wordsOf p bs.length).foldl (fun d w => if badWord d w && wholeWord p bs w then healWord d w else d) d
  wrPlaces d1 p bs

def writeCells (d : Dev) : List (Nat × List (Nat × Byte)) → Dev
  | [] => d
  | (u, l) :: r => writeCells (wrWordsAt d (u * 4) (unitBytes 4 (u * 4) l)) r

/-- Place of SPACE 0 of a task at a core. -/
def spadPlace (core : Nat) (k : Ctx) (a : Nat) : Nat := core * 2 ^ 20 + (k.allot.spBase + a) % 2 ^ 20

/-- Adds 1 to a peer's flag word; an uncorrectable error there fails the peer. -/
def addFlag (d : Dev) (c : Nat) (e : Ctt) (p : Peer) : Except Nat Dev :=
  match e.flagAct, p.flag, peerTask d c p with
  | true, some f, some k =>
    let pl := spadPlace p.core k f
    if badWord d pl || badWord d (pl + 4) then .error causeRemote
    else .ok (wrPlaces d pl (allBytes (bytesOf 8 (ofBytes (rdPlaces d pl 8) + 1))))
  | _, _, _ => .ok d

/-- What serving a peer comes to: its result, a failure of the firing, a page fault of a write, or a wait. -/
inductive Served where
  | res (d : Dev) (r : PeerRes)
  | all (d : Dev) (r : PeerRes)
  | page (d : Dev) (a : Word)
  | wait (d : Dev)

/-- Forces what a global write of a firing meets (R299), and reserves it for as long as the firing waits (R253). -/
def fireForce (d : Dev) (c n : Nat) (ranges : List (Nat × Nat)) : Except Served Dev :=
  let l := aliasStarts d c ranges
  if l.isEmpty then .ok d
  else
    match reserve d c l with
    | none => .error (.all d (peerRes 0x11))
    | some d0 =>
      let k0 := d0.ctx c
      let need := k0.closure l
      let e := k0.ctt.get n
      let new := (l.map Prod.fst).filter fun i => !e.counted.contains i
      let d1 := forceNodes c need k0.inOrder (d0.updCtx c fun k =>
        (restorePanels ((k.setSpr Spr.aliascnt (k.spr' Spr.aliascnt + BitVec.ofNat 64 new.length))) need).updCtt n fun e =>
          { e with counted := e.counted ++ new })
      let k := d1.ctx c
      match operandFault k l with
      | some f => .error (.all d1 (nodeRes f))
      | none => if (panelsWhere k .pending l).isEmpty then .ok d1 else .error (.wait (d1.updCtx c fun k => k.hold l))

/-- Keeps what has passed of the next transfer of a firing. -/
def keepFiring (n : Nat) (p : Paid) (k : Ctx) : Ctx := k.updCtt n fun e => { e with paid := p }

/-- Serves one peer (R298 to R301). -/
def serve (d : Dev) (c n : Nat) (p : Peer) : Served :=
  let k := d.ctx c
  let e := k.ctt.get n
  match peerFault d c e p with
  | some cause => .res d (peerRes cause)
  | none =>
    let flag (d1 : Dev) : Served :=
      match addFlag d1 c e p with
      | .ok d2 => .res d2 default
      | .error cause => .res d1 (peerRes cause)
    let cells := imageCells k e (peerDest k e p)
    if !e.glob then
      match peerTask d c p with
      | some pk => flag (writeCells d (groupBy 4 (cells.map fun x => (spadPlace p.core pk x.1, x.2))))
      | none => .res d (peerRes causeViolation)
    else
      match fireForce d c n (cells.map fun x => (placeVa + x.1, placeVa + x.1)) with
      | .error s => s
      | .ok d1 =>
        match engineTransfer d1 c e.win e.paid (keepFiring n) fun d => scatterWrite d c 4 cells with
        | .ok d2 _ => flag d2
        | .wait d2 => .wait d2
        | .fault d2 cause a => if cause = causePage then .page d2 a else .res d2 (accessRes cause 2 a)

/-- PEER_WRITE of the task in place: the next peer is served or fails. -/
def peerStep (c n : Nat) (d : Dev) : Dev :=
  if !firingAt d c n then d
  else
    match nextPeer ((d.ctx c).ctt.get n) with
    | none => d
    | some (i, p) =>
      match serve d c n p with
      | .res d1 r => d1.updCtx c fun k => k.updCtt n fun e => { e with served := e.served ++ [{ r with idx := i }] }
      | .all d1 r => d1.updCtx c fun k => k.updCtt n (failAll r)
      | .page d1 a =>
        (engineRecord d1 c 3 2 a ((d1.ctx c).ctt.get n).pc (BitVec.ofNat 64 p.dest) 0xD09).updCtx c fun k =>
          k.updHead 3 fun o => { o with phase := .suspended }
      | .wait d1 => d1

/-- PEER_WRITE (R298). -/
def execPeerWrite (c n : Nat) (s : State) : Out := .next { s with dev := onTasks s.dev c (peerStep c n) }

/-- The lowest failing peer. -/
def lowestFail (e : Ctt) : Option (Nat × PeerRes) :=
  (List.range e.peers.length).findSome? fun i => (e.served.find? fun r => r.idx == i && r.cause != 0).map fun r => (i, r)

/-- The trap of a firing that failed (R301). -/
def firingTrap (n : Nat) (e : Ctt) (i : Nat) (r : PeerRes) : TrapRec :=
  { (default : TrapRec) with
    cause := r.cause, info0 := BitVec.ofNat 64 (at_ e.peers i).dest, info1 := 0xD09, info2 := BitVec.ofNat 64 e.ticket
    info3 := BitVec.ofNat 64 (i + n * 2 ^ 8 + r.inner % 256 * 2 ^ 16), imp := true, access := r.access, va := r.va
    slot := 6, opc := 9, nodePc := r.pc, nodeBclk := r.bclk }

/-- FIRING_COMPLETION of the task in place (R300, R301). -/
def firingDoneStep (c n : Nat) (d : Dev) : Dev :=
  let e := (d.ctx c).ctt.get n
  if !firingAt d c n || (nextPeer e).isSome then d
  else
    let fail := lowestFail e
    let d1 := (finishHead d c 3 (fail.elim 0 fun x => x.2.cause)).updCtx c fun k =>
      let k1 := match fail with
        | some (i, r) => { k with asyncs := k.asyncs ++ [firingTrap n e i r] }
        | none => k
      sweep (k1.updCtt n fun e => { e with state := 0, src := default, image := [], served := [], peers := e.peers })
    completeHead d1 c 3

/-- FIRING_COMPLETION (R300). -/
def execFiringCompletion (c n : Nat) (s : State) : Out := .next { s with dev := onTasks s.dev c (firingDoneStep c n) }

/-! ## Deadlines (R304) -/

/-- DEADLINE_REACHED (R304). -/
def execDeadlineReached (c n : Nat) (s : State) : Out := .next { s with dev := onTasks s.dev c fun d => notify d c n }

/-- A task is resident or saved at a context number. -/
def Ctx.alive (k : Ctx) : Bool := k.cond == .resident || k.cond == .saved

/-- The deadline bit pends in the task of a context number: the one in place, or else the first that is spilled. -/
def noticeAt (d : Dev) (c : Nat) : Dev :=
  if (d.ctx c).alive then d.updCtx c fun k => k.pendCue 6
  else
    match d.spilled.findIdx? fun s => s.1 == c with
    | some i =>
      match d.spilled[i]? with
      | some (_, k) => { d with spilled := setAt d.spilled i (c, k.pendCue 6) }
      | none => d
    | none => d

/-- DEADLINE_NOTICE (R304). -/
def execDeadlineNotice (m : Nat) (s : State) : Out :=
  .next { s with dev :=
    match s.dev.msgs[m]? with
    | some (.notice c) => noticeAt { s.dev with msgs := s.dev.msgs.eraseIdx m } c
    | _ => s.dev }

/-- A cancelled job's entries empty, and its firings go (R302). -/
def emptyEntries (k : Ctx) : Ctx :=
  sweep { k with ctt := k.ctt.map fun (i, e) => (i, { e with state := 0, src := default, image := [], served := [] }) }

end Sys2Proof.Machine
end

