-- ==== Sys2Proof/Machine/Scalar.lean ====
section
/-! DEFINITION. The SCL instructions of formats SR and SI (R172 to R177). -/

namespace Sys2Proof.Machine

/-- The condition codes of R61. -/
def condHolds (c : Cond) (a b : Word) : Bool :=
  match c with
  | .eq => a == b
  | .ne => a != b
  | .lt => a.slt b
  | .ge => !a.slt b
  | .ltu => a.ult b
  | .geu => !a.ult b

/-- SignExtend(imm32) (R177). -/
def imm64 (i : BitVec 32) : Word := i.signExtend 64

/-- The shift count of R173: bits [5:0]. -/
def shiftCount (b : Word) : Nat := bits b 0 6

def clzWord (a : Word) : Nat := if a = 0#64 then 64 else 63 - Nat.log2 a.toNat

/-- Trailing zeros, found from bit `64 - n` up. -/
def ctzFrom (a : Word) : Nat → Nat
  | 0 => 64
  | n + 1 => if a.getLsbD (63 - n) then 63 - n else ctzFrom a n

def ctzWord (a : Word) : Nat := ctzFrom a 64

def popcWord (a : Word) : Nat := ((List.range 64).filter fun i => a.getLsbD i).length

/-- The field of R175. -/
def extField (sg : Bool) (a : Word) (pos len : Nat) : Word :=
  let l := min len 64
  if l = 0 then 0#64
  else
    let f := a.toNat / 2 ^ pos % 2 ^ l
    if sg then wordOf (sext l f) else BitVec.ofNat 64 f

/-- The quotient rounded toward zero and the remainder with the dividend's sign (R174), for a nonzero divisor. -/
def quotient (u : Bool) (a b : Word) : Word := if u then a / b else a.sdiv b
def remainder (u : Bool) (a b : Word) : Word := if u then a % b else a.srem b

/-- The high half of the exact product (R173). -/
def mulHigh (m : MulhMode) (a b : Word) : Word :=
  let x : Int := if m = .uu then a.toNat else a.toInt
  let y : Int := if m = .ss then b.toInt else b.toNat
  wordOf (x * y / 2 ^ 64)

/-- INT_DIVZERO, taken when the guard selects the syllable (R174). -/
def divChecks (g : Guard) (sa sb : BitVec 6) (E : Env) (_ : Dev) : List Hit :=
  if E.on g && E.rdS sb == 0#64 then
    [E.hit 9 { E.trap 0x0E with info0 := E.rdS sa, info1 := E.tag false, info2 := 0, info3 := 0 }]
  else []

/-- `nop` (R173). -/
def execNop (g : Guard) (s : State) : Out := syllable (.nop g) s noChecks fun _ w => .ok w none

/-- `add` (R173). -/
def execAdd (x : ScR3) (s : State) : Out :=
  scalarSyl (.add x) s x.g 1 x.sd fun E => E.rdS x.sa + E.rdS x.sb

/-- `sub` (R173). -/
def execSub (x : ScR3) (s : State) : Out :=
  scalarSyl (.sub x) s x.g 1 x.sd fun E => E.rdS x.sa - E.rdS x.sb

/-- `and` (R173). -/
def execAnd (x : ScR3) (s : State) : Out :=
  scalarSyl (.and x) s x.g 1 x.sd fun E => E.rdS x.sa &&& E.rdS x.sb

/-- `or` (R173). -/
def execOr (x : ScR3) (s : State) : Out :=
  scalarSyl (.or x) s x.g 1 x.sd fun E => E.rdS x.sa ||| E.rdS x.sb

/-- `xor` (R173). -/
def execXor (x : ScR3) (s : State) : Out :=
  scalarSyl (.xor x) s x.g 1 x.sd fun E => E.rdS x.sa ^^^ E.rdS x.sb

/-- `andn` (R173). -/
def execAndn (x : ScR3) (s : State) : Out :=
  scalarSyl (.andn x) s x.g 1 x.sd fun E => E.rdS x.sa &&& ~~~(E.rdS x.sb)

/-- `shl` (R173). -/
def execShl (x : ScR3) (s : State) : Out :=
  scalarSyl (.shl x) s x.g 1 x.sd fun E => E.rdS x.sa <<< shiftCount (E.rdS x.sb)

/-- `shr` (R173). -/
def execShr (x : ScR3) (s : State) : Out :=
  scalarSyl (.shr x) s x.g 1 x.sd fun E => E.rdS x.sa >>> shiftCount (E.rdS x.sb)

/-- `sar` (R173). -/
def execSar (x : ScR3) (s : State) : Out :=
  scalarSyl (.sar x) s x.g 1 x.sd fun E => (E.rdS x.sa).sshiftRight (shiftCount (E.rdS x.sb))

/-- `rol` (R173). -/
def execRol (x : ScR3) (s : State) : Out :=
  scalarSyl (.rol x) s x.g 1 x.sd fun E => (E.rdS x.sa).rotateLeft (shiftCount (E.rdS x.sb))

/-- `mul` (R173). -/
def execMul (x : ScR3) (s : State) : Out :=
  scalarSyl (.mul x) s x.g 3 x.sd fun E => E.rdS x.sa * E.rdS x.sb

/-- `min` (R173). -/
def execMin (x : ScR3u) (s : State) : Out :=
  scalarSyl (.min x) s x.g 1 x.sd fun E =>
    let a := E.rdS x.sa
    let b := E.rdS x.sb
    if (if x.u then a.ult b else a.slt b) then a else b

/-- `max` (R173). -/
def execMax (x : ScR3u) (s : State) : Out :=
  scalarSyl (.max x) s x.g 1 x.sd fun E =>
    let a := E.rdS x.sa
    let b := E.rdS x.sb
    if (if x.u then a.ult b else a.slt b) then b else a

/-- `mulh` (R173). -/
def execMulh (mode : MulhMode) (x : ScR3) (s : State) : Out :=
  scalarSyl (.mulh mode x) s x.g 3 x.sd fun E => mulHigh mode (E.rdS x.sa) (E.rdS x.sb)

/-- `div` (R173, R174). -/
def execDiv (x : ScR3u) (s : State) : Out :=
  syllable (.div x) s (divChecks x.g x.sa x.sb) fun E w =>
    if E.on x.g then .ok (E.putS w 24 x.sd (quotient x.u (E.rdS x.sa) (E.rdS x.sb))) none else .ok w none

/-- `rem` (R173, R174). -/
def execRem (x : ScR3u) (s : State) : Out :=
  syllable (.rem x) s (divChecks x.g x.sa x.sb) fun E w =>
    if E.on x.g then .ok (E.putS w 24 x.sd (remainder x.u (E.rdS x.sa) (E.rdS x.sb))) none else .ok w none

/-- `clz` (R173). -/
def execClz (x : ScR2) (s : State) : Out :=
  scalarSyl (.clz x) s x.g 1 x.sd fun E => BitVec.ofNat 64 (clzWord (E.rdS x.sa))

/-- `ctz` (R173). -/
def execCtz (x : ScR2) (s : State) : Out :=
  scalarSyl (.ctz x) s x.g 1 x.sd fun E => BitVec.ofNat 64 (ctzWord (E.rdS x.sa))

/-- `popc` (R173). -/
def execPopc (x : ScR2) (s : State) : Out :=
  scalarSyl (.popc x) s x.g 1 x.sd fun E => BitVec.ofNat 64 (popcWord (E.rdS x.sa))

/-- `ext` (R175): pos is sb[5:0] and len sc[6:0]. -/
def execExt (sg : Bool) (x : ScR3) (sc : BitVec 6) (s : State) : Out :=
  scalarSyl (.ext sg x sc) s x.g 1 x.sd fun E =>
    extField sg (E.rdS x.sa) (bits (E.rdS x.sb) 0 6) (bits (E.rdS sc) 0 7)

/-- `set` (R173). -/
def execSet (cond : Cond) (x : ScR3) (s : State) : Out :=
  scalarSyl (.set cond x) s x.g 1 x.sd fun E => bitWord (condHolds cond (E.rdS x.sa) (E.rdS x.sb))

/-- `csel` (R173). -/
def execCsel (x : ScR3) (sc : BitVec 6) (s : State) : Out :=
  scalarSyl (.csel x sc) s x.g 1 x.sd fun E => if E.rdS sc = 0#64 then E.rdS x.sb else E.rdS x.sa

/-- `setp` (R176): all 256 bits of the predicate. -/
def execSetp (cond : Cond) (g : Guard) (pd : BitVec 4) (sa sb : BitVec 6) (s : State) : Out :=
  syllable (.setp cond g pd sa sb) s noChecks fun E w =>
    if E.on g then
      .ok (E.putP w 1 pd (if condHolds cond (E.rdS sa) (E.rdS sb) then BitVec.allOnes 256 else 0)) none
    else .ok w none

/-- `addi` (R177). -/
def execAddi (x : ScI) (s : State) : Out :=
  scalarSyl (.addi x) s x.g 1 x.sd fun E => E.rdS x.sa + imm64 x.imm

/-- `andi` (R177). -/
def execAndi (x : ScI) (s : State) : Out :=
  scalarSyl (.andi x) s x.g 1 x.sd fun E => E.rdS x.sa &&& imm64 x.imm

/-- `ori` (R177). -/
def execOri (x : ScI) (s : State) : Out :=
  scalarSyl (.ori x) s x.g 1 x.sd fun E => E.rdS x.sa ||| imm64 x.imm

/-- `xori` (R177). -/
def execXori (x : ScI) (s : State) : Out :=
  scalarSyl (.xori x) s x.g 1 x.sd fun E => E.rdS x.sa ^^^ imm64 x.imm

/-- `shli` (R177). -/
def execShli (x : ScSh) (s : State) : Out :=
  scalarSyl (.shli x) s x.g 1 x.sd fun E => E.rdS x.sa <<< x.n.toNat

/-- `shri` (R177). -/
def execShri (x : ScSh) (s : State) : Out :=
  scalarSyl (.shri x) s x.g 1 x.sd fun E => E.rdS x.sa >>> x.n.toNat

/-- `sari` (R177). -/
def execSari (x : ScSh) (s : State) : Out :=
  scalarSyl (.sari x) s x.g 1 x.sd fun E => (E.rdS x.sa).sshiftRight x.n.toNat

/-- `muli` (R177). -/
def execMuli (x : ScI) (s : State) : Out :=
  scalarSyl (.muli x) s x.g 3 x.sd fun E => E.rdS x.sa * imm64 x.imm

/-- `movi` (R177). -/
def execMovi (g : Guard) (sd : BitVec 6) (imm : BitVec 32) (s : State) : Out :=
  scalarSyl (.movi g sd imm) s g 1 sd fun _ => imm64 imm

/-- `movhi` (R177). -/
def execMovhi (x : ScI) (s : State) : Out :=
  scalarSyl (.movhi x) s x.g 1 x.sd fun E => x.imm ++ (E.rdS x.sa).extractLsb' 0 32

/-- `seti` (R177). -/
def execSeti (cond : Cond) (x : ScI) (s : State) : Out :=
  scalarSyl (.seti cond x) s x.g 1 x.sd fun E => bitWord (condHolds cond (E.rdS x.sa) (imm64 x.imm))

end Sys2Proof.Machine
end

