-- ==== Sys2Proof/Machine/Control.lean ====
section
/-! DEFINITION. Control transfers and the rotating loop (R53, R178 to R180). -/

namespace Sys2Proof.Machine

/-- A + off (R179). -/
def Env.branchTo (E : Env) (off : BitVec 32) : Word := E.addr + imm64 off

/-- A transfer that is taken on a condition, when its guard selects it (R178). -/
def transfer (i : Instr) (s : State) (g : Guard) (off : BitVec 32) (taken : Env → Bool) : Out :=
  syllable i s noChecks fun E w => .ok w (if E.on g && taken E then some (E.branchTo off) else none)

/-- `br` (R61, R179). -/
def execBr (cond : Cond) (g : Guard) (sa sb : BitVec 6) (off : BitVec 32) (s : State) : Out :=
  transfer (.br cond g sa sb off) s g off fun E => condHolds cond (E.rdS sa) (E.rdS sb)

/-- `jmp` (R179). -/
def execJmp (g : Guard) (off : BitVec 32) (s : State) : Out := transfer (.jmp g off) s g off fun _ => true

/-- `call` (R179): s1 receives the return address at the next count. -/
def execCall (g : Guard) (off : BitVec 32) (s : State) : Out :=
  syllable (.call g off) s noChecks fun E w =>
    if E.on g then .ok (E.putS w 1 1#6 E.next) (some (E.branchTo off)) else .ok w none

/-- A register target must be a multiple of 8 (R53). -/
def targetChecks (sa : BitVec 6) (off : BitVec 32) (E : Env) (_ : Dev) : List Hit :=
  let t := E.rdS sa + imm64 off
  if alignedTo 8 t.toNat then [] else [E.hit 9 { E.trap 0x08 with info2 := t }]

/-- `jr` (R179). -/
def execJr (g : Guard) (sa : BitVec 6) (off : BitVec 32) (s : State) : Out :=
  syllable (.jr g sa off) s (targetChecks sa off) fun E w =>
    .ok w (if E.on g then some (E.rdS sa + imm64 off) else none)

/-- `callr` (R179): sa is read before s1 is written. -/
def execCallr (g : Guard) (sa : BitVec 6) (off : BitVec 32) (s : State) : Out :=
  syllable (.callr g sa off) s (targetChecks sa off) fun E w =>
    if E.on g then .ok (E.putS w 1 1#6 E.next) (some (E.rdS sa + imm64 off)) else .ok w none

/-- Rotate() of R180 on ROTOFS, which holds VOFS in [3:0] and POFS in [10:8]. -/
def rotated (vofs pofs : Nat) : Word := BitVec.ofNat 64 ((vofs + 15) % 16 + (pofs + 7) % 8 * 256)

/-- The entry of p8 as mapped after Rotate() (R180). -/
def Env.newStage (E : Env) (w : Dev) (v : Pred) : Dev :=
  addEntry w E.c (E.entry 1 (.pred (8 + (E.k.pofs + 7) % 8)) (v.setWidth 2048))

/-- `loop` (R180). -/
def execLoop (g : Guard) (off : BitVec 32) (s : State) : Out :=
  syllable (.loop g off) s
    (fun E _ => if E.k.allot.vSize = 32 then [] else [E.hitNow (E.trap 0x18)])
    fun E w =>
      let pass := E.k.spr' Spr.passcnt
      let drain := E.k.spr' Spr.draincnt
      let turn (n : Nat) (v : Word) : Dev :=
        w.updCtx E.c fun k => (k.setSpr n v).setSpr Spr.rotofs (rotated E.k.vofs E.k.pofs)
      if !E.on g then .ok w none
      else if pass ≠ 0#64 then
        .ok (E.newStage (turn Spr.passcnt (pass - 1)) (BitVec.allOnes 256)) (some (E.branchTo off))
      else if drain ≠ 0#64 then .ok (E.newStage (turn Spr.draincnt (drain - 1)) 0) (some (E.branchTo off))
      else .ok w none

/-- `brp` (R179): all 256 bits of the predicate are tested. -/
def execBrp (mode : BrpMode) (g : Guard) (p : BitVec 4) (off : BitVec 32) (s : State) : Out :=
  transfer (.brp mode g p off) s g off fun E =>
    match mode with
    | .any => E.rdP p != 0
    | .all => E.rdP p == BitVec.allOnes 256
    | .none => E.rdP p == 0

end Sys2Proof.Machine
end

