-- ==== Sys2Proof/Machine/Grammar.lean ====
section
/-! DEFINITION. The grammar unit: tables, sessions, and the operations of `gload`, `gstep` and `gmask` (R308 to R319). -/

namespace Sys2Proof.Machine

/-- Bytes of a session block (R312). -/
def blockSize : Nat := 2112

/-! ## Reading the tables (R308 to R311) -/

/-- A read of the tables: a value, a pin in the way, GRAMMAR_FAULT (inner cause, category, address), or a page fault. -/
inductive Tab (α : Type) where
  | ok (d : Dev) (v : α)
  | wait (d : Dev)
  | bad (d : Dev) (inner cat addr : Nat)
  | page (d : Dev) (addr : Word)

def Tab.bind {α β : Type} (x : Tab α) (f : Dev → α → Tab β) : Tab β :=
  match x with
  | .ok d v => f d v
  | .wait d => .wait d
  | .bad d i c a => .bad d i c a
  | .page d a => .page d a

/-- `n` bytes of an entry at a virtual address, as a number. -/
def tabRead (d : Dev) (c a n : Nat) : Tab Nat :=
  match gRead d c false a n with
  | .ok d1 bs => .ok d1 (ofBytes bs)
  | .wait d1 => .wait d1
  | .fault d1 cause va => if cause = causePage then .page d1 va else .bad d1 cause 0 a

/-- An address as R308 limits it. -/
def tabAddr (a : Nat) : Bool := a % 16 == 0 && decide (a < 2 ^ 48)

/-- A grammar header (R308). -/
structure GHeader where
  ntok : Nat
  nclass : Nat
  nstate : Nat
  start : Nat
  cmap : Nat
  states : Nat
  present : Nat
  deriving DecidableEq, Repr, Inhabited

def headerOf (x : Nat) : GHeader :=
  { ntok := nbits x 0 32, nclass := nbits x 32 16, nstate := nbits x 64 32, start := nbits x 96 32
    cmap := nbits x 128 64, states := nbits x 192 64, present := nbits x 256 64 }

/-- A header within the limits of R308 and of capability 0x0001 (R21). -/
def headerOk (feat : Word) (g x : Nat) : Bool :=
  let h := headerOf x
  tabAddr g && g % 64 == 0 && decide (1 ≤ h.ntok) && decide (h.ntok ≤ bits feat 8 24) && decide (1 ≤ h.nclass) &&
    decide (h.nclass ≤ bits feat 32 16) && nbits x 48 16 == 0 && decide (1 ≤ h.nstate) && decide (h.nstate ≤ 2 ^ 24) &&
    decide (h.start < h.nstate) && tabAddr h.cmap && tabAddr h.states && tabAddr h.present && nbits x 320 192 == 0

def readHeader (d : Dev) (c g : Nat) : Tab GHeader :=
  (tabRead d c g 64).bind fun d1 x =>
    if headerOk ((d.feat 1).getD 0) g x then .ok d1 (headerOf x) else .bad d1 0 1 g

/-- A state entry: rows, their number, and whether it accepts (R309). -/
structure GState where
  rows : Nat
  nrow : Nat
  acc : Bool
  deriving DecidableEq, Repr, Inhabited

def readState (d : Dev) (c : Nat) (h : GHeader) (q : Nat) : Tab GState :=
  let a := h.states + 16 * q
  (tabRead d c a 16).bind fun d1 x =>
    if tabAddr (nbits x 0 64) && decide (nbits x 64 16 ≤ 4096) && nbits x 81 47 == 0 then
      .ok d1 { rows := nbits x 0 64, nrow := nbits x 64 16, acc := nbit x 80 }
    else .bad d1 0 2 a

/-- A row: its top symbol, its transitions and its class set (R309). -/
structure GRow where
  top : Nat
  ntr : Nat
  set : Nat
  deriving DecidableEq, Repr, Inhabited

/-- Searches the rows of a state from the first on; `low` is what the next TOP must reach (R309). -/
def findRow (c top : Nat) : Nat → Nat → Nat → Dev → Tab (Option GRow)
  | 0, _, _, d => .ok d none
  | n + 1, a, low, d =>
    (tabRead d c a 16).bind fun d1 x =>
      let r : GRow := { top := nbits x 0 16, ntr := nbits x 16 16, set := nbits x 64 64 }
      if r.top < low || r.ntr == 0 || decide (4096 < r.ntr) || nbits x 32 32 != 0 || !tabAddr r.set then .bad d1 0 3 a
      else if r.top = top then .ok d1 (some r)
      else if top < r.top then .ok d1 none
      else findRow c top n (a + 16) (r.top + 1) d1

/-- The row of a state and a top symbol, if there is one. -/
def readRow' (d : Dev) (c : Nat) (h : GHeader) (q top : Nat) : Tab (Option GRow) :=
  (readState d c h q).bind fun d1 st => findRow c top st.nrow st.rows 0 d1

/-- Classes of a set below a class. -/
def classesBelow (set k : Nat) : Nat := ((List.range k).filter fun i => nbit set i).length

/-- The class set of a row: as many classes as the row has transitions, all of them classes of the grammar (R310). -/
def readSet (d : Dev) (c : Nat) (h : GHeader) (r : GRow) : Tab Nat :=
  (tabRead d c r.set 512).bind fun d1 set =>
    if classesBelow set 4096 ≠ r.ntr || decide (2 ^ h.nclass ≤ set) then .bad d1 0 4 r.set else .ok d1 set

/-- A transition (R310). -/
structure GTrans where
  next : Nat
  sym : Nat
  act : Nat
  deriving DecidableEq, Repr, Inhabited

/-- The transition of class `k`, whose bit is set: its place is the number of lower classes in the set (R310). -/
def readTrans (d : Dev) (c : Nat) (h : GHeader) (r : GRow) (set k : Nat) : Tab GTrans :=
  let i := classesBelow set k
  let a := r.set + 512 + 8 * i
  if r.ntr ≤ i then .bad d 0 4 a
  else
    (tabRead d c a 8).bind fun d1 x =>
      let t : GTrans := { next := nbits x 40 24, sym := nbits x 24 16, act := nbits x 16 2 }
      if nbits x 0 16 != k || decide (h.nclass ≤ k) || nbits x 18 6 != 0 || t.act == 3 || ((t.act == 1) == (t.sym == 0)) ||
          decide (h.nstate ≤ t.next) || (t.act == 2 && r.top == 0) then .bad d1 0 4 a
      else .ok d1 t

/-- The class of one token (R308). -/
def readClass (d : Dev) (c : Nat) (h : GHeader) (t : Nat) : Tab Nat :=
  (tabRead d c (h.cmap + 2 * t) 2).bind fun d1 x => if x < h.nclass then .ok d1 x else .bad d1 0 5 (h.cmap + 2 * t)

/-- Classes of tokens, line by line of the map. -/
def readClasses (c : Nat) (h : GHeader) : List (Nat × Nat) → Dev → List Nat → Tab (List Nat)
  | [], d, acc => .ok d acc
  | (a, n) :: r, d, acc =>
    (tabRead d c a n).bind fun d1 x =>
      let ks := (List.range (n / 2)).map fun i => nbits x (16 * i) 16
      match (List.range (n / 2)).find? fun i => decide (h.nclass ≤ nbits x (16 * i) 16) with
      | some i => .bad d1 0 5 (a + 2 * i)
      | none => readClasses c h r d1 (acc ++ ks)

/-! ## Session blocks (R312) -/

/-- A session block as its number; fields at their byte offsets. -/
def blkGram (b : Nat) : Nat := nbits b 0 64
def blkState (b : Nat) : Nat := nbits b 64 32
def blkDepth (b : Nat) : Nat := nbits b 96 16
def blkMaxd (b : Nat) : Nat := nbits b 112 16
def blkNtok (b : Nat) : Nat := nbits b 128 32
def blkSteps (b : Nat) : Nat := nbits b 160 32
def blkAcc (b : Nat) : Bool := nbit b 200
def blkSym (b i : Nat) : Nat := nbits b (512 + 16 * i) 16
def blkTop (b : Nat) : Nat := if blkDepth b = 0 then 0 else blkSym b (blkDepth b - 1)

/-- A block whose own fields keep their limits. -/
def blockOk (b : Nat) : Bool :=
  blkGram b % 64 == 0 && decide (blkGram b < 2 ^ 48) && decide (1 ≤ blkMaxd b) && decide (blkMaxd b ≤ 1024) &&
    decide (blkDepth b ≤ blkMaxd b) && nbits b 201 23 == 0 && nbits b 256 256 == 0 &&
    (List.range (blkDepth b)).all fun i => blkSym b i != 0

/-- Reads and checks a block with its header (R312). -/
def readBlock (d : Dev) (c a : Nat) : Tab (Nat × GHeader) :=
  match badRecord d c a blockSize with
  | some w => .bad d causeRemote 0 w
  | none =>
    let b := rdSpad d c a blockSize
    if !blockOk b then .bad d 0 6 a
    else
      (readHeader d c (blkGram b)).bind fun d1 h =>
        if blkNtok b = h.ntok && blkState b < h.nstate then .ok d1 (b, h) else .bad d1 0 6 a

/-- Bytes of a block from its fields: the first 32, then 32 zeros, then the stack. -/
def blockBytes (gram st depth maxd ntok steps status : Nat) (acc : Bool) (last : Nat) (stack : List Byte) : List Byte :=
  bytesOf 8 gram ++ bytesOf 4 st ++ bytesOf 2 depth ++ bytesOf 2 maxd ++ bytesOf 4 ntok ++ bytesOf 4 steps ++
    bytesOf 1 status ++ bytesOf 1 (if acc then 1 else 0) ++ bytesOf 2 0 ++ bytesOf 4 last ++ bytesOf 32 0 ++ stack

/-! ## The operations (R316 to R318) -/

/-- What an operation writes: scratchpad address and bytes, in order. -/
abbrev GWrites := List (Nat × List Byte)

/-- `gload`'s operation (R316). -/
def loadOp (d : Dev) (c blk gram cap : Nat) : Tab GWrites :=
  (readHeader d c gram).bind fun d1 h =>
    (readState d1 c h h.start).bind fun d2 st =>
      .ok d2 [(blk, blockBytes gram h.start 0 cap h.ntok 0 0 st.acc 0xFFFFFFFF (bytesOf 2048 0))]

/-- STATUS alone is written when a step is not taken. -/
def statusOnly (blk status : Nat) : GWrites := [(blk + 24, bytesOf 1 status)]

/-- `gstep`'s operation (R317). -/
def stepOp (d : Dev) (c blk tok : Nat) : Tab GWrites :=
  (readBlock d c blk).bind fun d1 (b, h) =>
    if blkNtok b ≤ tok then .ok d1 (statusOnly blk 4)
    else
      (readClass d1 c h tok).bind fun d2 k =>
        (readRow' d2 c h (blkState b) (blkTop b)).bind fun d3 row =>
          match row with
          | none => .ok d3 (statusOnly blk 1)
          | some r =>
            (readSet d3 c h r).bind fun d4 set =>
              if !nbit set k then .ok d4 (statusOnly blk 1)
              else
                (readTrans d4 c h r set k).bind fun d5 t =>
                  let depth := blkDepth b
                  if t.act = 1 && depth = blkMaxd b then .ok d5 (statusOnly blk 5)
                  else
                    (readState d5 c h t.next).bind fun d6 st =>
                      let depth1 := if t.act = 1 then depth + 1 else if t.act = 2 then depth - 1 else depth
                      let head := blockBytes (blkGram b) t.next depth1 (blkMaxd b) (blkNtok b) ((blkSteps b + 1) % 2 ^ 32) 0
                        (st.acc && depth1 == 0) tok []
                      .ok d6 ((blk, head) :: (if t.act = 1 then [(blk + 64 + 2 * depth, bytesOf 2 t.sym)] else []))

/-- Classes among a list that the row allows (R318). -/
def allowedClasses (c : Nat) (h : GHeader) (r : GRow) (set : Nat) (full : Bool) : List Nat → Dev → List Nat → Tab (List Nat)
  | [], d, acc => .ok d acc
  | k :: ks, d, acc =>
    if full then
      (readTrans d c h r set k).bind fun d1 t =>
        allowedClasses c h r set full ks d1 (if t.act = 1 then acc else acc ++ [k])
    else allowedClasses c h r set full ks d (acc ++ [k])

/-- The classes a block allows. -/
def allowed (d : Dev) (c : Nat) (b : Nat) (h : GHeader) : Tab (List Nat) :=
  (readRow' d c h (blkState b) (blkTop b)).bind fun d1 row =>
    match row with
    | none => .ok d1 []
    | some r =>
      (readSet d1 c h r).bind fun d2 set =>
        (tabRead d2 c h.present 512).bind fun d3 present =>
          allowedClasses c h r set (blkDepth b == blkMaxd b)
            ((List.range 4096).filter fun k => nbit set k && nbit present k) d3 []

/-- Bytes of a mask from the legality of the window's tokens. -/
def maskBytes (words : Bool) (size : Nat) (legal : List Bool) : List Byte :=
  if words then legal.flatMap fun b => bytesOf 4 (if b then 0xFFFFFFFF else 0)
  else bytesOf size (packN 1 (legal.map fun b => if b then 1 else 0))

/-- `gmask`'s operation (R318). -/
def maskOp (d : Dev) (c blk addr first n : Nat) (words : Bool) : Tab GWrites :=
  (readBlock d c blk).bind fun d1 (b, h) =>
    (allowed d1 c b h).bind fun d2 ks =>
      let hi := Nat.min (first + 2048 * n) (blkNtok b)
      let pieces := if ks.isEmpty || hi ≤ first then [] else linePieces (2 * (hi - first) + 1) (h.cmap + 2 * first) (2 * (hi - first))
      (readClasses c h pieces d2 []).bind fun d3 cls =>
        let legal := (List.range (2048 * n)).map fun i =>
          match cls[i]? with
          | some k => ks.contains k
          | none => false
        let status := if !ks.isEmpty then 0 else if blkAcc b then 2 else 3
        .ok d3 [(addr, maskBytes words (256 * n) legal), (blk + 24, bytesOf 1 status)]

/-! ## Performing in Q4 (R315, R319) -/

/-- Writes bytes of SPACE 0 that need not be whole words. -/
def putSpad (d : Dev) (c : Nat) (w : Nat × List Byte) : Dev := wrSpad d c w.1 w.2

/-- The trap of R319. -/
def grammarTrap (opc inner cat addr tok : Nat) : TrapRec :=
  { (default : TrapRec) with
    cause := 0x1B, info0 := BitVec.ofNat 64 (inner + cat * 256), info1 := BitVec.ofNat 64 (opc + 256 + 6 * 512)
    info2 := BitVec.ofNat 64 addr, info3 := BitVec.ofNat 64 tok, imp := true, slot := 6, opc := opc
    access := if inner = 0 then 0 else 1, va := if inner = 0 then 0 else BitVec.ofNat 64 addr }

/-- What the reads of an operation come to: what it writes, or its GRAMMAR_FAULT. -/
inductive GRes where
  | writes (ws : GWrites)
  | bad (inner cat addr : Nat)

/-- The reads of an operation as one transfer. -/
def Tab.acc : Tab GWrites → EAcc GRes
  | .ok d ws => .ok d (.writes ws)
  | .wait d => .wait d
  | .bad d inner cat addr => .ok d (.bad inner cat addr)
  | .page d a => .fault d causePage a

/-- Performs the head operation of Q4 (R315): written and finished, faulted, suspended, or waiting for a pin or a bucket. A page
fault is recorded with the tag of its instruction (log entry 92). -/
def performGrammar (d : Dev) (c : Nat) (o : EngOp) (blk opc tok : Nat) (run : Dev → Tab GWrites) : Dev :=
  match headTransfer d c 4 o fun d => (run d).acc with
  | .ok d1 (.writes ws) => finishHead (ws.foldl (fun d w => putSpad d c w) d1) c 4 0
  | .ok d1 (.bad inner cat addr) =>
    (finishHead (putSpad d1 c (blk + 24, bytesOf 1 0xFF)) c 4 0x1B).updCtx c fun k =>
      { k with asyncs := k.asyncs ++ [grammarTrap opc inner cat addr tok] }
  | .wait d1 => d1
  | .fault d1 _ a =>
    (engineRecord d1 c 4 1 a o.pc (BitVec.ofNat 64 causePage) (BitVec.ofNat 64 (opc + 256 + 6 * 512))).updCtx c fun k =>
      k.updHead 4 fun o => { o with phase := .suspended }

/-- The grammar operation at the head of Q4. -/
def grammarStep (d : Dev) (c : Nat) (o : EngOp) : Dev :=
  match o.kind with
  | .gload blk gram cap => performGrammar d c o blk 0x10 0 fun d => loadOp d c blk gram.toNat cap
  | .gstep blk tok => performGrammar d c o blk 0x11 tok.toNat fun d => stepOp d c blk tok.toNat
  | .gmask blk addr first n words => performGrammar d c o blk 0x12 0 fun d => maskOp d c blk addr first n words
  | _ => d

/-! ## The instructions -/

/-- Alignment and range of a block or a mask (R315, R316, R318). -/
def Env.spadHits (E : Env) (a : Word) (align n access : Nat) : List Hit :=
  E.fails [(!alignedTo align a.toNat, E.badAddr 0x08 a access), (outOfSpace E.k 0 a.toNat n, E.badAddr 0x09 a access)]

/-- Place range of bytes of SPACE 0. -/
def spadRange (d : Dev) (c a n : Nat) : Nat × Nat := (placeOf d c 0 a, placeOf d c 0 a + n - 1)

/-- `gload` (R316). -/
def execGload (x : AsD) (sb : BitVec 6) (cap : BitVec 11) (s : State) : Out :=
  syllable (.gload x sb cap) s (fun E _ => E.spadHits (E.rdS x.sa) 64 blockSize 2) fun E w =>
    if !E.on x.g then .ok w none
    else
      let a := (E.rdS x.sa).toNat
      let g := E.rdS sb
      engineEff E w 4 x.cue x.sd [(decide (2 ^ 48 ≤ g.toNat), codeRange), (g.toNat % 64 != 0, codeAlign)]
        (fun d => [spadRange d E.c a blockSize]) (fun w1 => w1.updCtx E.c fun k => k.setSpr Spr.gsess (E.rdS x.sa))
        { kind := .gload a g cap.toNat, done := none, pos := 0 }

/-- The open session (R314). -/
def Env.session (E : Env) : Word := E.k.spr' Spr.gsess

/-- Checks of the open session's block (R315). -/
def Env.sessionHits (E : Env) : List Hit := if E.session = 0#64 then [] else E.spadHits E.session 64 blockSize 3

/-- `gstep` (R317). -/
def execGstep (x : AsH) (s : State) : Out :=
  syllable (.gstep x) s (fun E _ => E.sessionHits) fun E w =>
    if !E.on x.g then .ok w none
    else
      let a := E.session.toNat
      engineEff E w 4 x.cue x.sd [(E.session == 0#64, codeState)] (fun d => [spadRange d E.c a blockSize]) id
        { kind := .gstep a (E.rdS x.sb), done := none, pos := 0 }

/-- Bytes of a mask. -/
def maskSize (words : Bool) (n : Nat) : Nat := if words then 8192 * n else 256 * n

/-- `gmask` (R318). -/
def execGmask (words : Bool) (x : AsD) (sb : BitVec 6) (n : BitVec 8) (s : State) : Out :=
  let size := maskSize words n.toNat
  syllable (.gmask words x sb n) s
    (fun E _ =>
      let t := (E.rdS sb).toNat
      (if t % 2048 != 0 || decide (262144 < t + 2048 * n.toNat) then [E.illegalValue] else []) ++ E.sessionHits ++
        E.spadHits (E.rdS x.sa) 256 size 2)
    fun E w =>
      if !E.on x.g then .ok w none
      else
        let a := (E.rdS x.sa).toNat
        let b := E.session.toNat
        engineEff E w 4 x.cue x.sd [(E.session == 0#64, codeState)]
          (fun d => [spadRange d E.c (b + 24) 1, spadRange d E.c a size]) id
          { kind := .gmask b a (E.rdS sb).toNat n.toNat words, done := none, pos := 0 }

end Sys2Proof.Machine
end

