-- ==== Sys2Proof/Machine/EngineSteps.lean ====
section
/-! DEFINITION. How the engines start, carry on and complete the operations of a queue (R119, R122, R124, R131, R326). One
operation of a queue is under way at a time. -/

namespace Sys2Proof.Machine

/-- The head operation of a queue is under way. -/
def startHead (d : Dev) (c q : Nat) : Dev := d.updCtx c fun k => k.updHead q fun o => { o with phase := .started }

/-- The head operation of a queue is suspended on a page fault, with its record (R83, R378, R403). -/
def suspendHead (d : Dev) (c q access : Nat) (a pc info0 info1 : Word) : Dev :=
  (engineRecord d c q access a pc info0 info1).updCtx c fun k => k.updHead q fun o => { o with phase := .suspended }

/-- The next chunk of a copy (R130, R131). A fault other than a page fault is left to COPY_FAULT. -/
def advanceCopy (d : Dev) (c : Nat) (o : EngOp) (x : CpyDesc) : Dev :=
  if x.bytes ≤ o.pos then finishHead d c 0 0
  else
    match cpyNext d c o x with
    | .ok d1 p =>
      d1.updCtx c fun k => k.updHead 0 fun o => { o with pos := p, phase := if x.bytes ≤ p then .finished else .started }
    | .wait d1 => startHead d1 c 0
    | .fault d1 cause a =>
      if cause = causePage then suspendHead d1 c 0 (if cpyWriteFault d c o x then 2 else 1) a o.pc a 0xD01 else startHead d c 0

/-- An `unsub` ends once the fill under way is finished and the storer has written every tile below FIN, or the ring has failed
(R137). -/
def advanceUnsub (d : Dev) (c n fin : Nat) : Dev :=
  let u := (d.ctx c).sub n
  if u.state = 4 then finishHead d c 1 u.ecause
  else if u.filling || (u.stores && decide (u.stored < fin)) then startHead d c 1
  else finishHead (updSub d c n fun u => { u with state := 3 }) c 1 0

/-- A firing reads its source (R299); one whose source faulted has failed already. -/
def advanceFiring (d : Dev) (c n : Nat) (o : EngOp) : Dev :=
  let e := (d.ctx c).ctt.get n
  let go (d : Dev) : Dev := d.updCtx c fun k => k.updHead 3 fun o => { o with phase := .started, pos := 1 }
  if o.phase != .queued then d
  else if !e.served.isEmpty then go d
  else
    match headTransfer d c 3 o fun d => readSource d c e with
    | .ok d1 m => go (d1.updCtx c fun k => k.updCtt n fun e => { e with image := m })
    | .wait d1 => d1
    | .fault d1 cause a =>
      if cause = causePage then suspendHead d1 c 3 1 a o.pc (at_ e.peers 0).dest 0xD09
      else go (d1.updCtx c fun k => k.updCtt n (failAll (accessRes cause 1 a)))

/-- An operation of Q5 (R276, R280, R289 to R291). A `chbuild` whose chain is freed before every link is bound ends with 0x13 (log
entry 91). -/
def advanceChain (d : Dev) (c : Nat) (o : EngOp) : Dev :=
  match o.kind with
  | .chbuild h => if (liveChain d h).isNone then finishHead d c 5 0x13 else startHead d c 5
  | .hop core slot data =>
    if o.phase = .queued then startHead (d.send (.hop core slot data)) c 5
    else if d.msgs.contains (.hop core slot data) then d
    else finishHead d c 5 0
  | .chsplice h pos e =>
    let (d1, r) := performSplice d h pos e
    finishHead d1 c 5 r
  | .chresume h =>
    let (d1, r) := performResume d h
    finishHead d1 c 5 r
  | .chfree h => if hopsFlying d h then startHead d c 5 else finishHead (releaseChain d h) c 5 0
  | _ => d

/-- Carries the head operation of a queue on by one step. -/
def advance (d : Dev) (c q : Nat) (o : EngOp) : Dev :=
  match o.kind with
  | .cpy x => advanceCopy d c o x
  | .subs _ => finishHead d c 1 0
  | .unsub n fin => advanceUnsub d c n fin
  | .rrel n m => finishHead (d.updCtx c fun k => { k with subs := k.subs.update n fun u => { u with relOk := m } }) c 1 0
  | .rfin n m => finishHead (d.updCtx c fun k => { k with subs := k.subs.update n fun u => { u with finOk := m } }) c 1 0
  | .strb _ => finishHead d c 0 0
  | .stru n => if (d.ctx c).unperformed n o.pos = 0 || o.pos = 0 then finishHead d c 0 0 else startHead d c 0
  | .tst _ => d
  | .cttset _ => finishHead d c 3 0
  | .cttrdy _ => finishHead d c 3 0
  | .firing n => advanceFiring d c n o
  | .gload .. | .gstep .. | .gmask .. => grammarStep d c o
  | .chbuild _ | .chsplice .. | .chresume _ | .chfree _ | .hop .. => if q = 5 then advanceChain d c o else d

/-- The head operation of a queue may go on: it has started, or it may start (R119, R144). -/
def advanceHead (d : Dev) (c q : Nat) : Dev :=
  match (d.ctx c).queue q with
  | o :: _ =>
    if o.phase = .started || (o.phase = .queued && (d.ctx c).mayStart q o) then advance d c q o else d
  | [] => d

/-- The head operation of a queue is suspended. -/
def headSuspended (d : Dev) (c q : Nat) : Bool := (headIf d c q fun o => o.phase == .suspended).isSome

/-- ENGINE_OPERATION_START of the task in place: it starts the head operation, or carries it on, without a page fault. -/
def startStep (c q : Nat) (d : Dev) : Dev :=
  let d1 := advanceHead d c q
  if !headSuspended d c q && headSuspended d1 c q then d else d1

/-- ENGINE_OPERATION_START (R119, R326). -/
def execEngineOperationStart (c q : Nat) (s : State) : Out := .next { s with dev := onTasks s.dev c (startStep c q) }

/-- ENGINE_OPERATION_COMPLETION (R122). -/
def execEngineOperationCompletion (c q : Nat) (s : State) : Out :=
  .next { s with dev := onTasks s.dev c fun d => completeHead d c q }

/-- A ring's transfer meets a page fault and is suspended (R83, R135). -/
def ringPage (c : Nat) (d : Dev) (n : Nat) : Dev :=
  match ringFaultOf d c n with
  | some (d1, cause, a, store) =>
    if cause = causePage then
      (engineRecord d1 c 1 (if store then 2 else 1) a ((d1.ctx c).sub n).pc (BitVec.ofNat 64 (n + 4 * 256)) 0x100).updCtx c fun k =>
        k.noteSub n fun u => if store then { u with suspS := true } else { u with suspL := true, filling := true }
    else d
  | none => d

/-- ENGINE_PAGE_FAULT of the task in place: what meets a page fault is suspended with a record (R83, R131, R135, R319). -/
def pageStep (c q : Nat) (d : Dev) : Dev :=
  let d1 := advanceHead d c q
  let d2 := if !headSuspended d c q && headSuspended d1 c q then d1 else d
  if q = 1 then (List.range 8).foldl (ringPage c) d2 else d2

/-- ENGINE_PAGE_FAULT (R83). -/
def execEnginePageFault (c q : Nat) (s : State) : Out := .next { s with dev := onTasks s.dev c (pageStep c q) }

/-- Suspended operations go back to their queues, and suspended rings, streams and nodes go on (R376). -/
def resumeEngines (k : Ctx) : Ctx :=
  let wake (o : EngOp) : EngOp :=
    if o.phase = .suspended then { o with phase := if o.pos = 0 then .queued else .started } else o
  { k with
    queues := k.queues.map fun (q, l) => (q, l.map wake)
    subs := k.subs.map fun (n, u) => (n, { u with suspL := false, suspS := false })
    streams := k.streams.map fun (n, t) => (n, { t with susp := false })
    nodes := k.nodes.map fun (n, x) => (n, { x with susp := false }) }

/-- Something of a context's engines or nodes is suspended on a page fault. -/
def enginesSuspended (k : Ctx) : Bool :=
  (k.queues.any fun x => x.2.any fun o => o.phase == .suspended) || (k.subs.any fun x => x.2.suspL || x.2.suspS) ||
    (k.streams.any fun x => x.2.susp) || k.nodes.any fun x => x.2.susp

end Sys2Proof.Machine
end

