-- ==== Sys2Proof/Machine/Roles.lean ====
section
/-! DEFINITION. Primary and secondary contexts of a core: R333 to R337 and R401. -/

namespace Sys2Proof.Machine

def Dev.core (d : Dev) (core : Nat) : Core := d.cores.get core
def Dev.updCore (d : Dev) (core : Nat) (f : Core → Core) : Dev := { d with cores := d.cores.update core f }

/-- Context number `n` of a core holds a resident task. -/
def residentAt (d : Dev) (core n : Nat) : Bool := (d.ctx (ctxId core n)).cond == .resident

/-- A context is in an engine wait, or is suspended for firmware (R334). -/
def Ctx.engineWait (k : Ctx) : Bool := k.waiting || decide (Config.dueWaitCycle ≤ k.dueStall) || k.susp.isSome

/-- Context numbers in ascending cyclic order after `n`, ending with `n` (R335). -/
def cyclicAfter (n : Nat) : List Nat := [(n + 1) % 4, (n + 2) % 4, (n + 3) % 4, n % 4]

/-- The next holder of the secondary role after a number, as a role code: the first resident context not in an engine wait,
or failing that the first resident one; those of `skip` are passed over (R335, R347, R401). -/
def chooseSecondary (d : Dev) (core after : Nat) (skip : List Nat) : Nat :=
  let ns := (cyclicAfter after).filter fun n => residentAt d core n && !skip.contains n
  match ns.find? fun n => !(d.ctx (ctxId core n)).engineWait with
  | some n => n + 1
  | none =>
    match ns with
    | n :: _ => n + 1
    | [] => 0

/-- Gives the secondary role to a role code; the clock of R336 starts. -/
def setSecondary (d : Dev) (core code : Nat) : Dev := d.updCore core fun x => { x with secondary := code, idle := d.cycle }

/-- A context becomes primary after not being primary: its latches become invalid (R33). -/
def becomePrimary (d : Dev) (core n : Nat) : Dev :=
  (d.updCore core fun x => { x with primary := n + 1 }).updCtx (ctxId core n) Ctx.invalidate

/-- A context ceases to be primary (R336). -/
def ceasePrimary (d : Dev) (core n : Nat) : Dev :=
  d.updCtx (ctxId core n) fun k => if k.cond = .free then k else k.setSpr Spr.swcnt (k.spr' Spr.swcnt + 1)

/-- A core with a primary and no secondary takes one, in cyclic order after the primary (R401). -/
def fillSecondary (d : Dev) (core : Nat) : Dev :=
  let x := d.core core
  if x.primary ≠ 0 && x.secondary = 0 then
    let code := chooseSecondary d core (x.primary - 1) [x.primary - 1]
    if code = 0 then d else setSecondary d core code
  else d

/-- On a core without a primary, the task that becomes resident becomes primary; then the secondary role is filled (R401). -/
def fillRoles (d : Dev) (core : Nat) : Dev :=
  if (d.core core).primary = 0 then
    match (List.range 4).find? (residentAt d core) with
    | some n => fillSecondary (becomePrimary d core n) core
    | none => d
  else fillSecondary d core

/-- The secondary takes over from the primary (R335). -/
def handOver (d : Dev) (core : Nat) : Dev :=
  let x := d.core core
  let old := x.primary - 1
  let new := x.secondary - 1
  let d1 := becomePrimary (ceasePrimary d core old) core new
  setSecondary d1 core (chooseSecondary d1 core old [new])

/-- A secondary that is not resident any more gives its role up; one that is suspended has done so (R401, `suspendFor`). -/
def dropSecondary (d : Dev) (core : Nat) : Dev :=
  let x := d.core core
  if x.secondary ≠ 0 && !residentAt d core (x.secondary - 1) then d.updCore core fun x => { x with secondary := 0 } else d

/-- A primary whose task is not resident any more gives its role up where no secondary takes it over. -/
def dropPrimary (d : Dev) (core : Nat) : Dev :=
  let x := d.core core
  if x.primary ≠ 0 && x.secondary = 0 && !residentAt d core (x.primary - 1) then
    (ceasePrimary d core (x.primary - 1)).updCore core fun x => { x with primary := 0 }
  else d

/-- Roles after a change of what is resident on a core or of what waits: a missing secondary is chosen first, so that it takes
over from a primary that leaves (R335, R401). -/
def settleRoles (d : Dev) (core : Nat) : Dev :=
  let d1 := fillSecondary (dropSecondary d core) core
  let x := d1.core core
  let leaves := x.primary != 0 && x.secondary != 0 &&
    (!residentAt d1 core (x.primary - 1) || (d1.ctx (ctxId core (x.primary - 1))).engineWait)
  fillRoles (dropPrimary (if leaves then handOver d1 core else d1) core) core

/-- `yield` (R347). -/
def yieldRole (d : Dev) (c : Nat) : Dev :=
  let core := coreOf c
  let x := d.core core
  let n := ctxNum c
  if x.primary = n + 1 then (if x.secondary = 0 then d else handOver d core)
  else if x.secondary = n + 1 then
    let code := chooseSecondary d core n [n, x.primary - 1]
    if code = 0 then d else setSecondary d core code
  else d

/-- PRIMARY_SWITCH (R335, R401). -/
def execPrimarySwitch (core : Nat) (s : State) : Host.Outcome State Fault Refusal :=
  .next { s with dev := settleRoles s.dev core }

/-- SECONDARY_PROMOTION (R336): as many whole cycles lie between the secondary's last issue and this one. -/
def execSecondaryPromotion (core : Nat) (s : State) : Host.Outcome State Fault Refusal :=
  let d := s.dev
  let x := d.core core
  if x.primary ≠ 0 && x.secondary ≠ 0 && decide (x.idle + Config.promoteCycles < d.cycle) then
    let d1 := becomePrimary (ceasePrimary d core (x.primary - 1)) core (x.secondary - 1)
    .next { s with dev := setSecondary d1 core x.primary }
  else .next s

/-- DUE_COUNT_ENGINE_WAIT (R167, R334): a stall at a due count goes on for one more cycle. -/
def execDueCountEngineWait (c : Nat) (s : State) : Host.Outcome State Fault Refusal :=
  let k := s.dev.ctx c
  if k.cond = .resident && k.dueWaits && s.bundle.isNone then
    .next { s with dev := s.dev.updCtx c fun k => { k with dueStall := k.dueStall + 1 } }
  else .next s

end Sys2Proof.Machine
end

