-- ==== Sys2Proof/Machine/Tasks.lean ====
section
/-! DEFINITION. Tasks: how one ends, is lost, is saved, spilled and reloaded, and how the dispatcher places and resumes them
(R332, R338 to R343, R348, R373 to R375). -/

namespace Sys2Proof.Machine

/-- FRAME of a package, as a tick. -/
def Dev.tick (d : Dev) (pkg : Nat) : Nat := (d.pkg pkg).frame.toNat

/-! ## What is taken at a boundary (R128, R358, R361) -/

/-- Diversions of R361 but discard, pre-emption and MACHINE_CHECK, which are steps of their own. -/
inductive Divert where
  | none
  | result (e : Entry) (r : TrapRec)
  | post (r : TrapRec)
  | async (r : TrapRec)
  | cue
  deriving DecidableEq, Repr, Inhabited

def HS.inTrap (h : HS) : Bool := h == .trap || h == .trapInCue

/-- A cue could be taken (R128). -/
def Ctx.cueReady (k : Ctx) : Bool :=
  (k.spr' Spr.cueen).getLsbD 8 && bits (k.spr' Spr.cuepend &&& k.spr' Spr.cueen) 0 7 != 0 && k.hs == .stream

/-- The first diversion of R361 that could be taken at the next boundary of a context. A result-time fault waits until
every result due there is known, since an earlier one may fault too. -/
def nextDivert (d : Dev) (c : Nat) : Divert :=
  let k := d.ctx c
  if k.cond ≠ .resident || k.susp.isSome then .none
  else
    match k.dueFault with
    | some e =>
      match e.fault with
      | some r => if k.dueWaits then .none else .result e r
      | none => .none
    | none =>
      match k.post.get k.hs.code, k.asyncs with
      | some r, _ => .post r
      | none, r :: _ => if k.hs.inTrap then .none else .async r
      | none, [] => if k.cueReady then .cue else .none

/-- Takes a cue (R128). -/
def takeCue (k : Ctx) : Ctx :=
  let k1 := { k with gCue := k.infl, infl := [] }.invalidate.setSpr Spr.cuepc k.pc
  { k1 with hs := .cue, pc := k.spr' Spr.cuevec, xfer := some (0#64, k.spr' Spr.cuevec), waiting := false, dueStall := 0, aliased := [] }

/-- Takes a diversion at the boundary. -/
def takeDivert (d : Dev) (c : Nat) (v : Divert) : Dev :=
  let pc := (d.ctx c).pc
  match v with
  | .none => d
  | .result e r => takeResultFault d c e r
  | .post r => takeTrap (d.updCtx c fun k => { k with post := k.post.set k.hs.code none }) c { r with utpc := pc }
  | .async r => takeTrap (d.updCtx c fun k => { k with asyncs := k.asyncs.tail }) c { r with utpc := pc }
  | .cue => d.updCtx c takeCue

/-! ## The end of a task (R106, R284, R343, R347, R355) -/

/-- Releases every pin of a context. -/
def releasePins (d : Dev) (c : Nat) : Dev := (d.ctx c).pins.foldl (fun d p => releasePin d p.line p.holder) d

/-- A call-sheet entry of the current frame retires at a tick (R355, R356). -/
def Sheet.retire (sh : Sheet) (f i now : Nat) : Sheet :=
  if f = sh.frame then
    let late := decide (sh.start + sh.fticks < now)
    { sh with live := sh.live.erase i, lastRetire := Nat.max sh.lastRetire now
              nlate := if late then sh.nlate + 1 else sh.nlate
              firstLate := if late && (sh.nlate == 0 || decide (i < sh.firstLate)) then i else sh.firstLate }
  else sh

/-- A task of a package is gone: OUT decreases, and its call-sheet entry retires (R343, R355). -/
def taskGone (d : Dev) (pkg : Nat) (q : QTask) : Dev :=
  let now := d.tick pkg
  d.updJob pkg q.job fun j =>
    { j with out := j.out - 1
             sheet := match q.sheet with
               | some (f, i) => j.sheet.map fun sh => sh.retire f i now
               | none => j.sheet }

/-- Links that a halting owner leaves short, and those that a discarded one does (R284). -/
def haltShort (t : Slot) : Bool := decide (t.appended < t.count)
def discardShort (t : Slot) : Bool := decide (t.done < t.count)

/-- What a context whose task has ended still holds: its registers, its latches and BCLK, which no reset touches before the next
placement (R23, R33, R395). -/
def endedCtx (k : Ctx) : Ctx :=
  { (default : Ctx) with bclk := k.bclk, sreg := k.sreg, preg := k.preg, spr := k.spr, la := k.la, lb := k.lb, ll := k.ll }

/-- The task in place at a context number ends: pins, context and allotments go, but for bound link slots; its save area is
free again. -/
def endTask (d : Dev) (c : Nat) (short : Slot → Bool) : Dev :=
  let k := d.ctx c
  let d1 := (ownerEnds (releasePins d c) c short).setCtx c (endedCtx k)
  (taskGone d1 (pkgOf c) k.task).updJob (pkgOf c) k.task.job fun j => { j with areas := j.areas.erase k.saveArea }

/-- A spilled or lost task ends. -/
def endSpilled (d : Dev) (i : Nat) (short : Slot → Bool) : Dev :=
  match d.spilled[i]? with
  | some (c, k) =>
    let here := d.ctx c
    let d1 := endTask (d.setCtx c k) c short
    { d1 with spilled := d1.spilled.eraseIdx i }.setCtx c here
  | none => d

/-- The record of a lost or discarded task (R378, R379, R381). -/
def taskRecord (c : Nat) (k : Ctx) (cause : Nat) : FRec :=
  { cause := cause, kind := 3, access := if k.priv then 8 else 0, source := 0, ctx := c % 2 ^ 19, job := k.task.job, va := 0
    pc := k.pc, count := k.bclk, info0 := 0, info1 := 0 }

/-- What stays of a lost task until firmware discards it (R375). -/
def lostTask (k : Ctx) : Ctx :=
  { (default : Ctx) with cond := .lost, task := k.task, bclk := k.bclk, pc := k.pc, priv := k.priv, saveArea := k.saveArea }

/-- The task in place at a context number is lost (R284, R375, R381). -/
def loseTask (d : Dev) (c cause : Nat) : Dev :=
  let k := d.ctx c
  let d1 := addRecord (ownerEnds (releasePins d c) c discardShort) (pkgOf c) (taskRecord c k cause)
  { d1.setCtx c default with spilled := d1.spilled ++ [(c, lostTask k)] }

/-! ## Saving, spilling, reloading (R373 to R375) -/

/-- The bytes a spill leaves in a save area, the check value among them (Config.saveByte). -/
def saveText (seed : Nat) : List Byte := (List.range Config.saveSize).map (Config.saveByte seed)

/-- Physical address of a task's save area, through the heap window. -/
def savePa (k : Ctx) : Nat := (k.spr' Spr.saveptr + k.spr' Spr.hwo).toNat % 2 ^ 52

/-- A save area can be written. -/
def saveWritable (d : Dev) (own : Nat) (k : Ctx) : Bool :=
  let a := savePa k
  isMemory a && isMemory (a + Config.saveSize - 1) && decide (paPkg a < d.npkg) && (paPkg a == own || !(d.pkg (paPkg a)).unreachable)

/-- A saved task's accesses to main memory have performed, or are held by a page fault: it may be spilled. -/
def Ctx.settled (k : Ctx) : Bool :=
  match k.gq with
  | a :: _ => a.susp
  | [] => true

/-- Spills the saved task in place at a context number (R374, R375). -/
def spill (d : Dev) (c : Nat) : Dev :=
  let k := d.ctx c
  if d.badCtx.contains c || !saveWritable d (pkgOf c) k then loseTask { d with badCtx := d.badCtx.filter (· != c) } c 0x1C
  else
    let at0 := coreOf c * 128 + k.allot.vBase
    let vs := (List.range k.allot.vSize).foldl (fun m i => SMap.set m i (d.vpool.get (at0 + i))) []
    let d1 := ctlWrite { d with free := d.free + 1 } (pkgOf c) (savePa k) (saveText d.free)
    let d2 := { d1 with badLines := d1.badLines.filter fun l =>
                  !(decide (savePa k ≤ l * 128) && decide (l * 128 < savePa k + Config.saveSize)) }
    d2.setCtx c { k with spilled := true, vsave := vs, saveSeed := d.free }

/-- A placement takes a context number: a saved task there goes out to its save area (R374). -/
def takeNumber (d : Dev) (c : Nat) : Dev :=
  if (d.ctx c).cond = .saved then
    let d1 := if (d.ctx c).spilled then d else spill d c
    let k := d1.ctx c
    if k.cond = .saved then { d1 with spilled := d1.spilled ++ [(c, k)] }.setCtx c default else d1
  else d

def overlaps (a n b m : Nat) : Bool := decide (a < b + m) && decide (b < a + n)

/-- A placement takes a vector range: saved tasks of the core that it meets are spilled (R374). -/
def takeRange (d : Dev) (core n base size : Nat) : Dev :=
  ((List.range 4).filter (· != n)).foldl (fun d m =>
    let k := d.ctx (ctxId core m)
    if k.cond = .saved && !k.spilled && overlaps base size k.allot.vBase k.allot.vSize then spill d (ctxId core m) else d) d

/-- An entry of a group moves with the vector range of its task (R28, R374). -/
def Entry.rebase (old new : Nat) (e : Entry) : Entry :=
  match e.dest with
  | .vec r => { e with dest := .vec (r - old + new) }
  | _ => e

/-- The task in place goes on from where it stopped: its group joins its stream again unless firmware holds it (R367, R373). -/
def wake (k : Ctx) : Ctx :=
  let k1 := { k with cond := .resident, gq := match k.gq with
                | a :: r => { a with asked := false } :: r
                | [] => [] }.invalidate
  if k.susp.isSome then k1 else reinject { k1 with gSave := [] } k.gSave

/-- Reloads the spilled task in place into a vector range (R374, R375). -/
def reload (d0 : Dev) (c base : Nat) : Dev :=
  let d := ctlRead d0 (pkgOf c) (savePa (d0.ctx c)) Config.saveSize
  let k := d.ctx c
  let bs := peekBytes d (savePa k) Config.saveSize
  let bad := (List.range (Config.saveSize / 128)).any fun i => d.lineBad (savePa k / 128 + i)
  if bad || bs != saveText k.saveSeed then loseTask d c 0x1C
  else
    let at0 := coreOf c * 128 + base
    let vp := (List.range k.allot.vSize).foldl (fun m i => SMap.set m (at0 + i) (k.vsave.get i)) d.vpool
    let re := fun l : List Entry => l.map (Entry.rebase k.allot.vBase base)
    { d with vpool := vp }.setCtx c
      { k with spilled := false, vsave := [], gTrap := re k.gTrap, gCue := re k.gCue, gSave := re k.gSave
               allot := { k.allot with vBase := base } }

/-- Pre-empts the resident task of a context number (R373). -/
def preempt (d : Dev) (c : Nat) : Dev :=
  settleRoles (d.updCtx c fun k =>
    { k with cond := .saved, gSave := k.gSave ++ k.infl, infl := [], waiting := false, dueStall := 0, aliased := [] }.invalidate)
    (coreOf c)

/-! ## Where a task fits (R341) -/

/-- Tasks of a core that hold allotments. -/
def tasksOn (d : Dev) (core : Nat) : List Ctx :=
  (List.range 4).flatMap fun n => (tasksAt d (ctxId core n)).filter Ctx.alive

/-- The lowest base, a multiple of `step`, of a range that meets none of those used; 0 for a range of no bytes. -/
def lowestFree (step size limit : Nat) (used : List (Nat × Nat)) : Option Nat :=
  if size = 0 then some 0
  else
    ((List.range (limit / step)).map (· * step)).find? fun b =>
      decide (b + size ≤ limit) && used.all fun u => !overlaps b size u.1 u.2

/-- Resident context numbers of a core, one of them taken as saved. -/
def residentsBut (d : Dev) (core : Nat) (minus : Option Nat) : List Nat :=
  (List.range 4).filter fun n => residentAt d core n && minus != some n

/-- The lowest vector base of a size on a core. -/
def vectorBase (d : Dev) (core size : Nat) (minus : Option Nat) : Option Nat :=
  lowestFree 8 size 128 ((residentsBut d core minus).map fun n =>
    ((d.ctx (ctxId core n)).allot.vBase, (d.ctx (ctxId core n)).allot.vSize))

/-- The context number that a new task takes: the lowest with no task, or failing that the lowest without a resident one (R341). -/
def freeNumber (d : Dev) (core : Nat) (minus : Option Nat) : Option Nat :=
  match (List.range 4).find? fun n => (tasksAt d (ctxId core n)).all fun k => !k.alive with
  | some n => some n
  | none => (List.range 4).find? fun n => !(residentsBut d core minus).contains n

/-- The lowest link slots that are FREE and allotted to no task, as many as asked. -/
def freeLinks (d : Dev) (core n : Nat) : Option (BitVec 8) :=
  let ks := (List.range 8).filter fun i => (d.slot (slotKey core i)).state == .free &&
    (tasksOn d core).all fun k => !k.allot.links.getLsbD i
  if ks.length < n then none else some ((ks.take n).foldl (fun m i => m ||| BitVec.ofNat 8 (2 ^ i)) 0#8)

/-- Where a task of a type fits on a core: its context number and allotments. -/
def fitOn (d : Dev) (core : Nat) (t : TaskType) (minus : Option Nat) : Option (Nat × Allot) :=
  let ks := tasksOn d core
  let used := ks.flatMap fun k => [(k.allot.spBase, k.allot.spLen), (k.allot.arBase, k.allot.arLen)]
  match freeNumber d core minus, vectorBase d core t.vregs minus, lowestFree 4096 t.spad (2 ^ 20) used with
  | some n, some v, some sp =>
    match lowestFree 4096 t.arena (2 ^ 20) ((sp, t.spad) :: used),
        lowestFree 4096 t.lslice Config.laneBytes (ks.map fun k => (k.allot.lsBase, k.allot.lsLen)), freeLinks d core t.links with
    | some ar, some ls, some l =>
      some (n, { spBase := sp, spLen := t.spad, arBase := ar, arLen := t.arena, lsBase := ls, lsLen := t.lslice, links := l
                 vBase := v, vSize := t.vregs })
    | _, _, _ => none
  | _, _, _ => none

/-- Cores that may take a task (R341): its specific target, or the enabled cores of its affinity in ascending order. -/
def taskCores (d : Dev) (pkg : Nat) (q : QTask) (t : TaskType) : List Nat :=
  if q.any then
    (List.range 8).flatMap fun die => (List.range 4).flatMap fun cl => (List.range 48).filterMap fun i =>
      let core := pkg * 2 ^ 11 + die * 2 ^ 8 + cl * 2 ^ 6 + i
      if t.dieMask.getLsbD die && t.cluMask.getLsbD cl && decide (t.coreLo ≤ i) && decide (i ≤ t.coreHi) && !coreDown d core then
        some core
      else none
  else
    let core := q.target % 2 ^ 17
    if coreDown d core then [] else [core]

/-- The type of a task. -/
def Job.type (j : Job) (q : QTask) : TaskType := j.types.get q.type

/-- The lowest save area of a job that no task holds; those of the other members of its gang lie at the same addresses (R386; log
entry 55). -/
def freeArea (d : Dev) (pkg job : Nat) : Option Nat :=
  let j := d.job pkg job
  let used := (List.range d.npkg).flatMap fun p => if p = pkg || j.gang.getLsbD p then (d.job p job).areas else []
  (List.range (used.length + 1)).find? fun i => decide (i < j.saven) && !used.contains i

/-! ## What the dispatcher does next (R250, R340, R342) -/

/-- Effective priority of a task (R342): its own, or that of a demand held on one of its links. -/
def effPrio (d : Dev) (c : Nat) (k : Ctx) : Nat :=
  d.slots.foldl (fun p x =>
    if x.1 / 8 = coreOf c && k.allot.links.getLsbD (x.1 % 8) && x.2.held then
      match liveChain d x.2.handle with
      | some ch => Nat.max p (ch.link x.2.pos).prio
      | none => p
    else p) k.task.prio

/-- What the dispatcher of a package does next. -/
inductive Choice where
  | place (job prio core n : Nat) (al : Allot)
  | resume (c : Nat) (spilled : Option Nat) (base : Nat)
  | preempt (c : Nat)
  deriving DecidableEq, Repr, Inhabited

/-- The resident task that gives way on a core to a task of some priority, if saving one of those below it would make room
(R342). -/
def victimOn (d : Dev) (core prio : Nat) (fits : Nat → Bool) : Option Nat :=
  let below := (List.range 4).filter fun n =>
    residentAt d core n && decide (effPrio d (ctxId core n) (d.ctx (ctxId core n)) < prio)
  if below.any fits then
    match below with
    | n :: r =>
      let p (n : Nat) : Nat := effPrio d (ctxId core n) (d.ctx (ctxId core n))
      some (ctxId core (r.foldl (fun m n => if p n < p m then n else m) n))
    | [] => none
  else none

/-- Saved tasks of a package, in place or spilled. -/
def savedTasks (d : Dev) (pkg : Nat) : List (Nat × Option Nat × Ctx) :=
  (d.ctxs.filterMap fun x => if pkgOf x.1 = pkg && x.2.cond = .saved then some (x.1, none, x.2) else none) ++
  (List.range d.spilled.length).filterMap fun i =>
    match d.spilled[i]? with
    | some (c, k) => if pkgOf c = pkg && k.cond = .saved then some (c, some i, k) else none
    | none => none

/-- Whether a saved task can become resident with one resident task taken as saved, and its vector base. -/
def resumeBase (d : Dev) (c : Nat) (k : Ctx) (minus : Option Nat) : Option Nat :=
  if (residentsBut d (coreOf c) minus).contains (ctxNum c) then none
  else if k.spilled then vectorBase d (coreOf c) k.allot.vSize minus
  else some k.allot.vBase

/-- What becomes of a saved task when its turn comes. -/
def resumeChoice (d : Dev) (x : Nat × Option Nat × Ctx) : Option Choice :=
  let (c, sp, k) := x
  match resumeBase d c k none with
  | some b => some (.resume c sp b)
  | none => (victimOn d (coreOf c) (effPrio d c k) fun n => (resumeBase d c k (some n)).isSome).map Choice.preempt

/-- What becomes of a queue's head when its turn comes. -/
def placeChoice (d : Dev) (pkg prio : Nat) (job : Nat) (q : QTask) : Option Choice :=
  let j := d.job pkg job
  if (freeArea d pkg job).isNone then none
  else
    let cores := taskCores d pkg q (j.type q)
    match cores.findSome? fun core => (fitOn d core (j.type q) none).map fun p => (core, p) with
    | some (core, n, al) => some (.place job prio core n al)
    | none => (cores.findSome? fun core =>
        victimOn d core prio fun n => (fitOn d core (j.type q) (some n)).isSome).map Choice.preempt

/-- The jobs of a package, the one that placed a task least recently first. -/
def jobsInTurn (d : Dev) (pkg : Nat) : List (Nat × Job) :=
  let js := d.jobs.filterMap fun x => if x.1 % 64 = pkg && x.2.live && !x.2.cancelled then some (x.1 / 64, x.2) else none
  let insert (x : Nat × Job) : List (Nat × Job) → List (Nat × Job) := fun l =>
    (l.takeWhile fun y => decide (y.2.lastPlaced ≤ x.2.lastPlaced)) ++ x :: l.dropWhile fun y => decide (y.2.lastPlaced ≤ x.2.lastPlaced)
  js.foldl (fun l x => insert x l) []

/-- What the dispatcher does at one priority: saved tasks rank ahead of new ones (R342). -/
def choicesAt (d : Dev) (pkg prio : Nat) : List Choice :=
  ((savedTasks d pkg).filterMap fun x => if effPrio d x.1 x.2.2 = prio then resumeChoice d x else none) ++
  (jobsInTurn d pkg).filterMap fun x =>
    match x.2.queues.get prio with
    | q :: _ => placeChoice d pkg prio x.1 q
    | [] => none

/-- The dispatcher's next act (R340, R342). -/
def dispatch (d : Dev) (pkg : Nat) : Option Choice :=
  if (d.pkg pkg).machineCheck then none else (List.range 16).reverse.findSome? fun p => (choicesAt d pkg p).head?

/-! ## Placing and resuming -/

/-- A memory with a range zeroed. -/
def clearRange (m : List Host.Cell) (a n : Nat) : List Host.Cell := m.filter fun x => !(decide (a ≤ x.1) && decide (x.1 < a + n))

/-- Words of a list of erroneous words outside a range of bytes. -/
def clearWords (l : List Nat) (a n : Nat) : List Nat := l.filter fun w => !(decide (a ≤ w * 4) && decide (w * 4 < a + n))

/-- Zeroes the allotments of a new task (R23, R146). -/
def zeroAllot (d : Dev) (core : Nat) (al : Allot) : Dev :=
  let sp := core * 2 ^ 20
  let ls := core * 2 ^ 18 + al.lsBase
  { d with
    spad := clearRange (clearRange d.spad (sp + al.spBase) al.spLen) (sp + al.arBase) al.arLen
    badSpad := clearWords (clearWords d.badSpad (sp + al.spBase) al.spLen) (sp + al.arBase) al.arLen
    lanes := clearRange d.lanes ls al.lsLen
    badLane := clearWords d.badLane ls al.lsLen
    vpool := d.vpool.filter fun x => !(decide (core * 128 + al.vBase ≤ x.1) && decide (x.1 < core * 128 + al.vBase + al.vSize)) }

/-- The allotment record (R147). -/
def allotRecord (al : Allot) : List Byte :=
  bytesOf 4 al.spBase ++ bytesOf 4 al.spLen ++ bytesOf 4 (if al.arLen = 0 then 0 else al.arBase) ++ bytesOf 4 al.arLen ++
    bytesOf 4 (if al.lsLen = 0 then 0 else al.lsBase) ++ bytesOf 4 al.lsLen ++ bytesOf 8 al.links.toNat

/-- The window registers as their fields hold them (R73). -/
def hwbField (v : Word) : Word := BitVec.ofNat 64 (bits v 21 27 * 2 ^ 21)
def hwlField (v : Word) : Word := BitVec.ofNat 64 (bits v 21 28 * 2 ^ 21)
def hwoField (v : Word) : Word := BitVec.ofNat 64 (bits v 21 43 * 2 ^ 21)
def bucketField (v : Word) : Word := BitVec.ofNat 64 (bits v 0 56)

/-- A full token bucket (R126). -/
def bucketFull (v : Word) : Nat := Nat.max (bits v 32 24) 128 * 1024

/-- The state of a context as its task starts; PINLIM holds firmware's value of the package (R23, R37, R339). -/
def freshCtx (pinlim : Word) (j : Job) (q : QTask) (al : Allot) (area serial : Nat) : Ctx :=
  let t := j.type q
  let win (i : Nat) : Word := at_ j.wins (3 * t.win + i)
  let spr : List (Nat × Word) :=
    [(Spr.rngkey0, q.key0), (Spr.rngkey1, q.key1), (Spr.hwb, hwbField (win 0)), (Spr.hwl, hwlField (win 1)),
     (Spr.hwo, hwoField (win 2)), (Spr.tbl2, bucketField t.tbl2), (Spr.tbhbm, bucketField t.tbhbm),
     (Spr.saveptr, j.savepool + BitVec.ofNat 64 (area * Config.saveSize)), (Spr.pinlim, pinlim)]
  { (default : Ctx) with
    cond := .resident, pc := t.entry, xfer := some (0#64, t.entry), task := q, allot := al, priv := t.priv, saveArea := area, serial := serial
    spr := spr.foldl (fun m x => SMap.set m x.1 x.2) []
    bktL2 := bucketFull t.tbl2, bktHbm := bucketFull t.tbhbm }

/-- A context number can be taken: a saved task in place there can be spilled now (log entry 52). -/
def bankFree (d : Dev) (c : Nat) : Bool := (d.ctx c).cond != .saved || (d.ctx c).settled

/-- Places the head of a queue (R341). -/
def placeTask (d : Dev) (pkg job prio core n : Nat) (al : Allot) : Dev :=
  let j := d.job pkg job
  match if bankFree d (ctxId core n) then j.queues.get prio else [], freeArea d pkg job with
  | q :: r, some area =>
    let c := ctxId core n
    let d1 := zeroAllot (takeRange (takeNumber d c) core n al.vBase al.vSize) core al
    let clock := (d1.pkg pkg).placeClock + 1
    let d2 := (d1.setCtx c (freshCtx (d1.pkg pkg).pinlim j q al area clock)).updPkg pkg fun p => { p with placeClock := clock }
    let d3 := d2.updJob pkg job fun j =>
      { j with queues := j.queues.set prio r, lastPlaced := clock, areas := j.areas ++ [area] }
    fillRoles (wrSpad d3 c 0 (allotRecord al)) core
  | _, _ => d

/-- Resumes a saved task (R342, R373, R374). -/
def resumeTask (d : Dev) (c : Nat) (sp : Option Nat) (base : Nat) : Dev :=
  let back :=
    match sp with
    | none => d
    | some i =>
      match d.spilled[i]? with
      | some (_, k) =>
        let d1 := takeNumber d c
        { d1 with spilled := d1.spilled.eraseIdx i }.setCtx c k
      | none => d
  let k := back.ctx c
  if k.cond ≠ .saved then d
  else
    let d1 := if k.spilled then reload (takeRange back (coreOf c) (ctxNum c) base k.allot.vSize) c base else back
    if (d1.ctx c).cond = .saved then fillRoles (pump (d1.updCtx c wake) c) (coreOf c) else d1

/-- TASK_PLACEMENT (R341). -/
def execTaskPlacement (pkg : Nat) (s : State) : Out :=
  .next { s with dev := match dispatch s.dev pkg with
    | some (.place job prio core n al) => placeTask s.dev pkg job prio core n al
    | _ => s.dev }

/-- TASK_RESUME (R342, R373). -/
def execTaskResume (c : Nat) (s : State) : Out :=
  .next { s with dev := match dispatch s.dev (pkgOf c) with
    | some (.resume c1 sp base) => if c1 = c && (sp.isNone || bankFree s.dev c) then resumeTask s.dev c sp base else s.dev
    | _ => s.dev }

/-- PRE_EMPTION (R342, R373), at a boundary of the context, after every other diversion that could be taken there (R361). -/
def execPreEmption (c : Nat) (s : State) : Out :=
  let d := reportDemands s.dev c
  .next { s with dev := match dispatch d (pkgOf c) with
    | some (.preempt c1) =>
      if c1 = c && (s.bundle.isNone || s.cur != c) && nextDivert d c == .none then preempt d c else d
    | _ => d }

/-! ## Cancellation (R348, R351) -/

/-- Roles of every core of a package are settled. -/
def settlePkg (d : Dev) (pkg : Nat) : Dev :=
  (d.cores.keys.filter fun c => c / 2 ^ 11 == pkg).foldl settleRoles d

/-- No link of the owner falls short: a die shutdown and a cancellation freeze chains by their own rules (R284, R348, R379). -/
def noShort (_ : Slot) : Bool := false

/-- Discards the tasks, in place or spilled, that a predicate picks. -/
def discardAll (d : Dev) (p : Nat → Ctx → Bool) : Dev :=
  let d1 := (d.ctxs.filter fun x => x.2.cond != .free && p x.1 x.2).foldl (fun d x => endTask d x.1 noShort) d
  (List.range d1.spilled.length).reverse.foldl (fun d i =>
    match d.spilled[i]? with
    | some (c, k) => if p c k then endSpilled d i noShort else d
    | none => d) d1

/-- Frees the barriers of a job on a package (R351). -/
def freeBarriers (d : Dev) (pkg job : Nat) : Dev :=
  { d with barriers := d.barriers.keys.foldl (fun m b =>
      if b / 512 = pkg && (SMap.get m b).job = job then SMap.update m b fun x => { x with expect := 0, arrived := 0 } else m) d.barriers }

/-- A package marks a job cancelled and acts on it (R348 step 2). -/
def cancelAt (d : Dev) (pkg job : Nat) : Dev :=
  let j := d.job pkg job
  if !j.live || j.cancelled then d
  else
    let queued := j.queues.flatMap Prod.snd
    let d1 := d.updJob pkg job fun j =>
      { j with cancelled := true, queues := [], sheet := j.sheet.map fun sh => { sh with ended := true } }
    let d2 := queued.foldl (fun d q => taskGone d pkg q) d1
    let d3 := discardAll d2 fun c k => pkgOf c == pkg && k.task.job == job
    settlePkg (freeBarriers (freezeJob d3 job) pkg job) pkg

/-- Cancelling a job from a package: it marks the job, and packets go to the other members (R348 step 1). -/
def cancelJob (d : Dev) (pkg job : Nat) : Dev :=
  let j := d.job pkg job
  if !j.live || j.cancelled then d
  else
    let others := (List.range d.npkg).filter fun p => p != pkg && j.gang.getLsbD p
    others.foldl (fun d p => d.send (.cancel p job)) (cancelAt d pkg job)

/-- The job is still on its way to a member: its record, or the decision that it is kept (R386). -/
def capturePending (d : Dev) (pkg job : Nat) : Bool :=
  d.msgs.any fun x =>
    match x with
    | .capture p j _ _ | .keep p j _ _ => p == pkg && j == job
    | _ => false

/-- CANCEL_PACKET (R348): one that overtakes the job itself waits for it. -/
def execCancelPacket (m : Nat) (s : State) : Out :=
  .next { s with dev :=
    match s.dev.msgs[m]? with
    | some (.cancel pkg job) =>
      if capturePending s.dev pkg job then s.dev else cancelAt { s.dev with msgs := s.dev.msgs.eraseIdx m } pkg job
    | _ => s.dev }

end Sys2Proof.Machine
end

