-- ==== Sys2Proof/Machine/Tokens.lean ====
section
/-! DEFINITION. The steps of the coherence protocol, update lines, pins and translations (R81 to R111). A step whose condition
does not hold changes nothing. -/

namespace Sys2Proof.Machine

/-- Takes a message out of flight. -/
def takeMsg (d : Dev) (m : Nat) : Option (Msg × Dev) :=
  match d.msgs[m]? with
  | some x => some (x, { d with msgs := d.msgs.eraseIdx m })
  | none => none

/-- A step of the machine that no context issues. -/
def event (s : State) (f : Dev → Dev) : Out := .next { s with dev := f s.dev }

/-- An access that a merge of the line serves: all but a `red` of the operation that the line is in update state with. -/
def needsMerge (d : Dev) (a : GAcc) : Bool :=
  match a.op with
  | .red op => (d.home (a.pa / 128)).upd != some op
  | _ => true

/-- The accesses of a holder that wait for a line fail: a merge met an uncorrectable error (R109). -/
def failWaiting (d : Dev) (line h : Nat) : Dev :=
  let one (d : Dev) (c : Nat) : Dev :=
    match (d.ctx c).gq with
    | a :: r =>
      if a.pa / 128 = line && !a.susp && a.asked && needsMerge d a then
        pump ((failAcc d c a causeRemote).updCtx c fun k => { k with gq := r }) c
      else d
    | [] => d
  (contextsOf d h).foldl one (d.updHl line h fun x => { x with req := none })

/-- The home gives tokens, with the owner token and data when it parts with the last of them or with all (R97). -/
def homeGive (d : Dev) (line r n : Nat) (owner data : Bool) : Dev :=
  let d1 := if data || owner then spreadBad d line else d
  (d1.updHome line fun x => addHint r { x with away := x.away + n, ownerAway := x.ownerAway || owner }).send
    (.toks line (some r) r n owner false false (if data || owner then some (memLine d line) else none))

/-- A line request of a holder reaches its home: it is counted (R89), and ends the line's update state, on whose error it fails
(R109). -/
def atHome (d : Dev) (line r : Nat) (serve : Dev → Dev) : Dev :=
  let who := some (r % 16)
  match mergeLine d line who with
  | none => failWaiting (countAccess d (line * 128) who) line r
  | some d1 => serve (countAccess d1 (line * 128) who)

/-- A transient read at its home (R97). -/
def atHomeRead (d : Dev) (line r att : Nat) : Dev :=
  atHome d line r fun d1 =>
    let x := d1.home line
    if !x.ownerAway then homeGive d1 line r 1 (x.tokens == 1) true
    else (x.hints.filter (· != r)).foldl (fun e h => e.send (.fread line h r att)) d1

/-- A transient write at its home (R97). -/
def atHomeWrite (d : Dev) (line r att : Nat) : Dev :=
  atHome d line r fun d1 =>
    let x := d1.home line
    let hs := x.hints.filter (· != r)
    let d2 := if x.tokens = 0 then d1 else homeGive d1 line r x.tokens (!x.ownerAway) false
    hs.foldl (fun e h => e.send (.fwrite line h r att)) d2

/-- Activates the next queued belay request of an idle line (R100). -/
def activateNext (d : Dev) (line : Nat) : Dev :=
  let x := d.home line
  if x.active ≠ 0 then d
  else
    match x.queue with
    | [] => d
    | r :: q =>
      let told := d.allHolders.filter (· != r)
      let d1 := if x.tokens = 0 then d else homeGive d line r x.tokens (!x.ownerAway) false
      let d2 := d1.updHome line fun y => { y with active := r + 1, queue := q, acks := told, complete := false, deact := false }
      told.foldl (fun e h => e.send (.activate line h r)) d2

/-- What the active home of a line does next. Once the completion is there and every holder has acknowledged the activation, it
broadcasts deactivation, so that no activation reaches a holder after it; once that is acknowledged too, it is idle and activates
the next request (R97, R99, R100; log entry 80). -/
def homeNext (d : Dev) (line : Nat) : Dev :=
  let x := d.home line
  if x.active = 0 || !x.acks.isEmpty then d
  else if x.deact then activateNext (d.updHome line fun x => { x with active := 0, complete := false, deact := false }) line
  else if x.complete then
    d.allHolders.foldl (fun e h => e.send (.deactivate line h)) (d.updHome line fun x => { x with deact := true, acks := d.allHolders })
  else d

/-- A belay request at its home (R100, R101). -/
def atHomeBelay (d : Dev) (line r : Nat) : Dev :=
  match (d.hl line r).req with
  | some q =>
    if !q.belay then d
    else atHome d line r fun d1 => activateNext (d1.updHome line fun x => { x with queue := x.queue ++ [r] }) line
  | none => d

/-- A retry reaches the requester: its attempt of that number has failed (R98, R105). -/
def retryAttempt (d : Dev) (line r att : Nat) : Dev :=
  match (d.hl line r).req with
  | some q => if q.attempt = att then attemptFailed d line r else d
  | none => d

/-- Inside its scope a pin gives way to a request; outside, the request is refused (R105). -/
def pinAnswer (d : Dev) (line h r att : Nat) : Dev × Bool :=
  if (d.hl line h).pinned = 0 then (d, true)
  else if pinBlocks d line h r false then (retryAttempt (refusePin d line h) line r att, false)
  else (releasePin d line h, true)

/-- A forwarded read at a holder (R96). -/
def atHolderRead (d : Dev) (line h r att : Nat) : Dev :=
  match pinAnswer d line h r att with
  | (d1, false) => d1
  | (d1, true) =>
    let x := d1.hl line h
    if !x.owner then d1
    else if x.tokens ≤ 1 then sendAll d1 line h (some r)
    else
      (d1.setHl line h { x with tokens := x.tokens - 1 }).send (.toks line (some r) h 1 false false x.cmp x.data)

/-- A forwarded write at a holder (R96). -/
def atHolderWrite (d : Dev) (line h r att : Nat) : Dev :=
  match pinAnswer d line h r att with
  | (d1, false) => d1
  | (d1, true) => sendAll d1 line h (some r)

/-- An activation at a holder, which acknowledges it (R96, R103, R105); for one on a die in reset the control die does
(R101, R107). -/
def atHolderActivate (d : Dev) (line h r : Nat) : Dev :=
  let d1 :=
    if d.holderDown h then d
    else if (d.hl line h).pinned ≠ 0 && pinBlocks d line h r false then deferActivation d line h r
    else answerActivation (releasePin d line h) line h r
  d1.send (.ack line h)

/-! ## Replacement (R102) -/

/-- A stretch of global memory that an operation under way still has to read or write, with the heap window of its issue. -/
structure Span where
  win : Win
  addr : Nat
  len : Nat
  write : Bool
  deriving DecidableEq, Repr

/-- Stretches of pieces of a tile. -/
def pieceSpans (w : Win) (write : Bool) (l : List (Nat × Nat × Nat)) : List Span :=
  l.map fun p => { win := w, addr := p.1, len := p.2.2, write := write }

/-- What a copy has still to read and to write, run by run. -/
def copySpans (o : EngOp) (x : CpyDesc) : List Span :=
  ((List.range (x.n1 * x.n2 * x.n3)).filter fun r => decide (o.pos < (r + 1) * x.n0)).flatMap fun r =>
    let (s, t, _) := x.at (r * x.n0)
    (if x.ssp = 4 then [{ win := o.win, addr := s, len := x.n0, write := false }] else []) ++
      (if x.dsp = 4 then [{ win := o.win, addr := t, len := x.n0, write := true }] else [])

/-- What a firing has still to read and to write. -/
def firingSpans (k : Ctx) (e : Ctt) (read : Bool) : List Span :=
  (match e.src with
   | .tensor t R C => if read && tdLoc t = 0 then pieceSpans e.win false (panelPieces t R C e.mask) else []
   | .node _ => []) ++
  (if e.glob then (((List.range e.peers.length).zip e.peers).filter fun p => !e.served.any fun r => r.idx == p.1).map fun p =>
      { win := e.win, addr := peerDest k e p.2, len := imageSize k e, write := true }
    else [])

/-- What an operation of a queue that is under way has still to read and to write. -/
def EngOp.spans (k : Ctx) (o : EngOp) : List Span :=
  if o.phase ≠ .started && o.phase ≠ .suspended then []
  else
    match o.kind with
    | .cpy x => copySpans o x
    | .firing n => firingSpans k (k.ctt.get n) (o.pos == 0)
    | _ => []

/-- What a subscription has still to read and to write. -/
def Sub.spans (u : Sub) : List Span :=
  let tiles (t : TDesc) (write : Bool) (n m : Nat) : List Span := ((List.range m).filter fun i => decide (n ≤ i)).flatMap fun i =>
    let (R, C) := natCoord (u.coord i)
    pieceSpans u.win write (tilePieces t R C)
  (if u.loads then tiles u.src false u.fill u.tiles else []) ++ (if u.stores then tiles u.dst true u.stored u.tiles else [])

/-- What a stream has still to read and to write. -/
def Stream.spans (st : Stream) : List Span :=
  (if st.bound && !st.out && st.space = 4 then ((List.range st.total).filter fun i => decide (st.fetch ≤ i)).map fun i =>
      { win := st.win, addr := (st.elemAddr i).toNat, len := 256, write := false }
    else []) ++
  (st.pushed.filter fun p => p.space == 4).map fun p => { win := p.win, addr := p.addr, len := 256, write := true }

/-- What a node has still to read or to write of a tile in global memory; of a `tld`, the panels that a demand in force reaches. -/
def Node.spans (n : Node) (need : BitVec 8) : List Span :=
  match n.op with
  | .tld t R C => if tdLoc t = 0 then pieceSpans n.win false (panelPieces t R C (need &&& n.pendingMask)) else []
  | .store t R C m => if tdLoc t = 0 && n.unfinished then pieceSpans n.win true (panelPieces t R C m) else []
  | _ => []

/-- What the engine operations of a task that are under way have still to read and to write. -/
def Ctx.spans (k : Ctx) : List Span :=
  let need := k.closure k.starts
  ((List.range 6).flatMap fun q => (k.queue q).flatMap (EngOp.spans k)) ++
    (k.subs.filter fun x => x.2.live).flatMap (fun x => x.2.spans) ++ k.streams.flatMap (fun x => x.2.spans) ++
    k.nodes.flatMap fun x => x.2.spans (need.get x.1)

/-- A stretch reaches a line. -/
def Span.reaches (d : Dev) (c line : Nat) (x : Span) : Bool :=
  (linePieces (x.len / 128 + 2) x.addr x.len).any fun p =>
    match translateAs (d.atWin c x.win) c (d.ctx c).priv (BitVec.ofNat 64 p.1) (if x.write then .write else .read) with
    | .ok pa _ => pa / 128 == line
    | .fault _ => false

/-- A line is engine-pinned: an engine operation under way still has to read or write it through that L2 (R102). -/
def enginePinned (d : Dev) (line h : Nat) : Bool :=
  (d.ctxs ++ d.spilled).any fun x => x.2.cond != .free && holderOf x.1 == h && x.2.spans.any (Span.reaches (d.setCtx x.1 x.2) x.1 line)

/-- A line that a replacement may not take. -/
def wayPinned (d : Dev) (line h : Nat) : Bool := (d.hl line h).pinned != 0 || enginePinned d line h

/-- Lines of which a holder has tokens. -/
def heldLines (d : Dev) (h : Nat) : List Nat :=
  (d.holders.filter fun x => x.1 % 1024 == h && x.2.tokens != 0).map fun x => x.1 / 1024

/-- Lines of which an L2 has tokens in the set of a line; none where the slice has not as many as a set has ways, wherever they
lie. -/
def besideInSet (d : Dev) (line h : Nat) : List Nat :=
  let l := heldLines d h
  if l.length ≤ Config.l2Ways || 8 ≤ h % 16 then [] else l.filter fun x => Config.l2Set h x == Config.l2Set h line

/-- An L2 has more lines in a set than ways: the line that a replacement takes, none where the others are all pinned. -/
def replaced (d : Dev) (h : Nat) : Option Nat :=
  (heldLines d h).findSome? fun l =>
    let set := besideInSet d l h
    if set.length ≤ Config.l2Ways then none
    else
      let free := set.filter fun x => !wayPinned d x h
      free[Config.l2Victim d.cycle % free.length]?

/-- A line for which every way of its set is pinned: an access to it bypasses the L2. -/
def bypasses (d : Dev) (line h : Nat) : Bool :=
  let set := (besideInSet d line h).filter (· != line)
  decide (Config.l2Ways ≤ set.length) && set.all fun x => wayPinned d x h

/-- A bypassing access has performed: everything of the line goes home at once, and no pin stays. -/
def passBack (d : Dev) (line h : Nat) : Dev :=
  if (d.hl line h).tokens ≠ 0 && (d.hl line h).req.isNone && bypasses d line h then sendAll (releasePin d line h) line h none else d

/-- Tokens at a holder (R94, R96, R102). -/
def atHolderTokens (d : Dev) (line h src n : Nat) (owner dirty cmp : Bool) (data : Option Line) : Dev :=
  let x := d.hl line h
  if d.holderDown h then homeTake d line src n owner dirty cmp data
  else if x.forwarding && x.fwdTo != h then d.send (.toks line (some x.fwdTo) src n owner dirty cmp data)
  else
    let keep := x.owner && x.data.isSome
    let d1 := d.setHl line h
      { x with
        tokens := x.tokens + n, owner := x.owner || owner, dirty := x.dirty || (owner && dirty)
        cmp := if owner then cmp else x.cmp
        data := if keep then x.data else if data.isSome then data else x.data }
    passBack (pumpHolder d1 line h) line h

/-- The home enters update state, joins a die, and gives the die an entry (R109, R110). -/
def startEntry (d : Dev) (line die : Nat) (op : RedOp) : Dev :=
  let spill (d : Dev) : Dev :=
    match (d.dies.get die).upd with
    | u :: r =>
      if Config.updateEntries ≤ (d.dies.get die).upd.length then
        { d with dies := d.dies.update die fun x => { x with upd := r } }.updHome u.line fun x =>
          { x with part := x.part ++ u.ops, dies := x.dies.filter (· != die) }
      else d
    | [] => d
  let d1 := spill d
  let d2 := d1.updHome line fun x => { x with dies := if x.dies.contains die then x.dies else x.dies ++ [die] }
  { d2 with dies := d2.dies.update die fun x =>
      if x.upd.any fun u => u.line == line then x else { x with upd := x.upd ++ [{ line := line, op := op, ops := [] }] } }

/-- A forced merge, counted in UPDEARLY of its stack (R110). -/
def forceMerge (d : Dev) (line : Nat) : Dev :=
  match mergeLine d line none with
  | none => d
  | some d1 => d1.updPkg (paPkg (line * 128)) fun p => { p with updEarly := p.updEarly.update (lineStack line) (· + 1) }

/-- Lines in update state of one stack, earliest first. -/
def stackLines (d : Dev) (pkg h : Nat) : List Nat :=
  d.updOrder.filter fun l => paPkg (l * 128) == pkg && lineStack l == h

/-- Lines in update state of the stack of a line. -/
def besideLine (d : Dev) (line : Nat) : List Nat := stackLines d (paPkg (line * 128)) (lineStack line)

/-- A full store of home partials makes room for a line that enters update state (R110). -/
def makePartialRoom (d : Dev) (line : Nat) : Dev :=
  match besideLine d line with
  | l :: _ => if Config.homePartials ≤ (besideLine d line).length then forceMerge d l else d
  | [] => d

/-- A line enters update state at its home, which gathers all its tokens (R109 step 1). -/
def enterUpdate (d : Dev) (line : Nat) (op : RedOp) : Dev :=
  let d1 := gatherHome (makePartialRoom d line) line
  { (d1.updHome line fun x => { x with upd := some op, dies := [], part := [], reds := 0 }) with updOrder := d1.updOrder ++ [line] }

/-- The home answers a join: the die gets its entry, and its waiting `red`s perform. -/
def answerJoin (d : Dev) (line die : Nat) (op : RedOp) : Dev :=
  let d1 := countAccess (startEntry d line die op) (line * 128) (some (die % 8))
  (contextsOf d1 (die / 8 * 16 + die % 8)).foldl pump d1

/-- A join at its home (R109); false where it waits, for the arbiter or for pins, which record the home's own activation and defer
it (R105). -/
def joinAt (d : Dev) (line die : Nat) (op : RedOp) : Dev × Bool :=
  if (d.home line).upd = some op then (answerJoin d line die op, true)
  else if (d.home line).active ≠ 0 then (d, false)
  else
    match mergeLine d line (some (die % 8)) with
    | none => (failWaiting (countAccess d (line * 128) (some (die % 8))) line (die / 8 * 16 + die % 8), true)
    | some d1 =>
      let pins := d1.allHolders.filter fun h => (d1.hl line h).pinned != 0
      if pins.isEmpty then (answerJoin (enterUpdate d1 line op) line die op, true)
      else (pins.foldl (fun d h => deferActivation d line h homeSelf) d1, false)

/-- A request in flight reaches its home; a join that waits stays in flight. -/
def homeRequest (d : Dev) (m : Nat) : Dev :=
  match takeMsg d m with
  | some (.tread line r att, d1) => atHomeRead d1 line r att
  | some (.twrite line r att, d1) => atHomeWrite d1 line r att
  | some (.belay line r, d1) => atHomeBelay d1 line r
  | some (.join line die op, d1) =>
    match joinAt d1 line die op with
    | (d2, true) => d2
    | (_, false) => (joinAt d line die op).1
  | _ => d

/-! ## The steps -/

/-- TRANSIENT_READ (R97). -/
def execTransientRead (m : Nat) (s : State) : Out :=
  event s fun d => match d.msgs[m]? with
    | some (.tread _ _ _) => homeRequest d m
    | _ => d

/-- TRANSIENT_WRITE (R97). -/
def execTransientWrite (m : Nat) (s : State) : Out :=
  event s fun d => match d.msgs[m]? with
    | some (.twrite _ _ _) => homeRequest d m
    | _ => d

/-- The attempt of a request has run out of cycles, or the request has (R98). -/
def attemptDue (d : Dev) (line h : Nat) : Bool :=
  match (d.hl line h).req with
  | some q =>
    !q.belay && (decide (q.sent + Config.attemptCycles ≤ d.cycle) || decide (q.first + Config.escalateCycles ≤ d.cycle))
  | none => false

/-- ATTEMPT_TIMEOUT (R98). -/
def execAttemptTimeout (line holder : Nat) (s : State) : Out :=
  event s fun d => if attemptDue d line holder then attemptFailed d line holder else d

/-- FORWARDED_READ (R96). -/
def execForwardedRead (m : Nat) (s : State) : Out :=
  event s fun d => match takeMsg d m with
    | some (.fread line h r att, d1) => atHolderRead d1 line h r att
    | _ => d

/-- FORWARDED_WRITE (R96). -/
def execForwardedWrite (m : Nat) (s : State) : Out :=
  event s fun d => match takeMsg d m with
    | some (.fwrite line h r att, d1) => atHolderWrite d1 line h r att
    | _ => d

/-- ACTIVATION (R96, R100). -/
def execActivation (m : Nat) (s : State) : Out :=
  event s fun d => match takeMsg d m with
    | some (.activate line h r, d1) => atHolderActivate d1 line h r
    | _ => d

/-- DEACTIVATION (R96, R100, R107). -/
def execDeactivation (m : Nat) (s : State) : Out :=
  event s fun d => match takeMsg d m with
    | some (.deactivate line h, d1) =>
      (d1.updHl line h fun x => { x with forwarding := false, fwdTo := 0 }).send (.ack line h)
    | _ => d

/-- HOLDER_TOKENS_ARRIVE (R94, R96). -/
def execHolderTokensArrive (m : Nat) (s : State) : Out :=
  event s fun d => match takeMsg d m with
    | some (.toks line (some h) src n owner dirty cmp data, d1) => atHolderTokens d1 line h src n owner dirty cmp data
    | _ => d

/-- HOME_TOKENS_ARRIVE (R97). -/
def execHomeTokensArrive (m : Nat) (s : State) : Out :=
  event s fun d => match takeMsg d m with
    | some (.toks line none src n owner dirty cmp data, d1) => homeTake d1 line src n owner dirty cmp data
    | _ => d

/-- EVICTION (R96, R102): pinned lines are not chosen. -/
def execEviction (line holder : Nat) (s : State) : Out :=
  event s fun d => if (d.hl line holder).tokens = 0 || wayPinned d line holder then d else sendAll d line holder none

/-- BELAY_REQUEST (R100). -/
def execBelayRequest (m : Nat) (s : State) : Out :=
  event s fun d => match d.msgs[m]? with
    | some (.belay _ _) => homeRequest d m
    | _ => d

/-- BELAY_COMPLETION (R97, R100). -/
def execBelayCompletion (m : Nat) (s : State) : Out :=
  event s fun d => match takeMsg d m with
    | some (.belayDone line r, d1) =>
      if (d1.home line).active = r + 1 then homeNext (d1.updHome line fun x => { x with complete := true }) line
      else d1.updHome line fun x => { x with queue := x.queue.erase r }
    | _ => d

/-- DEACTIVATION_ACKNOWLEDGED (R97, R100): an acknowledgement reaches the home, of an activation or of a deactivation. -/
def execDeactivationAcknowledged (m : Nat) (s : State) : Out :=
  event s fun d => match takeMsg d m with
    | some (.ack line h, d1) => homeNext (d1.updHome line fun x => { x with acks := x.acks.erase h }) line
    | _ => d

/-- UPDATE_JOIN (R109). -/
def execUpdateJoin (m : Nat) (s : State) : Out :=
  event s fun d => match d.msgs[m]? with
    | some (.join _ _ _) => homeRequest d m
    | _ => d

/-- A request in flight that a merge of a line serves (R109 steps 3 and 4). -/
def servedByMerge (d : Dev) (line : Nat) : Msg → Bool
  | .tread l _ _ | .twrite l _ _ | .belay l _ => l == line
  | .join l _ op => l == line && (d.home line).upd != some op
  | _ => false

/-- UPDATE_MERGE (R109 step 4): the first request that needs it makes the home merge the line, and is served. -/
def execUpdateMerge (line : Nat) (s : State) : Out :=
  event s fun d =>
    if (d.home line).upd.isNone then d
    else
      match d.msgs.findIdx? (servedByMerge d line) with
      | some m => homeRequest d m
      | none => d

/-- UPDATE_BUFFER_EVICTION (R110): a full buffer sends its least recently used partial home. -/
def execUpdateBufferEviction (die : Nat) (s : State) : Out :=
  event s fun d =>
    match (d.dies.get die).upd with
    | u :: r =>
      if Config.updateEntries ≤ (d.dies.get die).upd.length then
        { d with dies := d.dies.update die fun x => { x with upd := r } }.updHome u.line fun x =>
          { x with part := x.part ++ u.ops, dies := x.dies.filter (· != die) }
      else d
    | [] => d

/-- A join that would enter a line of a stack into update state waits at its home. -/
def joinWaits (d : Dev) (pkg home : Nat) : Msg → Bool
  | .join l _ _ => paPkg (l * 128) == pkg && lineStack l == home && (d.home l).upd.isNone
  | _ => false

/-- FORCED_MERGE (R110): a line that has absorbed 2^40 operations, or the earliest of a full store that a join finds full. -/
def execForcedMerge (pkg home : Nat) (s : State) : Out :=
  event s fun d =>
    let ls := stackLines d pkg home
    match ls.find? fun l => decide (Config.maxReds ≤ (d.home l).reds) with
    | some l => forceMerge d l
    | none =>
      match ls with
      | l :: _ => if decide (Config.homePartials ≤ ls.length) && d.msgs.any (joinWaits d pkg home) then forceMerge d l else d
      | [] => d

/-- Scope code of R60. -/
def scopeCode : Scope → Nat
  | .dom => 0
  | .pkg => 1
  | .die => 2

/-- PIN_EXPIRED of a pin (R106). -/
def pinTrap (p : Pin) : TrapRec :=
  { (default : TrapRec) with
    cause := 0x15, info0 := p.va, info1 := 0x100, info2 := BitVec.ofNat 64 (scopeCode p.scope), imp := true, va := p.va }

/-- PIN_EXPIRY of the task in place. -/
def pinExpiryStep (c line : Nat) (d : Dev) : Dev :=
  match (d.ctx c).pins.find? fun p => p.line == line with
  | some p =>
    match p.refused with
    | some t =>
      if t + ((d.ctx c).spr' Spr.pinlim).toNat ≤ d.cycle then
        (releasePin d line p.holder).updCtx c fun k => { k with asyncs := k.asyncs ++ [pinTrap p] }
      else d
    | none => d
  | none => d

/-- PIN_EXPIRY (R106). -/
def execPinExpiry (c line : Nat) (s : State) : Out := event s fun d => onTasks d c (pinExpiryStep c line)

/-- An access that still uses a translation of a range; one suspended on a page fault has none (R81, R83). -/
def usesRange (va len : Nat) (a : GAcc) : Bool := !a.susp && decide (va ≤ a.va.toNat) && decide (a.va.toNat < va + len)

/-- TLB_INVALIDATION (R81): complete once no access still uses an old translation of the range. -/
def execTlbInvalidation (pkg job : Nat) (va len : Nat) (s : State) : Out :=
  event s fun d =>
    let uses (x : Nat × Ctx) : Bool := pkgOf x.1 == pkg && x.2.task.job == job && x.2.gq.any (usesRange va len)
    let keep (t : Tlb) : Bool := !(t.job == job && decide (t.va < va + len) && decide (va < t.va + t.size))
    let clear (m : SMap Die) (i : Nat) : SMap Die := SMap.update m (8 * pkg + i) fun x => { x with tlb := x.tlb.filter keep }
    if d.ctxs.any uses || d.spilled.any uses then d else { d with dies := (List.range 8).foldl clear d.dies }

/-- PAGE_TABLE_WALK (R76 to R82): a walk for an address that a die's TLB does not hold. -/
def execPageTableWalk (die job : Nat) (va : Word) (s : State) : Out :=
  event s fun d => if (d.dies.get die).inReset then d else walkFor d die job va.toNat

/-- TOKEN_BUCKET_REFILL (R126): the buckets change only timing. -/
def bucketAfter (r : Word) (level cycles : Nat) : Nat :=
  Nat.min (Nat.max (bits r 32 24) 128 * 1024) (level + bits r 0 32 * cycles)

/-- One cycle's refill of both buckets, in units of 1/1024 byte. -/
def execTokenBucketRefill (c : Nat) (s : State) : Out :=
  event s fun d => onTasks d c fun d => d.updCtx c fun k =>
    if k.cond = .free then k
    else { k with bktL2 := bucketAfter (k.spr' Spr.tbl2) k.bktL2 1, bktHbm := bucketAfter (k.spr' Spr.tbhbm) k.bktHbm 1 }

end Sys2Proof.Machine
end

