-- ==== Sys2Proof/Machine/Sync.lean ====
section
/-! DEFINITION. Waiting, fences, barriers, spawning, yielding and the end of a task by its own `halt` (R325 to R331, R344 to
R353). -/

namespace Sys2Proof.Machine

/-! ## `fence` (R329, R330) -/

/-- A close node that waits for a demand held at a link of its chain (R250); a fence does not wait for it. -/
def heldClose (d : Dev) (n : Node) : Bool :=
  match n.op with
  | .close h _ =>
    n.pendingMask != 0#8 && (liveChain d h).any fun x => (List.range x.links.length).any fun p => (boundSlot d x h p).any Slot.held
  | _ => false

/-- Masks of pending panels that a node has among those of `need`, restricted to panels that use one of `seen`. -/
def Node.using (n : Node) (need seen : SMap (BitVec 8)) (i : Nat) : BitVec 8 :=
  (List.range 8).foldl (fun m p =>
    if n.pendingMask.getLsbD p && (need.get i).getLsbD p && (n.needs p).any fun x => seen.get x.1 &&& x.2 != 0#8 then
      m ||| BitVec.ofNat 8 (2 ^ p) else m) 0#8

/-- Panels fed by `seen` among demanded ones, in order of append; stores are left to Q2. -/
def feed (need : SMap (BitVec 8)) : List (Nat × Node) → SMap (BitVec 8) → SMap (BitVec 8)
  | [], seen => seen
  | (i, n) :: r, seen =>
    let isStore := match n.op with
      | .store .. => true
      | _ => false
    let m := if isStore then 0#8 else n.using need seen i
    feed need r (if m = 0#8 then seen else SMap.update seen i fun x => x ||| m)

/-- What `fence.nodes` demands: pending panels of `tld` nodes with a global source, and the panels they feed into nodes
already demanded. -/
def fenceStarts (d : Dev) (c : Nat) : List (Nat × BitVec 8) :=
  let k := d.ctx c
  let srcs : SMap (BitVec 8) := k.nodes.filterMap fun (i, n) =>
    match n.op with
    | .tld t _ _ => if tdLoc t = 0 && n.pendingMask != 0#8 then some (i, n.pendingMask) else none
    | _ => none
  let need := k.closure k.starts
  let held : SMap (BitVec 8) := k.nodes.filterMap fun (i, n) => if heldClose d n then some (i, 0xFF#8) else none
  let kept := feed need k.inOrder held
  (feed need k.inOrder srcs).filter fun x => kept.get x.1 &&& x.2 == 0#8

/-- Every queue of a mask is empty, and no queue fence that belongs to one of them is outstanding (R118, R330). -/
def Ctx.queuesEmpty (k : Ctx) (m : BitVec 6) : Bool :=
  ((List.range 6).all fun q => !m.getLsbD q || (k.queue q).isEmpty) && k.fences.all fun f => f.mask &&& m == 0#6

/-- Every earlier scalar global access has performed; else the bundle waits, or the access ahead takes the context out
(R83, R330). -/
def Env.afterAccesses (E : Env) (k : Eff) : Eff :=
  if E.k.gq.isEmpty then k
  else
    match pageFaultAhead E.pre E.c with
    | some (d, r) => .stop d (some r) .engine
    | none => .stop E.pre none .engine

/-- Forces what a list of starts names on the boundary's device, and the bundle is tried again. -/
def Env.forceFirst (E : Env) (starts : List (Nat × BitVec 8)) (k : Eff) : Eff :=
  if starts.isEmpty then k
  else
    match forceNow E E.pre starts with
    | .ok d => .stop d none .engine
    | .wait d => .stop d none .engine
    | .trap d r => .stop d (some r) .engine

/-- Scopes from the narrowest up. -/
def scopeRank : Scope → Nat
  | .die => 0
  | .pkg => 1
  | .dom => 2

/-- A pin has refused a request, or deferred an activation, from a holder inside the scope that it has now (R325). -/
def refusedInside (d : Dev) (p : Pin) : Bool :=
  (d.hl p.line p.holder).deferred.any p.inside ||
    (p.refused.isSome && d.allHolders.any fun h => h != p.holder && (d.hl p.line h).req.isSome && p.inside h)

/-- A pin whose scope a fence has widened answers what it has refused from inside, and is released (R325). -/
def answerRefused (d : Dev) (p : Pin) : Dev := if refusedInside d p then releasePin d p.line p.holder else d

/-- A pin that an access of the fence's own bundle has made or renewed stands as that access leaves it after the fence (R330):
`old` is the pin of the line before the bundle. Where the fence would have released `old`, the clock starts anew. -/
def ownPin (d : Dev) (sc : Scope) (old : Option Pin) (p : Pin) : Pin :=
  let anew : Pin := { p with refused := if (d.hl p.line p.holder).deferred.isSome then some d.cycle else none }
  match old with
  | none => p
  | some q =>
    if sc = .dom then { anew with scope := p.last }
    else
      let wide : Pin := { q with scope := if scopeRank q.scope < scopeRank sc then sc else q.scope }
      { (if wide != q && refusedInside d wide then anew else p) with scope := narrower wide.scope p.last }

/-- The scope action of a fence (R330): pins of narrower scope take its scope; a `.dom` fence releases them. `pre` is the device before
the fence's bundle, whose own pins count as made after the fence. -/
def widenPins (pre d : Dev) (c : Nat) (sc : Scope) : Dev :=
  let own (p : Pin) : Bool := decide ((pre.ctx c).nextTag < p.tag)
  let narrow (p : Pin) : Bool := !own p && decide (scopeRank p.scope < scopeRank sc)
  let widen (p : Pin) : Pin :=
    if own p then ownPin d sc (pinOf pre p.line p.holder) p else if narrow p && sc != .dom then { p with scope := sc } else p
  let mine := (d.ctx c).pins.filter narrow
  let d1 := d.updCtx c fun k => { k with pins := k.pins.map widen }
  if sc = .dom then mine.foldl (fun d p => releasePin d p.line p.holder) d1
  else mine.foldl (fun d p => answerRefused d { p with scope := sc }) d1

/-- `fence` (R329, R330). -/
def execFence (g : Guard) (sc : Option Scope) (q : Option (BitVec 6)) (n : Bool) (s : State) : Out :=
  syllable (.fence g sc q n) s noChecks fun E w =>
    if !E.on g then .ok w none
    else
      E.forceFirst (if n then fenceStarts E.pre E.c else [])
        (if !E.k.queuesEmpty (q.getD 0#6) then .stop E.pre none .engine
         else E.afterAccesses (.ok (match sc with
           | some x => widenPins E.pre w E.c x
           | none => w) none))

/-! ## `wait` (R350) -/

/-- `wait.t` (R350). -/
def execWaitT (g : Guard) (sa : BitVec 6) (n : BitVec 3) (s : State) : Out :=
  syllable (.waitT g sa n) s noChecks fun E w =>
    if E.on g && (E.k.queue n.toNat).any fun o => o.ticket == bits (E.rdS sa) 0 32 then .stop E.pre none .engine
    else .ok w none

/-- `wait.ge` (R350): the word is read again at each attempt. -/
def execWaitGe (g : Guard) (sd sa sb : BitVec 6) (s : State) : Out :=
  syllable (.waitGe g sd sa sb) s (fun E _ => recordHits E (E.rdS sa) 8 8 (E.on g)) fun E w =>
    if !E.on g then .ok w none
    else
      let a := (E.rdS sa).toNat
      let v := rdSpad E.d0 E.c a 8
      afterRecord E a 8
        (if (E.rdS sb).toNat ≤ v then .ok (E.putS w 2 sd (BitVec.ofNat 64 v)) none else .stop E.pre none .engine)

/-! ## Barriers (R351, R352) -/

/-- Key of a barrier of a context's cluster. -/
def barrierKey (c b : Nat) : Nat := clusterOf c * 16 + b

def Dev.barrier (d : Dev) (key : Nat) : Barrier := d.barriers.get key

/-- An arrival (R351). -/
def Barrier.arrive (x : Barrier) : Barrier :=
  if x.arrived + 1 = x.expect then { x with arrived := 0, gen := (x.gen + 1) % 2 ^ 16 } else { x with arrived := x.arrived + 1 }

def arriveAt (d : Dev) (key : Nat) : Dev := { d with barriers := d.barriers.update key Barrier.arrive }

/-- An arrival needs a claimed barrier of the context's job (R351). -/
def Env.arrivalHits (E : Env) (w : Dev) (g : Guard) (b : Nat) : List Hit :=
  let x := w.barrier (barrierKey E.c b)
  if E.on g && (x.expect == 0 || x.job != E.k.task.job) then
    [E.hit 9 { E.trap causeViolation with info0 := BitVec.ofNat 64 b, info1 := 0 }]
  else []

/-- `signal` (R352). -/
def execSignal (g : Guard) (sd : BitVec 6) (b : BitVec 4) (s : State) : Out :=
  syllable (.signal g sd b) s (fun E w => E.arrivalHits w g b.toNat) fun E w =>
    if !E.on g then .ok w none
    else
      let key := barrierKey E.c b.toNat
      .ok (arriveAt (E.putS w 2 sd (BitVec.ofNat 64 (w.barrier key).gen)) key) none

/-- The arrival that this bundle's `bar` has made, as GEN before it (R352). -/
def Env.arrived (E : Env) (b : Nat) : Option Nat :=
  match E.k.barrier.get E.k.hs.code with
  | some (pc, n, gen) => if pc = E.addr && n = b then some gen else none
  | none => none

/-- `bar` (R352): it arrives once, when everything else would let the bundle issue, and waits for the next GEN. -/
def execBar (g : Guard) (sd : BitVec 6) (b : BitVec 4) (s : State) : Out :=
  syllable (.bar g sd b) s (fun E w => if (E.arrived b.toNat).isSome then [] else E.arrivalHits w g b.toNat) fun E w =>
    if !E.on g then .ok w none
    else
      let key := barrierKey E.c b.toNat
      match E.arrived b.toNat with
      | some gen =>
        if (w.barrier key).gen = gen then .stop E.pre none .engine
        else .ok (E.putS w 2 sd (BitVec.ofNat 64 gen)) none
      | none =>
        if 32 < (w.ctx E.c).outstanding then .stop E.pre none .short
        else
          let gen := (w.barrier key).gen
          let w1 := arriveAt w key
          if (w1.barrier key).gen ≠ gen then .ok (E.putS w1 2 sd (BitVec.ofNat 64 gen)) none
          else
            .stop ((arriveAt E.pre key).updCtx E.c fun k =>
              { k with barrier := k.barrier.set k.hs.code (some (E.addr, b.toNat, gen)) }) none .engine

/-- What `bar.set` makes of a barrier (R352). -/
def Barrier.setTo (x : Barrier) (job count : Nat) : Barrier :=
  if count = 0 then { job := 0, expect := 0, arrived := 0, gen := (x.gen + 1) % 2 ^ 16 }
  else if count ≤ x.arrived then { job := job, expect := count, arrived := 0, gen := (x.gen + 1) % 2 ^ 16 }
  else { x with job := job, expect := count }

/-- `bar.set` (R352). -/
def execBarSet (g : Guard) (sa : BitVec 6) (b : BitVec 4) (s : State) : Out :=
  syllable (.barSet g sa b) s
    (fun E w =>
      let x := w.barrier (barrierKey E.c b.toNat)
      E.fails
        [(decide (192 < (E.rdS sa).toNat), E.illegalValue),
         (x.expect != 0 && x.job != E.k.task.job, E.hit 9 (E.trap causeViolation))])
    fun E w =>
      if !E.on g then .ok w none
      else
        let bs := w.barriers.update (barrierKey E.c b.toNat) fun x => x.setTo E.k.task.job (E.rdS sa).toNat
        .ok { w with barriers := bs } none

/-! ## `frwait` (R353) -/

/-- `frwait` (R353). -/
def execFrwait (g : Guard) (sa : BitVec 6) (s : State) : Out :=
  syllable (.frwait g sa) s noChecks fun E w =>
    if E.on g && (E.pre.pkg (pkgOf E.c)).frame.toNat < (E.rdS sa).toNat then .stop E.pre none .engine else .ok w none

/-- Frame `f` of a job's sheet on a package has started, or the job runs no sheet there (R353). -/
def frameStarted (d : Dev) (pkg job f : Nat) : Bool :=
  match (d.job pkg job).sheet with
  | none => true
  | some sh => !sh.started || sh.ended || decide (f ≤ sh.frame)

/-- `frwait.frame` (R353). -/
def execFrwaitFrame (g : Guard) (sa : BitVec 6) (s : State) : Out :=
  syllable (.frwaitFrame g sa) s noChecks fun E w =>
    if E.on g && !frameStarted E.pre (pkgOf E.c) E.k.task.job (E.rdS sa).toNat then .stop E.pre none .engine else .ok w none

/-! ## `spawn`, `cancel` and `yield` (R345 to R349) -/

/-- The task a spawn record describes (R345). -/
def Env.spawnTask (E : Env) (a : Nat) : QTask :=
  { job := E.k.task.job, type := E.rec_ a 8 1, prio := E.rec_ a 9 1 % 16, arg := BitVec.ofNat 64 (E.rec_ a 0 8)
    key0 := BitVec.ofNat 64 (E.rec_ a 16 8), key1 := BitVec.ofNat 64 (E.rec_ a 24 8), any := nbit (E.rec_ a 12 4) 31
    target := nbits (E.rec_ a 12 4) 0 17, sheet := none }

/-- The status of a `spawn`, 0 for one that is sent (R346). -/
def Env.spawnCode (E : Env) (w : Dev) (a : Nat) : Nat :=
  let q := E.spawnTask a
  let j := w.job (pkgOf E.c) q.job
  firstCode
    [(j.cancelled, codeCancelled),
     (nbits (E.rec_ a 9 1) 4 4 != 0 || !E.recZero a 10 2 || nbits (E.rec_ a 12 4) 17 14 != 0 ||
        !j.types.keys.contains q.type || ((j.types.get q.type).priv && !E.k.privNow), 1),
     (!j.gang.getLsbD (q.target / 2 ^ 11) || (!q.any && decide (48 ≤ q.target % 64)), 2)]

/-- `spawn` (R346). -/
def execSpawn (g : Guard) (sd sa : BitVec 6) (s : State) : Out :=
  syllable (.spawn g sd sa) s (fun E _ => recordHits E (E.rdS sa) 32 32 (E.on g)) fun E w =>
    if !E.on g then .ok w none
    else
      let a := (E.rdS sa).toNat
      let code := E.spawnCode w a
      let w1 := E.putS w 2 sd (BitVec.ofNat 64 code)
      afterRecord E a 32
        (if code ≠ 0 then .ok w1 none
         else
           let q := E.spawnTask a
           let p : SpawnPkt := { ctx := E.c, serial := E.k.serial, gtag := (w.ctx E.c).nextTag, pkg := q.target / 2 ^ 11, task := q }
           .ok ((w1.updJob (pkgOf E.c) q.job fun j => { j with infl := j.infl + 1 }).send (.spawn p)) none)

/-- The job that `cancel` names (R349). -/
def Env.cancelTarget (E : Env) (sa : BitVec 6) : Nat := if E.rdS sa = 0#64 then E.k.task.job else (E.rdS sa).toNat

/-- `cancel` (R348, R349). -/
def execCancel (g : Guard) (sa : BitVec 6) (s : State) : Out :=
  syllable (.cancel g sa) s
    (fun E _ => if E.cancelTarget sa != E.k.task.job && !E.k.privNow then [{ E.hit 6 (E.trap 0x07) with late := true }] else [])
    fun E w => .ok (if E.on g then cancelJob w (pkgOf E.c) (E.cancelTarget sa) else w) none

/-- `yield` (R347). -/
def execYield (g : Guard) (s : State) : Out :=
  syllable (.yield g) s noChecks fun E w => .ok (if E.on g then yieldRole w E.c else w) none

/-! ## `halt` (R284, R331, R347) -/

/-- As `Env.forceFirst`, but a fault of a node of `quiet` does not trap: those are the nodes that the contributions demand, and such a
fault freezes the chain instead (R284, R347). -/
def Env.forceHalt (E : Env) (quiet starts : List (Nat × BitVec 8)) (k : Eff) : Eff :=
  if starts.isEmpty then k
  else
    match forceNow E E.pre starts with
    | .ok d => .stop d none .engine
    | .wait d => .stop d none .engine
    | .trap d r =>
      if r.cause ≠ 0x10 then .stop d (some r) .engine
      else
        let k1 := d.ctx E.c
        match (faultedIn k1 starts).find? fun x => quiet.all fun y => y.1 != x.1 with
        | some (i, m) => .stop d (some { nodeFault k1 i m E.addr E.opc E.slot false with utpc := E.addr }) .engine
        | none => .stop d none .engine

/-- Pending contributions of a context; those to a frozen chain keep `halt` waiting (R284). -/
def haltContribs (k : Ctx) : List (Nat × BitVec 8) :=
  k.nodes.filterMap fun (i, n) =>
    match n.op with
    | .contrib .. => if n.unfinished then some (i, 1#8) else none
    | _ => none

/-- Pending close nodes of a context whose chains name a collective entry. -/
def haltCloses (d : Dev) (k : Ctx) : List (Nat × BitVec 8) :=
  k.nodes.filterMap fun (i, n) =>
    match n.op with
    | .close h _ => if n.pendingMask != 0#8 && (liveChain d h).any fun x => x.ctt != 0xFF then some (i, 0xFF#8) else none
    | _ => none

/-- The active subscriptions of a context. -/
def activeSubs (k : Ctx) : List Nat := (List.range 8).filter fun n => (k.sub n).state == 1

/-- Starts the `unsub` of every active subscription (R137, R347). -/
def haltUnsubs (d : Dev) (c : Nat) (pc : Word) : Dev :=
  (activeSubs (d.ctx c)).foldl (fun d n =>
    if (d.ctx c).queueFull 1 then d
    else
      let fin := ((d.ctx c).sub n).fin
      (updSub d c n fun u => { u with state := 2 }).updCtx c fun k =>
        let o : EngOp :=
          { kind := .unsub n fin, ticket := k.nextTicket 1, cue := false, done := none, phase := .queued, result := 0
            seq := k.seq, gtag := k.nextTag, pc := pc, pos := 0, fault := none, win := k.win, paid := default }
        { (k.setQueue 1 (k.queue 1 ++ [o])) with seq := k.seq + 1, tickets := k.tickets.set 1 o.ticket }) d

/-- Nothing is left that `halt` waits for. -/
def haltDrained (k : Ctx) : Bool :=
  k.queuesEmpty 0x3F#6 && (activeSubs k).isEmpty && !(k.ctt.any fun x => x.2.state == 2 || (x.2.state == 1 && x.2.ready)) &&
    (k.streams.all fun x => x.2.pushed.isEmpty) &&
    !(k.nodes.any fun x => match x.2.op with
      | .store .. => x.2.unfinished
      | _ => false)

/-- Performs one scalar access of the halting bundle in one step; it waits while a pin or a belay request holds it back. A `red`
enters its die's update entry, for which the die joins the line (R109, R322). -/
def finishAcc (c : Nat) (d : Dev) (a : GAcc) : Perf :=
  let line := a.pa / 128
  let write (d : Dev) (v : Nat) : Perf :=
    match coWrite d line (holderOf c) false a.cmpAttr (spanOf a.pa (bytesOf a.bytes v)) with
    | .ok d1 _ | .err d1 => .done d1
    | .wait d1 => .wait d1
  let read (d : Dev) (k : Dev → Nat → Perf) : Perf :=
    match coRead d line (holderOf c) false with
    | .ok d1 v => k d1 (lineGet v (a.pa % 128) a.bytes)
    | .wait d1 => .wait d1
    | .err d1 => .done d1
  if a.susp then .done d
  else if paKind a.pa = .system then performAcc d c a
  else
    match a.op with
    | .ldg _ => read d fun d1 _ => .done d1
    | .stg _ => write d a.data.toNat
    | .amo op => read d fun d1 old => write d1 (amoNew op old a.data.toNat a.cmp.toNat)
    | .red op =>
      match performRed d c a op with
      | .done d1 => .done d1
      | .wait _ =>
        match joinAt d line (dieKey c) op with
        | (d1, false) => .wait d1
        | (d1, true) =>
          match performRed d1 c a op with
          | .done d2 => .done d2
          | .wait _ => .done d1

/-- Scalar accesses of the halting bundle perform with it (R347), or the first that waits is given. -/
def finishAccs (c : Nat) : List GAcc → Dev → Except GAcc Dev
  | [], d => .ok d
  | a :: r, d =>
    match finishAcc c d a with
    | .done d1 => finishAccs c r d1
    | .wait _ => .error a

/-- A bundle stalls for an access that a pin has refused: the refusal stands (R106). -/
def stallFor (c : Nat) (d : Dev) (a : GAcc) : Dev :=
  match finishAcc c d a with
  | .wait d1 => d1
  | .done _ => d

/-- `halt` (R347). -/
def execHalt (g : Guard) (s : State) : Out :=
  syllable (.halt g) s noChecks fun E w =>
    if !E.on g then .ok w none
    else
      let d := E.pre
      let k := d.ctx E.c
      E.forceHalt (k.closure (haltContribs k)) (haltContribs k ++ haltCloses d k ++ fenceStarts d E.c)
        (E.afterAccesses
          (if !haltDrained k then .stop (if k.queuesEmpty 0x3F#6 then haltUnsubs d E.c E.addr else d) none .engine
           else if !haltDrained E.k then .stop E.d0 none .engine
           else
             match finishAccs E.c (w.ctx E.c).gq (w.updCtx E.c fun k => { k with gq := [] }) with
             | .error a => .stop (stallFor E.c E.pre a) none .engine
             | .ok w1 => .ok (settleRoles (endTask w1 E.c haltShort) (coreOf E.c)) none))

end Sys2Proof.Machine
end

