-- ==== Sys2Proof/Machine/Traps.lean ====
section
/-! DEFINITION. Diversions of a context at its bundle boundaries, the handler instructions, the special registers as `rds` and
`wrs` name them, and firmware delivery (R36, R37, R128, R358 to R378, R402). -/

namespace Sys2Proof.Machine

/-! ## The steps that take a diversion (R358, R361) -/

/-- A context stands at a bundle boundary. -/
def atBoundary (s : State) (c : Nat) : Bool := s.bundle.isNone || s.cur != c

/-- Takes the next diversion of a context if it is of the kind asked for. -/
def divertIf (s : State) (c : Nat) (want : Ctx → Divert → Bool) : Out :=
  let d := reportDemands s.dev c
  let v := nextDivert d c
  .next (if atBoundary s c && want (d.ctx c) v then { s with dev := takeDivert d c v } else s)

/-- USER_TRAP_ENTRY (R360, R363): a result-time fault or a SOFTWARE trap goes to the user handler. -/
def execUserTrapEntry (c : Nat) (s : State) : Out :=
  divertIf s c fun k v =>
    match v with
    | .result _ r | .post r => k.userRoute r.cause
    | _ => false

/-- FIRMWARE_TRAP_DELIVERY (R360, R376): it goes to firmware. -/
def execFirmwareTrapDelivery (c : Nat) (s : State) : Out :=
  divertIf s c fun k v =>
    match v with
    | .result _ r | .post r => !k.userRoute r.cause
    | _ => false

/-- ASYNC_TRAP_DELIVERY (R358, R361). -/
def execAsyncTrapDelivery (c : Nat) (s : State) : Out :=
  divertIf s c fun _ v =>
    match v with
    | .async _ => true
    | _ => false

/-- CUE_TAKEN (R128). -/
def execCueTaken (c : Nat) (s : State) : Out := divertIf s c fun _ v => v == .cue

/-! ## `trap`, `tret` and `cret` (R370, R371, R402) -/

/-- `trap` (R371): the bundle issues in full, and SOFTWARE is taken after it. -/
def execTrap (g : Guard) (sa : BitVec 6) (code : BitVec 12) (s : State) : Out :=
  syllable (.trap g sa code) s noChecks fun E w =>
    if E.on g then
      let r := { E.trap 0x19 with info0 := code.setWidth 64, info1 := E.rdS sa }
      .ok (w.updCtx E.c fun k => { k with post := k.post.set k.hs.code (some r) }) none
    else .ok w none

/-- TRET_OUTSIDE of a return in the wrong handler state (R370). -/
def Env.outside (E : Env) (g : Guard) : Hit := E.hitGuarded g { E.trap 0x16 with info0 := 0, info1 := E.tag false }

/-- The entries of a handler stream settle as its return issues (R402): it waits for them, takes the first fault among
them, or writes them all; then `leave` changes the handler state and gives the group that joins the stream again. -/
def Env.return_ (E : Env) (w : Dev) (leave : Ctx → Ctx × List Entry) (target : Word) : Eff :=
  let es := E.k.infl
  if es.any fun e => !e.ready && e.fault.isNone then .stop E.pre none .short
  else
    match es.find? fun e => e.fault.isSome with
    | some e =>
      match e.fault with
      | some r => .stop (consumeFault E.pre E.c e r) (some { r with utpc := E.addr }) .short
      | none => .ok w none
    | none =>
      let w1 := (deliverAll w E.c es).updCtx E.c fun k => { k with infl := [] }
      .ok (w1.updCtx E.c fun k =>
        let (k1, group) := leave k
        reinject k1 (group.map fun e => { e with rem := e.rem + 1 })) (some target)

/-- `tret` (R370). -/
def execTret (g : Guard) (s : State) : Out :=
  syllable (.tret g) s
    (fun E _ =>
      let stat := E.k.spr' Spr.utstat
      if !E.on g then []
      else if !E.k.hs.inTrap then [E.outside g]
      else if bits stat 24 40 != 0 || bits stat 4 12 != 0 then [E.hitGuarded g (E.trap 0x17)]
      else [])
    fun E w =>
      if E.on g then
        E.return_ w (fun k => ({ k with hs := if k.hs = .trapInCue then .cue else .stream, gTrap := [] }, k.gTrap))
          (E.k.spr' Spr.utpc)
      else .ok w none

/-- `cret` (R370). -/
def execCret (g : Guard) (s : State) : Out :=
  syllable (.cret g) s (fun E _ => if E.on g && E.k.hs != .cue then [E.outside g] else []) fun E w =>
    if E.on g then E.return_ w (fun k => ({ k with hs := .stream, gCue := [] }, k.gCue)) (E.k.spr' Spr.cuepc)
    else .ok w none

/-! ## `rds` and `wrs` (R36, R37, R372) -/

/-- Privileged registers (R37). -/
def sprPriv : List Nat := [0x040, 0x041, 0x042, 0x090, 0x091, 0x0D0, 0x0E0]

/-- A privileged register named at user privilege (R36). -/
def Env.privHits (E : Env) (n : Nat) : List Hit :=
  if sprPriv.contains n && !E.k.privNow then [E.hit 6 (E.trap 0x07)] else []

/-- `rds` (R372). -/
def execRds (g : Guard) (sd : BitVec 6) (num : BitVec 12) (s : State) : Out :=
  syllable (.rds g sd num) s (fun E _ => E.privHits num.toNat) fun E w =>
    if E.on g then .ok (E.putS w 2 sd (readSpr E.d0 E.c E.addr num.toNat)) none else .ok w none

/-- Registers that hold a branch target (R53). -/
def sprTargets : List Nat := [0x050, 0x052, 0x060, 0x063]

/-- Checks of the value a `wrs` writes (R37, R53). -/
def Env.wrsHits (E : Env) (n : Nat) (v : Word) : List Hit :=
  let k := E.k
  let lo := (k.spr' Spr.hwb).toNat
  let hi := lo + (k.spr' Spr.hwl).toNat
  E.fails
    [((sprTargets.contains n && !alignedTo 8 v.toNat) || (n == 0x0E0 && !alignedTo 256 v.toNat),
       E.hit 9 { E.trap 0x08 with info2 := v }),
     (n == 0x0E0 && !(decide (lo ≤ v.toNat) && decide (v.toNat + Config.saveSize ≤ hi)), E.hit 9 (E.trap causeViolation))]

/-- Bits of a register that a write of `v` replaces (R8, R9, R27, R37, R39, R73, R125, R127, R364). -/
def sprMask (k : Ctx) (n : Nat) (v : Word) : Word :=
  match n with
  | 0x010 | 0x011 | 0x030 | 0x031 | 0x032 | 0x050 | 0x052 | 0x054 | 0x055 | 0x056 | 0x057 | 0x060 | 0x063 | 0x070
  | 0x0C0 | 0x0C1 | 0x0C2 | 0x0D0 | 0x0E0 => BitVec.allOnes 64
  | 0x012 => if k.allot.vSize = 32 then 0x70F#64 else 0#64
  | 0x020 => if bits v 0 3 < 6 then 0x1F07#64 else 0x1F00#64
  | 0x021 => 0x3F#64
  | 0x040 => 0x0000FFFFFFE00000#64
  | 0x041 => 0x0001FFFFFFE00000#64
  | 0x042 => 0xFFFFFFFFFFE00000#64
  | 0x051 => 0xFF#64
  | 0x053 => 0xFFFFFFFFFF00FFF0#64
  | 0x05A => 0xBFF7BFE#64
  | 0x061 => 0x17F#64
  | 0x090 | 0x091 => 0x00FFFFFFFFFFFFFF#64
  | _ => 0#64

/-- The other effects of a write: an emptied random queue, or a bucket full again (R37, R126). -/
def sprEffect (n : Nat) (k : Ctx) : Ctx :=
  match n with
  | 0x030 | 0x031 | 0x032 => { k with rq := [] }
  | 0x090 => { k with bktL2 := bucketFull (k.spr' Spr.tbl2) }
  | 0x091 => { k with bktHbm := bucketFull (k.spr' Spr.tbhbm) }
  | _ => k

/-- Writes a special register. -/
def writeSpr (d : Dev) (c n : Nat) (v : Word) : Dev :=
  d.updCtx c fun k =>
    if n = 0x062 then k.setSpr n (k.spr' n &&& ~~~v)
    else
      let m := sprMask k n v
      if m = 0#64 then k else sprEffect n (k.setSpr n ((k.spr' n &&& ~~~m) ||| (v &&& m)))

/-- `wrs` (R372). -/
def execWrs (g : Guard) (sa : BitVec 6) (num : BitVec 12) (s : State) : Out :=
  syllable (.wrs g sa num) s (fun E _ => E.privHits num.toNat ++ E.wrsHits num.toNat (E.rdS sa)) fun E w =>
    .ok (if E.on g then writeSpr w E.c num.toNat (E.rdS sa) else w) none

/-! ## CTXCMD (R376) -/

/-- Puts an access back into its place in program order. -/
def insertAcc (a : GAcc) : List GAcc → List GAcc
  | [] => [a]
  | b :: r => if a.tag < b.tag then a :: b :: r else b :: insertAcc a r

/-- The faulting access that suspended a context is replayed from translation, in its place (R83, R376). -/
def replayTag (d : Dev) (c tag : Nat) : Dev :=
  let k := d.ctx c
  match k.gq.find? fun a => a.tag == tag with
  | some a => replayAcc d c a
  | none =>
    match k.failed.find? fun a => a.tag == tag with
    | some a =>
      let d1 := d.updCtx c fun k =>
        { k with gq := insertAcc { a with susp := true } k.gq, failed := k.failed.filter fun b => b.tag != tag }
      replayAcc d1 c a
    | none => d

/-- The resume action on the task in place at a context number. -/
def resumeStep (c : Nat) (d : Dev) : Dev :=
  let k := d.ctx c
  let d1 :=
    match k.susp with
    | none => d
    | some r =>
      let d0 := d.updCtx c fun (k : Ctx) =>
        if k.cond == Residence.resident then reinject { k with susp := none, gSave := [] } k.gSave else { k with susp := none }
      pump (if r.acc = 0 then d0 else replayTag d0 c r.acc) c
  d1.updCtx c resumeEngines

/-- Something of a task is suspended for firmware. -/
def Ctx.held (k : Ctx) : Bool := k.susp.isSome || enginesSuspended k

/-- Removes the first CTXCMD write in flight that asks for an action on a context. -/
def takeCmd (d : Dev) (c action : Nat) : Dev :=
  match d.msgs.findIdx? fun m =>
      (match m with
       | .ctxcmd _ v => bits v 56 8 == action && bits v 0 19 == c
       | _ => false) with
  | some i => { d with msgs := d.msgs.eraseIdx i }
  | none => d

/-- CTXCMD_RESUME (R376); nothing resumes on a package that met a machine check (R380). -/
def execCtxcmdResume (c : Nat) (s : State) : Out :=
  let d := takeCmd s.dev c 1
  .next { s with dev :=
    if (d.pkg (pkgOf c)).machineCheck || !atBoundary s c || !(tasksAt d c).any Ctx.held then d
    else settleRoles (onTasks d c (resumeStep c)) (coreOf c) }

/-- Entries and accesses of a faulting access that firmware gives up. -/
def forgetAcc (tag : Nat) (k : Ctx) : Ctx :=
  if tag = 0 then k
  else
    { k with gSave := k.gSave.filter fun e => e.acc != tag
             gq := k.gq.filter fun a => a.tag != tag
             failed := k.failed.filter fun a => a.tag != tag }

/-- Delivers a cause to the user handler of a suspended context (R363, R376). -/
def deliverCmd (k : Ctx) (r : TrapRec) (cause : Nat) : Ctx :=
  let k1 := forgetAcc r.acc k
  enterUser { k1 with infl := k1.gSave, gSave := [], susp := none } { r with cause := cause, info2 := 0, info3 := 0 }

/-- Discards the task in place if it is suspended for firmware, or else the first one of the number that is lost or spilled
and suspended (R375, R376). -/
def discardCmd (d : Dev) (c : Nat) : Dev :=
  if (d.ctx c).susp.isSome then settleRoles (endTask d c discardShort) (coreOf c)
  else
    match d.spilled.findIdx? fun x => x.1 == c && (x.2.cond == .lost || x.2.susp.isSome) with
    | some i => endSpilled d i discardShort
    | none => d

/-- The deliver action on the task in place at a context number, if it is suspended for firmware. -/
def deliverStep (c cause : Nat) (d : Dev) : Dev :=
  match (d.ctx c).susp with
  | some r => pump (d.updCtx c fun k => deliverCmd k r cause) c
  | none => d

/-- Delivery acts as a discard where the user handler cannot be entered (R376). -/
def Ctx.noHandler (k : Ctx) : Bool := k.spr' Spr.utvec == 0#64 || k.hs.inTrap

/-- Delivers a cause to the task in place if it is suspended for firmware, or else to the first one of the number that is spilled
and suspended (R376; log entry 81). -/
def deliverAt (d : Dev) (c cause : Nat) : Dev :=
  if (d.ctx c).susp.isSome then
    if (d.ctx c).noHandler then discardCmd d c else settleRoles (deliverStep c cause d) (coreOf c)
  else
    match d.spilled.findIdx? fun x => x.1 == c && x.2.susp.isSome with
    | some i =>
      match d.spilled[i]? with
      | some (_, k) => if k.noHandler then discardCmd d c else onSpilled d i (deliverStep c cause)
      | none => d
    | none => d

/-- CTXCMD_DELIVER (R376). -/
def execCtxcmdDeliver (c cause : Nat) (s : State) : Out :=
  let d := takeCmd s.dev c 2
  .next { s with dev := if !atBoundary s c || (d.pkg (pkgOf c)).machineCheck then d else deliverAt d c cause }

/-- CTXCMD_DISCARD (R376). -/
def execCtxcmdDiscard (c : Nat) (s : State) : Out :=
  let d := takeCmd s.dev c 3
  .next { s with dev := if atBoundary s c then discardCmd d c else d }

/-! ## The fault ring (R377, R378) -/

/-- The 64 bytes of a record (R378). -/
def recordBytes (r : FRec) (tail phase : Nat) : List Byte :=
  bytesOf 1 r.cause ++ bytesOf 1 r.kind ++ bytesOf 1 r.access ++ bytesOf 1 r.source ++ bytesOf 4 r.ctx ++ bytesOf 8 r.job ++
    bytesOf 8 r.va.toNat ++ bytesOf 8 r.pc.toNat ++ bytesOf 8 r.count.toNat ++ bytesOf 8 r.info0.toNat ++
    bytesOf 8 r.info1.toNat ++ bytesOf 4 tail ++ bytesOf 4 phase

/-- The writer is enabled (R377). -/
def Pkg.ringOn (p : Pkg) : Bool := decide (6 ≤ p.fringSize) && decide (p.fringSize ≤ 16)

/-- The ring is full. -/
def Pkg.ringFull (p : Pkg) : Bool :=
  (p.fringTail + 2 ^ (p.fringSize + 1) - p.fringHead % 2 ^ (p.fringSize + 1)) % 2 ^ (p.fringSize + 1) == 2 ^ p.fringSize

/-- FAULT_RING_RECORD (R377): the oldest waiting record is written. -/
def execFaultRingRecord (pkg : Nat) (s : State) : Out :=
  .next { s with dev :=
    let d := s.dev
    let p := d.pkg pkg
    match p.frecs with
    | [] => d
    | r :: rest =>
      if !p.ringOn then d
      else if p.ringFull then d.updPkg pkg fun p => { p with fringWaited := true }
      else
        let n := 2 ^ p.fringSize
        let a := p.fringBase.toNat + 64 * (p.fringTail % n)
        let d1 := ctlWrite d pkg a (recordBytes r p.fringTail (p.fringTail / n % 2))
        d1.updPkg pkg fun p => { p with frecs := rest, fringTail := (p.fringTail + 1) % (2 * n) } }

end Sys2Proof.Machine
end

