-- ==== Sys2Proof/Machine/Fetch.lean ====
section
/-! DEFINITION. Instruction fetch: packets, pads, bundles, and the traps of what cannot be fetched or decoded (R49 to R53, R67,
R81, R109). -/

namespace Sys2Proof.Machine

/-- What fetching a packet comes to. -/
inductive FetchRes where
  | words (d : Dev) (ws : List Word)
  | wait (d : Dev)
  | fault (d : Dev) (cause : Nat)
  deriving DecidableEq, Repr

/-- The eight words of a packet of bytes. -/
def packetWords (v : Nat) : List Word := (List.range 8).map fun i => BitVec.ofNat 64 (v / 2 ^ (64 * i))

/-- Reads the packet at a 64-byte aligned virtual address through the die's L2 (R52, R93, R105, R109). -/
def fetchPacket (d0 : Dev) (c : Nat) (va : Nat) : FetchRes :=
  let d := walked d0 c (BitVec.ofNat 64 va)
  match translateAs d c (d.ctx c).privNow (BitVec.ofNat 64 va) .fetch with
  | .fault cause => .fault d cause
  | .ok pa _ =>
    if paKind pa = .system then .words d (packetWords (peekAny d pa 64))
    else
      match dieRead d c (pa / 128) false with
      | .ok d1 v => .words d1 (packetWords (lineGet v (pa % 128) 64))
      | .wait d1 => .wait d1
      | .err d1 => .fault d1 causeRemote

/-- What fetching a bundle comes to. -/
inductive Fetched where
  | bundle (d : Dev) (addr : Word) (ws : List Word)
  | trap (d : Dev) (r : TrapRec)
  | wait (d : Dev)
  /-- pads up to an address -/
  | pads (d : Dev) (addr : Word)
  deriving DecidableEq, Repr

def bsOf (w : Word) : Bool := w.getLsbD 63

/-- A bundle that begins with a BS = 0 syllable: NOT_BUNDLE_START where a transfer led to it, BUNDLE_FORM otherwise (R49, R51,
R53, R69). -/
def startTrap (k : Ctx) (addr w : Word) : TrapRec :=
  let base : TrapRec := { (default : TrapRec) with info0 := addr, slot := bits w 60 3, opc := bits w 52 8 }
  match k.xfer with
  | some (src, target) => { base with cause := 0x03, utpc := target, info1 := src }
  | none => { base with cause := 0x04, utpc := addr, info1 := w }

/-- An instruction-fetch fault (R52). -/
def fetchTrap (cause : Nat) (addr : Word) : TrapRec :=
  { (default : TrapRec) with cause := cause, utpc := addr, info0 := addr, access := 4, va := addr }

/-- Fetches the bundle at an address, skipping pads over at most so many packets. -/
def fetchFrom (d : Dev) (c : Nat) : Nat → Word → Fetched
  | 0, a => .pads d a
  | n + 1, a =>
    let base := a.toNat / 64 * 64
    match fetchPacket d c base with
    | .wait d1 => .wait d1
    | .fault d1 cause => .trap d1 (fetchTrap cause a)
    | .words d1 ws =>
      let i := a.toNat % 64 / 8
      let rest := (ws.drop i).dropWhile (· == padWord)
      match rest with
      | [] => fetchFrom d1 c n (BitVec.ofNat 64 (base + 64))
      | w :: r =>
        let addr := BitVec.ofNat 64 (base + 8 * (8 - rest.length))
        if bsOf w then .bundle d1 addr (w :: r.takeWhile fun x => !bsOf x) else .trap d1 (startTrap (d1.ctx c) addr w)

/-- The bundle at the pc of a context. -/
def fetchBundle (d : Dev) (c : Nat) : Fetched := fetchFrom d c 8 (d.ctx c).pc

/-- The address of the bundle that would issue next: pads before it are skipped (R51). -/
def passPads (d : Dev) (c : Nat) : Dev :=
  match fetchBundle d c with
  | .bundle d1 addr _ => d1.updCtx c fun k => { k with pc := addr }
  | _ => d

/-- A syllable of an open bundle that does not decode (R65, R67). -/
def badSyllable (s : State) (word : Word) (e : DecodeErr) : State :=
  match s.bundle with
  | none => s
  | some b =>
    let E := syllableEnv s b word
    let absent := if absentFeature b.saved word then [E.hit 4 (E.trap 0x01)] else []
    let bad :=
      match e with
      | .illegalOpcode => E.hit 4 (E.trap 0x01)
      | _ => E.illegal
    { s with bundle := some { b with words := b.words ++ [word], hit := bestHit b.hit (b.counted (formHits E b ++ absent ++ [bad])) } }

/-- RESULT_DELIVERY (R166, R167): the boundary before the next bundle of the context that issues; the bundle opens, and the
results due are delivered to it. -/
def execResultDelivery (c : Nat) (s : State) : Out :=
  if s.bundle.isSome || s.cur ≠ c || (s.dev.ctx c).cond ≠ .resident then .next s
  else
    match fetchBundle s.dev c with
    | .bundle d addr ws =>
      .next (openBundle { s with dev := d.updCtx c fun k => { k with pc := addr } } (8 * ws.length))
    | _ => .next (openBundle s 8)

/-- BUNDLE_ISSUE (R54, R68, R165): the open bundle issues, is suppressed, or waits. -/
def execBundleIssue (s : State) : Out := .next (closeBundle s)

end Sys2Proof.Machine
end

