-- ==== Sys2Proof/Machine/Jobs.lean ====
section
/-! DEFINITION. Jobs: admission, capture, spawns as they arrive, call sheets, and completion (R338 to R346, R354 to R357, R384
to R387, R404). -/

namespace Sys2Proof.Machine

/-! ## Memory as a control die reads and writes it -/

/-- A range of memory meets an uncorrectable error, of a line or of a block (R88, R108). -/
def badSpan (d : Dev) (pa n : Nat) : Bool :=
  let meets (l : Nat) : Bool := decide (pa / 128 ≤ l) && decide (l * 128 < pa + n) && d.lineBad l
  d.badLines.any meets || d.badBlocks.any fun x => (List.range 16).any fun i => meets (x.1 * 16 + i)

/-- What stands in the way of a control die's access to a range of physical memory: the cause of R403, none where it can be
made. -/
def physFault (d : Dev) (own pa n : Nat) : Option Nat :=
  let bad (a : Nat) : Option Nat :=
    match paKind a with
    | .hbm | .tier2 => if d.npkg ≤ paPkg a || (paPkg a != own && (d.pkg (paPkg a)).unreachable) then some causeRemote else none
    | .hole => some causeRemote
    | _ => some causeViolation
  match bad pa with
  | some c => some c
  | none =>
    match bad (pa + n - 1) with
    | some c => some c
    | none =>
      if paKind pa != paKind (pa + n - 1) || paPkg pa != paPkg (pa + n - 1) || badSpan d pa n then some causeRemote else none

/-- `n` bytes at a physical address. -/
def physRead (d : Dev) (own pa n : Nat) : Option Nat := if (physFault d own pa n).isNone then some (ofBytes (peekBytes d pa n)) else none

/-- The physical address that a virtual address of a job has for its control dies: through WIN0, or by the job's page tables. -/
def jobPa (d : Dev) (j : Job) (va : Nat) : Option Nat :=
  if windowHolds (hwbField (at_ j.wins 0)) (hwlField (at_ j.wins 1)) va then some ((BitVec.ofNat 64 va + hwoField (at_ j.wins 2)).toNat % 2 ^ 52)
  else if 2 ^ 48 ≤ va then none
  else
    match walk d j.ptroot va with
    | .leaf level e _ => some (nbits e 12 40 * 4096 + va % levelSize level)
    | .fault _ => none

/-- `n` bytes at a virtual address of a job. -/
def jobRead (d : Dev) (own : Nat) (j : Job) (va n : Nat) : Option Nat := (jobPa d j va).bind fun pa => physRead d own pa n

/-- The coherent reads by which a control die finds the physical address of a job's virtual address (R76, R92). -/
def jobWalk (d : Dev) (own : Nat) (j : Job) (va : Nat) : Dev :=
  if windowHolds (hwbField (at_ j.wins 0)) (hwlField (at_ j.wins 1)) va || 2 ^ 48 ≤ va then d else walkReads own va 4 j.ptroot d

/-- A control die reads bytes at a virtual address of a job through its system cache (R92). -/
def jobTouch (d : Dev) (own : Nat) (j : Job) (va n : Nat) : Dev :=
  let d1 := jobWalk d own j va
  match jobPa d1 j va with
  | some pa => ctlRead d1 own pa n
  | none => d1

/-- Writes bytes at a virtual address of a job; what cannot be written is lost. -/
def jobWrite (d : Dev) (own : Nat) (j : Job) (va : Nat) (bs : List Byte) : Dev :=
  let d1 := jobWalk d own j va
  match jobPa d1 j va with
  | some pa => if (physFault d1 own pa bs.length).isNone then ctlWrite d1 own pa bs else d1
  | none => d1

/-! ## Queues (R340, R343) -/

/-- A package enqueues a task: OUT and EPOCH count it (R343, R344). -/
def enqueueTask (d : Dev) (pkg : Nat) (q : QTask) : Dev :=
  d.updJob pkg q.job fun j =>
    { j with queues := j.queues.set q.prio (j.queues.get q.prio ++ [q]), out := j.out + 1, epoch := j.epoch + 1 }

/-! ## Call sheets (R354 to R357) -/

/-- The header of a sheet as it starts; none where it cannot be read or breaks a limit of R354. -/
def readSheet (d : Dev) (pkg : Nat) (j : Job) (addr t0 : Nat) : Option Sheet :=
  (jobRead d pkg j addr 32).bind fun h =>
    let nent := nbits h 0 32
    let f := nbits h 32 32
    if nent = 0 || 65535 < nent || f = 0 || 2 ^ 31 < f then none
    else
      some { (default : Sheet) with
        addr := BitVec.ofNat 64 addr, nent := nent, fticks := f, nframe := nbits h 64 32, slipn := nbits h 96 32
        slipAddr := BitVec.ofNat 64 (nbits h 128 64), t0 := t0 }

/-- Entry `i` of a sheet as a number; zero where it cannot be read. -/
def sheetEntry (d : Dev) (pkg : Nat) (j : Job) (sh : Sheet) (i : Nat) : Option Nat := jobRead d pkg j (sh.addr.toNat + 32 + 32 * i) 32

/-- Frame of entry `i`. -/
def entryFrame (d : Dev) (pkg : Nat) (j : Job) (sh : Sheet) (i : Nat) : Nat := (sheetEntry d pkg j sh i).elim sh.frame fun e => nbits e 0 32

def Dev.updSheet (d : Dev) (pkg job : Nat) (f : Sheet → Sheet) : Dev := d.updJob pkg job fun j => { j with sheet := j.sheet.map f }

/-- Writes SLIPW and BADENT to the header. -/
def writeCounts (d : Dev) (pkg job : Nat) : Dev :=
  let j := d.job pkg job
  match j.sheet with
  | some sh => jobWrite d pkg j (sh.addr.toNat + 24) (bytesOf 4 sh.slipw ++ bytesOf 4 sh.badent)
  | none => d

/-- Writes a slip record and counts it (R356). -/
def recordSlip (d : Dev) (pkg job frame nlate late first start : Nat) : Dev :=
  let j := d.job pkg job
  match j.sheet with
  | none => d
  | some sh =>
    let bs := bytesOf 4 frame ++ bytesOf 4 nlate ++ bytesOf 8 late ++ bytesOf 4 first ++ bytesOf 4 0 ++ bytesOf 8 start
    let d1 := if sh.slipn = 0 then d else jobWrite d pkg j (sh.slipAddr.toNat + 32 * (sh.slipw % sh.slipn)) bs
    writeCounts (d1.updSheet pkg job fun sh => { sh with slipw := sh.slipw + 1 }) pkg job

/-- The sheet starts at a tick: its frame 0 (R354). -/
def startSheet (d : Dev) (pkg job now : Nat) : Dev :=
  d.updSheet pkg job fun sh =>
    { sh with started := true, frame := 0, start := now, lastRetire := now, live := [], next := 0, nlate := 0, firstLate := 0 }

/-- The entry that is released next, if it is one of the current frame. -/
def nextEntry (d : Dev) (pkg : Nat) (j : Job) (sh : Sheet) : Option Nat :=
  if !sh.started || sh.ended || sh.nent ≤ sh.next || entryFrame d pkg j sh sh.next != sh.frame then none else some sh.next

/-- An entry that cannot run retires at its release, at the tick given (R355). -/
def refuseEntry (now : Nat) (sh : Sheet) : Sheet :=
  { sh with next := sh.next + 1, badent := sh.badent + 1, lastRetire := Nat.max sh.lastRetire now }

/-- An entry names no type or no core that can run it. -/
def badSheetEntry (d : Dev) (pkg : Nat) (j : Job) (e : Nat) : Bool :=
  let core := nbits e 96 17
  !j.types.keys.contains (nbits e 64 8) || core / 2 ^ 11 != pkg || d.disabled.contains core || decide (48 ≤ core % 64) ||
    nbits e 72 24 != 0 || nbits e 113 15 != 0 || nbits e 192 64 != 0

/-- The next entry is released if its tick has come (R355); false once none is. -/
def releaseEntry (d0 : Dev) (pkg job : Nat) : Dev × Bool :=
  let j := d0.job pkg job
  let now := d0.tick pkg
  match j.sheet with
  | none => (d0, false)
  | some sh =>
    match nextEntry d0 pkg j sh with
    | none => (d0, false)
    | some i =>
      let d := jobTouch d0 pkg j (sh.addr.toNat + 32 + 32 * i) 32
      match sheetEntry d pkg j sh i with
      | none => (writeCounts (d.updSheet pkg job (refuseEntry now)) pkg job, true)
      | some e =>
        let due := sh.start + nbits e 32 32
        if now < due then (d, false)
        else if badSheetEntry d pkg j e then (writeCounts (d.updSheet pkg job (refuseEntry due)) pkg job, true)
        else
          let q : QTask := { job := job, type := nbits e 64 8, prio := 15, arg := BitVec.ofNat 64 (nbits e 128 64), key0 := 0, key1 := 0
                             any := false, target := nbits e 96 17, sheet := some (sh.frame, i) }
          ((enqueueTask d pkg q).updSheet pkg job fun sh => { sh with next := sh.next + 1, live := sh.live ++ [i] }, true)

/-- Releases entries while one is due. -/
def releaseEntries : Nat → Dev → Nat → Nat → Dev
  | 0, d, _, _ => d
  | n + 1, d, pkg, job =>
    match releaseEntry d pkg job with
    | (d1, true) => releaseEntries n d1 pkg job
    | (d1, false) => d1

/-- Entries that a job's sheet has not yet released. -/
def entriesLeft (d : Dev) (pkg job : Nat) : Nat := (d.job pkg job).sheet.elim 0 fun sh => sh.nent - sh.next

/-- CALL_SHEET_RELEASE (R355): every entry whose tick has come. -/
def execCallSheetRelease (pkg job : Nat) (s : State) : Out :=
  .next { s with dev := releaseEntries (entriesLeft s.dev pkg job) s.dev pkg job }

/-- Every entry of the current frame has been released and has retired. -/
def frameDone (d : Dev) (pkg : Nat) (j : Job) (sh : Sheet) : Bool := sh.started && !sh.ended && sh.live.isEmpty && (nextEntry d pkg j sh).isNone

/-- Members of a job's gang. -/
def membersOf (d : Dev) (gang : Word) : List Nat := (List.range d.npkg).filter fun p => gang.getLsbD p

/-- The package that leads a gang (R357). -/
def leaderOf (d : Dev) (gang : Word) : Nat := (membersOf d gang).headD 0

/-- Frame f + 1 starts at the tick S that the leader gives (R356): a slip leaves its record, the same at every member, and so does a
member's own start later than S (R357). -/
def nextFrame (d : Dev) (pkg job : Nat) (x : FrameDue) (now : Nat) : Dev :=
  match (d.job pkg job).sheet with
  | none => d
  | some sh =>
    let s := x.tick
    let due := sh.start + sh.fticks
    let d1 := if due < s then recordSlip d pkg job sh.frame x.nlate (s - due) x.first s else d
    let d2 := if s < now then recordSlip d1 pkg job sh.frame 0 (now - s) 0 now else d1
    d2.updSheet pkg job fun sh =>
      { sh with frame := sh.frame + 1, start := Nat.max s now, lastRetire := Nat.max s now, live := [], nlate := 0, firstLate := 0
                reported := false, due := none }

/-- The late entries of a frame over every member's report, and the lowest of them. -/
def lateOf (l : List FrameRep) : Nat × Nat :=
  let firsts := (l.filter fun r => r.nlate != 0).map FrameRep.first
  ((l.map FrameRep.nlate).sum, firsts.foldl Nat.min (firsts.headD 0))

/-- The leader has every report of a frame: it sends S(f + 1) to every member (R357). -/
def leadFrame (d : Dev) (pkg job now : Nat) : Dev :=
  let j := d.job pkg job
  match j.sheet with
  | none => d
  | some sh =>
    let ms := membersOf d j.gang
    if ms.all fun p => sh.reports.any fun r => r.member == p then
      let late := lateOf sh.reports
      let x : FrameDue := { tick := Nat.max (sh.start + sh.fticks) (now + Config.frameDelay), nlate := late.1, first := late.2 }
      let d1 := d.updSheet pkg job fun sh => { sh with reports := [], due := some x }
      (ms.filter (· != pkg)).foldl (fun d p => d.send (.frame p job (sh.frame + 1) x)) d1
    else d

/-- A member reports a finished frame to the leader, once (R357). -/
def reportFrame (d : Dev) (pkg job : Nat) (sh : Sheet) : Dev :=
  let leader := leaderOf d (d.job pkg job).gang
  let d1 := d.updSheet pkg job fun sh => { sh with reported := true }
  let r : FrameRep := { member := pkg, tick := sh.lastRetire, nlate := sh.nlate, first := sh.firstLate }
  if leader = pkg then leadFrame (d1.updSheet pkg job fun sh => { sh with reports := sh.reports ++ [r] }) pkg job (d.tick pkg)
  else d1.send (.report leader job r)

/-- FRAME_START of a package: the sheet starts, a frame starts, is reported, or the sheet ends (R354, R356, R357). -/
def frameStep (d : Dev) (pkg job : Nat) : Dev :=
  let j := d.job pkg job
  let now := d.tick pkg
  match j.sheet with
  | none => d
  | some sh =>
    if sh.ended then d
    else if !sh.started then (if sh.t0 ≤ now then startSheet d pkg job sh.t0 else d)
    else if !frameDone d pkg j sh then d
    else if sh.nframe ≤ sh.frame + 1 then d.updSheet pkg job fun sh => { sh with ended := true }
    else if (membersOf d j.gang).length ≤ 1 then
      let s := Nat.max (sh.start + sh.fticks) sh.lastRetire
      if s ≤ now then nextFrame d pkg job { tick := s, nlate := sh.nlate, first := sh.firstLate } s else d
    else
      match sh.due with
      | some x => if x.tick ≤ now then nextFrame d pkg job x x.tick else d
      | none => if sh.reported then d else reportFrame d pkg job sh

/-- FRAME_START (R356). -/
def execFrameStart (pkg job : Nat) (s : State) : Out := .next { s with dev := frameStep s.dev pkg job }

/-- RETIREMENT_REPORT (R357). -/
def execRetirementReport (m : Nat) (s : State) : Out :=
  .next { s with dev :=
    match s.dev.msgs[m]? with
    | some (.report pkg job r) =>
      let d := { s.dev with msgs := s.dev.msgs.eraseIdx m }
      leadFrame (d.updSheet pkg job fun sh => { sh with reports := sh.reports ++ [r] }) pkg job (d.tick pkg)
    | _ => s.dev }

/-- FRAME_START_MESSAGE (R357): a member that receives it late starts the frame at once. -/
def execFrameStartMessage (m : Nat) (s : State) : Out :=
  .next { s with dev :=
    match s.dev.msgs[m]? with
    | some (.frame pkg job f x) =>
      let d := { s.dev with msgs := s.dev.msgs.eraseIdx m }
      match (d.job pkg job).sheet with
      | some sh =>
        if sh.frame + 1 ≠ f || sh.ended then d
        else if x.tick < d.tick pkg then nextFrame d pkg job x (d.tick pkg)
        else d.updSheet pkg job fun sh => { sh with due := some x }
      | none => d
    | _ => s.dev }

/-! ## Capture (R338, R339, R385, R386, R404) -/

/-- Little-endian field of a record. -/
def fld (r o n : Nat) : Nat := nbits r (8 * o) (8 * n)

/-- Task-type record `r` keeps the limits of R338. -/
def typeOk (firmware : Bool) (r : Nat) : Bool :=
  let m4 (x : Nat) : Bool := x % 4096 == 0
  alignedTo 8 (fld r 0 8) && (fld r 8 1 == 8 || fld r 8 1 == 16 || fld r 8 1 == 24 || fld r 8 1 == 32) &&
  decide (fld r 9 1 ≤ 8) && nbits r 82 5 == 0 && (firmware || !nbit r 87) && fld r 11 1 == 0 &&
  m4 (fld r 12 4) && decide (4096 ≤ fld r 12 4) && m4 (fld r 16 4) && decide (fld r 12 4 + fld r 16 4 ≤ 2 ^ 20) &&
  m4 (fld r 20 4) && decide (fld r 20 4 ≤ 2 ^ 18) && fld r 31 1 == 0 && fld r 39 1 == 0 && fld r 40 1 != 0 &&
  nbits r 328 4 != 0 && nbits r 332 4 == 0 && decide (fld r 42 1 ≤ fld r 43 1) && decide (fld r 43 1 ≤ 47) && fld r 44 20 == 0

/-- The type that a record describes. -/
def typeOf (r : Nat) : TaskType :=
  { entry := BitVec.ofNat 64 (fld r 0 8), vregs := fld r 8 1, links := fld r 9 1, win := nbits r 80 2, priv := nbit r 87
    spad := fld r 12 4, arena := fld r 16 4, lslice := fld r 20 4, tbl2 := BitVec.ofNat 64 (fld r 24 8)
    tbhbm := BitVec.ofNat 64 (fld r 32 8), dieMask := BitVec.ofNat 8 (fld r 40 1), cluMask := BitVec.ofNat 4 (nbits r 328 4)
    coreLo := fld r 42 1, coreHi := fld r 43 1 }

/-- The captured table, and the ABSENT word (R339, R387). -/
def captureTypes (firmware : Bool) (table : Nat) : SMap TaskType × Word :=
  (List.range 64).foldl (fun (m, ab) t =>
    let r := nbits table (512 * t) 512
    if fld r 0 8 = 0 then (m, ab)
    else if typeOk firmware r then (SMap.set m t (typeOf r), ab)
    else (m, ab ||| BitVec.ofNat 64 (2 ^ t))) ([], 0#64)

/-- The task that an initial spawn record describes (R345, R386). -/
def initTask (job r : Nat) : QTask :=
  { job := job, type := fld r 8 1, prio := nbits r 72 4, arg := BitVec.ofNat 64 (fld r 0 8), key0 := BitVec.ofNat 64 (fld r 16 8)
    key1 := BitVec.ofNat 64 (fld r 24 8), any := nbit r 127, target := nbits r 96 17, sheet := none }

/-- An initial spawn record that refuses its job (R404). -/
def badInit (d : Dev) (types : SMap TaskType) (gang : Word) (r : Nat) : Bool :=
  let q := initTask 0 r
  nbits r 76 4 != 0 || fld r 10 2 != 0 || nbits r 113 14 != 0 || !types.keys.contains q.type || !gang.getLsbD (q.target / 2 ^ 11) ||
    (!q.any && coreDown d q.target)

/-- The first nonzero byte of a reserved stretch. -/
def firstNonzero (r o n : Nat) : Option Nat := ((List.range n).map (o + ·)).find? fun i => fld r i 1 != 0

/-- A job record with what capture read for it. -/
structure Capture where
  rec_ : Nat
  table : Option Nat
  init : Option Nat
  firmware : Bool
  deriving DecidableEq, Repr, Inhabited

namespace Capture

def id (x : Capture) : Nat := fld x.rec_ 0 8
def gang (x : Capture) : Word := BitVec.ofNat 64 (fld x.rec_ 8 8)
def nInit (x : Capture) : Nat := fld x.rec_ 140 4
def doneAddr (x : Capture) : Nat := fld x.rec_ 168 8
def wins (x : Capture) : List Word := (List.range 12).map fun i => BitVec.ofNat 64 (fld x.rec_ (32 + 8 * i) 8)
def types (x : Capture) : SMap TaskType × Word := captureTypes x.firmware (x.table.getD 0)
def inits (x : Capture) : List Nat := (List.range x.nInit).map fun i => nbits (x.init.getD 0) (256 * i) 256

end Capture

/-- The control die reads a job record and the tables it names through its system cache (R92, R386). -/
def captureTouch (d : Dev) (pkg addr : Nat) : Dev :=
  let d1 := ctlRead d pkg addr 256
  match physRead d1 pkg addr 256 with
  | none => d1
  | some r => ctlRead (ctlRead d1 pkg (fld r 24 8) 4096) pkg (fld r 144 8) (32 * Nat.min (fld r 140 4) 4096)

/-- Reads a job record and the tables it names; none where the record cannot be read. -/
def readCapture (d : Dev) (pkg addr : Nat) (firmware : Bool) : Option Capture :=
  (physRead d pkg addr 256).map fun r =>
    { rec_ := r, table := physRead d pkg (fld r 24 8) 4096, firmware := firmware
      init := if fld r 140 4 = 0 || 4096 < fld r 140 4 then some 0 else physRead d pkg (fld r 144 8) (32 * fld r 140 4) }

/-- Reserved bits of a window register that a record must leave zero (R73). -/
def winBad (i : Nat) (w : Word) : Bool :=
  match i % 3 with
  | 0 => hwbField w != w
  | 1 => hwlField w != w
  | _ => hwoField w != w

/-- The save pool lies inside WIN0 (R385). -/
def poolInside (x : Capture) : Bool :=
  let lo := (at_ x.wins 0).toNat
  decide (lo ≤ fld x.rec_ 128 8) && decide (fld x.rec_ 128 8 + fld x.rec_ 136 4 * Config.saveSize ≤ lo + (at_ x.wins 1).toNat)

/-- The save pool as physical memory can be read (R404). -/
def poolReadable (d : Dev) (pkg : Nat) (x : Capture) : Bool :=
  let pa := (BitVec.ofNat 64 (fld x.rec_ 128 8) + at_ x.wins 2).toNat % 2 ^ 52
  (physFault d pkg pa (fld x.rec_ 136 4 * Config.saveSize)).isNone

/-- The checks of capture in ascending order of their byte offsets: a failed check with its offset (R385, R386, R404). -/
def captureChecks (d : Dev) (pkg : Nat) (x : Capture) : List (Bool × Nat) :=
  let r := x.rec_
  let ms := membersOf d x.gang
  [(x.id == 0 || decide (2 ^ 63 ≤ x.id) || (List.range d.npkg).any (fun p => (d.job p x.id).live || (d.job p x.id).tentative), 0),
   (!x.gang.getLsbD pkg || decide (2 ^ d.npkg ≤ x.gang.toNat), 8),
   (fld r 16 8 % 4096 != 0 || decide (2 ^ 52 ≤ fld r 16 8), 16),
   (fld r 24 8 % 64 != 0 || x.table.isNone, 24)] ++
  ((List.range 12).map fun i => (winBad i (at_ x.wins i), 32 + 8 * i)) ++
  [(fld r 128 8 % 256 != 0 || !poolInside x || !poolReadable d pkg x, 128),
   (fld r 136 4 == 0 || decide (2 ^ 20 < fld r 136 4), 136),
   (decide (4096 < x.nInit), 140),
   (fld r 144 8 % 32 != 0 || (x.nInit != 0 && (x.init.isNone || x.inits.any (badInit d x.types.1 x.gang))), 144),
   (fld r 168 8 % 64 != 0, 168),
   (ms.any fun p => (List.range 8).any fun i => nbit (fld r 176 1) i && (d.dies.get (p * 8 + i)).dsown.getLsbD 63, 176),
   (decide (63 < fld r 177 1), 177)] ++
  (match firstNonzero r 178 78 with
   | some o => [(true, o)]
   | none => [])

/-- The job as a member captures it. -/
def jobOf (pkg : Nat) (x : Capture) : Job :=
  let r := x.rec_
  { (default : Job) with
    live := true, gang := x.gang, admitPkg := pkg, firmware := x.firmware, ptroot := fld r 16 8, types := x.types.1
    absent := x.types.2, wins := x.wins, savepool := BitVec.ofNat 64 (fld r 128 8), saven := fld r 136 4, doneAddr := x.doneAddr
    msiv := fld r 177 1, dsmask := BitVec.ofNat 8 (fld r 176 1) }

/-- The sheet of a job at a member as it captures the job: it starts at T0, or at once where T0 is 0 or has passed (R386). -/
def captureSheet (d : Dev) (pkg job addr t0 : Nat) : Dev :=
  if addr = 0 then d
  else
    let now := d.tick pkg
    let d0 := jobTouch d pkg (d.job pkg job) addr 32
    let d1 := d0.updJob pkg job fun j => { j with sheet := readSheet d0 pkg j addr t0 }
    if t0 = 0 then startSheet d1 pkg job now
    else if t0 < now then recordSlip (startSheet d1 pkg job now) pkg job 0xFFFFFFFF 0 (now - t0) 0 now
    else d1

/-- A member keeps an accepted job (R386 step 4). -/
def keepJob (d : Dev) (pkg job : Nat) (j : Job) : Dev :=
  let own (d : Dev) (i : Nat) : Dev :=
    if j.dsmask.getLsbD i then
      { d with dies := d.dies.update (pkg * 8 + i) fun x => { x with dsown := BitVec.ofNat 64 (2 ^ 63 + job) } }
    else d
  let start := match j.sheet with
    | some sh => (sh.addr.toNat, sh.t0)
    | none => (0, 0)
  let tasks := j.queues.flatMap Prod.snd
  let d1 := (List.range 8).foldl own (d.updJob pkg job fun _ => { j with sheet := none, queues := [], live := true, tentative := false })
  let d2 := (tasks.filter fun q => q.target / 2 ^ 11 == pkg).foldl (fun d q => enqueueTask d pkg q) d1
  captureSheet d2 pkg job start.1 start.2

/-- What goes to every member: the job with its initial tasks in order of their records, and with its sheet's place. -/
def captureJob (pkg : Nat) (x : Capture) : Job :=
  let tasks := x.inits.map (initTask x.id)
  { jobOf pkg x with
    queues := tasks.foldl (fun m q => SMap.update m q.prio fun l => l ++ [q]) []
    sheet := if fld x.rec_ 152 8 = 0 then none
      else some { (default : Sheet) with addr := BitVec.ofNat 64 (fld x.rec_ 152 8), t0 := fld x.rec_ 160 8 } }

/-- FREE of the admitting package is incremented again once every member has captured the job (R384). -/
def freeAdmission (d : Dev) (pkg : Nat) : Dev := d.updPkg pkg fun p => { p with admitUsed := p.admitUsed - 1 }

/-- The KIND 5 record of R403. -/
def recordOfJob (cause access job pa : Nat) : FRec :=
  { cause := cause, kind := 5, access := access, source := 0, ctx := 0, job := job, va := 0, pc := 0, count := 0
    info0 := BitVec.ofNat 64 pa, info1 := 0 }

/-- Writes a completion record, or leaves a KIND 5 record, and sends the interrupt (R387). -/
def completionRecord (d : Dev) (pkg job done msiv : Nat) (bs : List Byte) : Dev :=
  let d1 :=
    match physFault d pkg done 64 with
    | none => ctlWrite d pkg done bs
    | some cause => addRecord d pkg (recordOfJob cause 2 job done)
  if msiv ≤ 63 then d1.updPkg pkg fun p => { p with msi := p.msi ++ [msiv] } else d1

/-- The bytes of a completion record (R387). -/
def completionBytes (job status refusal : Nat) (absent : Word) (dropped slips badent : Nat) : List Byte :=
  bytesOf 8 job ++ bytesOf 1 status ++ bytesOf 1 refusal ++ bytesOf 6 0 ++ bytesOf 8 absent.toNat ++ bytesOf 8 dropped ++
    bytesOf 4 slips ++ bytesOf 4 badent ++ bytesOf 24 0

/-- Refuses a job with the byte offset of the failing field (R386, R387). -/
def refuseJob (d : Dev) (pkg job : Nat) (j : Job) (off : Nat) : Dev :=
  completionRecord (freeAdmission d pkg) pkg job j.doneAddr j.msiv (completionBytes job 2 off j.absent 0 0 0)

/-- A job that a member has accepted and whose gang has not decided yet. -/
def holdJob (d : Dev) (pkg job : Nat) : Dev := d.updJob pkg job fun _ => { (default : Job) with tentative := true }

/-- Serves the oldest admission of a package, one at a time (R384, R386, R404). -/
def captureNext (d : Dev) (pkg : Nat) : Dev :=
  match (d.pkg pkg).capturing, (d.pkg pkg).admissions with
  | some _, _ | none, [] => d
  | none, (addr, firmware) :: rest =>
    let d0 := captureTouch (d.updPkg pkg fun p => { p with admissions := rest }) pkg addr
    match readCapture d0 pkg addr firmware with
    | none =>
      let d1 := freeAdmission (d0.updPkg pkg fun p => { p with admitDrop := (p.admitDrop + 1) % 2 ^ 32 }) pkg
      addRecord d1 pkg (recordOfJob ((physFault d0 pkg addr 256).getD causeRemote) 1 0 addr)
    | some x =>
      let j := captureJob pkg x
      match (captureChecks d0 pkg x).find? fun p => p.1 with
      | some (_, off) => refuseJob d0 pkg x.id j off
      | none =>
        let others := (membersOf d0 x.gang).filter (· != pkg)
        if others.isEmpty then freeAdmission (keepJob d0 pkg x.id j) pkg
        else
          let d1 := (holdJob d0 pkg x.id).updPkg pkg fun p =>
            { p with capturing := some { id := x.id, job := j, waiting := others, bad := none } }
          others.foldl (fun d p => d.send (.capture p x.id (fld x.rec_ 24 8) j)) d1

/-- JOB_CAPTURE (R386). -/
def execJobCapture (pkg : Nat) (s : State) : Out := .next { s with dev := captureNext s.dev pkg }

/-- The decision on a job is still on its way to some member. -/
def keepFlying (d : Dev) (job : Nat) : Bool :=
  d.msgs.any fun m =>
    match m with
    | .keep _ j _ _ => j == job
    | _ => false

/-- What a member checks of a job by itself: the lowest failing offset of JOBID, its task-type table and DSMASK (R386). -/
def memberFault (d : Dev) (pkg job table : Nat) (j : Job) : Option Nat :=
  if (d.job pkg job).live || (d.job pkg job).tentative then some 0
  else if (physRead d pkg table 4096).isNone then some 24
  else if (List.range 8).any fun i => j.dsmask.getLsbD i && (d.dies.get (pkg * 8 + i)).dsown.getLsbD 63 then some 176
  else none

/-- A member checks a job and answers (R386 step 2). -/
def memberCheck (d0 : Dev) (pkg job table : Nat) (j : Job) : Dev :=
  let d := ctlRead d0 pkg table 4096
  let bad := memberFault d pkg job table j
  (if bad.isNone then holdJob d pkg job else d).send (.captured j.admitPkg job pkg bad)

/-- The lower of two failing offsets. -/
def lowerFault (a b : Option Nat) : Option Nat :=
  match a, b with
  | some x, some y => some (Nat.min x y)
  | some x, none => some x
  | none, y => y

/-- Every member has answered: all keep the job, or none does (R386 steps 3 and 4). -/
def decideCapture (d : Dev) (pkg : Nat) (x : Capturing) : Dev :=
  let others := (membersOf d x.job.gang).filter (· != pkg)
  let d1 := d.updPkg pkg fun p => { p with capturing := none }
  match x.bad with
  | none => others.foldl (fun d p => d.send (.keep p x.id true x.job)) (keepJob d1 pkg x.id x.job)
  | some off =>
    refuseJob (others.foldl (fun d p => d.send (.keep p x.id false x.job)) (d1.updJob pkg x.id fun _ => default)) pkg x.id x.job off

/-- A member's answer reaches the admitting package. -/
def memberAnswers (d : Dev) (pkg job member : Nat) (bad : Option Nat) : Dev :=
  match (d.pkg pkg).capturing with
  | some x =>
    if x.id ≠ job then d
    else
      let x1 := { x with waiting := x.waiting.erase member, bad := lowerFault x.bad bad }
      if x1.waiting.isEmpty then decideCapture d pkg x1 else d.updPkg pkg fun p => { p with capturing := some x1 }
  | none => d

/-- The decision reaches a member; the last member to capture the job restores FREE (R384, R386). -/
def memberKeeps (d : Dev) (pkg job : Nat) (accepted : Bool) (j : Job) : Dev :=
  if accepted then
    let d1 := keepJob d pkg job j
    if keepFlying d1 job then d1 else freeAdmission d1 j.admitPkg
  else if (d.job pkg job).tentative then d.updJob pkg job fun _ => default
  else d

/-- MEMBER_CAPTURE (R386): a record, an answer or a decision arrives. -/
def execMemberCapture (m : Nat) (s : State) : Out :=
  let d := { s.dev with msgs := s.dev.msgs.eraseIdx m }
  .next { s with dev :=
    match s.dev.msgs[m]? with
    | some (.capture pkg job table j) => memberCheck d pkg job table j
    | some (.captured pkg job member bad) => memberAnswers d pkg job member bad
    | some (.keep pkg job accepted j) => memberKeeps d pkg job accepted j
    | _ => s.dev }

/-- ADMIT (R384): the host reaches the registers of the bridge package alone (R382). -/
def execAdmitJob (pkg bytes : Nat) (v : Word) (firmware : Bool) (s : State) : Out :=
  .next { s with dev := if firmware || pkg = s.dev.bridge then admitTo s.dev pkg bytes v firmware else s.dev }

/-! ## Completion (R151, R344, R351, R387) -/

/-- Zeroes and releases the die scratchpads of a package that a job owns (R151). -/
def releaseDies (pkg job : Nat) (d : Dev) : Dev :=
  (List.range 8).foldl (fun d i =>
    let key := pkg * 8 + i
    let o := (d.dies.get key).dsown
    if o.getLsbD 63 && bits o 0 63 == job then
      { d with
        dspad := clearRange d.dspad (key * 2 ^ 26) (2 ^ 26), badDie := clearWords d.badDie (key * 2 ^ 26) (2 ^ 26)
        dies := d.dies.update key fun x => { x with dsown := x.dsown &&& 0x7FFFFFFFFFFFFFFF#64 } }
    else d) d

/-- A job completes: its chains and die scratchpads go, and its completion is reported (R344, R387). -/
def completeJob (d : Dev) (pkg job : Nat) : Dev :=
  let j := d.job pkg job
  let ms := membersOf d j.gang
  let sum (f : Job → Nat) : Nat := (ms.map fun p => f (d.job p job)).sum
  let sheetSum (f : Sheet → Nat) : Nat := sum fun x => x.sheet.elim 0 f
  let dropped := sum Job.dropped
  let d1 := ms.foldl (fun d p => freeBarriers (releaseDies p job d) p job) (freeJobChains d job)
  let d2 := ms.foldl (fun d p => d.updJob p job fun _ => default) d1
  completionRecord d2 pkg job j.doneAddr j.msiv
    (completionBytes job (if j.cancelled then 1 else 0) 0 j.absent dropped (sheetSum Sheet.slipw) (sheetSum Sheet.badent))

/-- JOB_COMPLETION_ROUND (R344). -/
def completionRound (d : Dev) (pkg job : Nat) : Dev :=
  let j := d.job pkg job
  if !j.live || j.admitPkg != pkg then d
  else
    let all := (membersOf d j.gang).map fun p => d.job p job
    if !all.all Job.live then d
    else
      let epochs := all.map Job.epoch
      if (all.map fun x => x.out + x.infl).sum ≠ 0 then d.updJob pkg job fun x => { x with round := none }
      else if j.round = some epochs then completeJob d pkg job
      else d.updJob pkg job fun x => { x with round := some epochs }

/-- JOB_COMPLETION_ROUND (R344). -/
def execJobCompletionRound (pkg job : Nat) (s : State) : Out := .next { s with dev := completionRound s.dev pkg job }

/-! ## Spawn packets (R343, R346, R348) -/

/-- A spawn record leaves its core once earlier scalar accesses have performed (R346). -/
def spawnReady (d : Dev) (p : SpawnPkt) : Bool :=
  (tasksAt d p.ctx).all fun k => k.serial != p.serial || k.performedTo p.gtag

/-- SPAWN_RECEIVE (R343, R346, R348). -/
def receiveSpawn (d : Dev) (m : Nat) (p : SpawnPkt) : Dev :=
  let d0 := { d with msgs := d.msgs.eraseIdx m }
  let j := d.job p.pkg p.task.job
  if !spawnReady d p then d
  else if (d.pkg p.pkg).unreachable then d0.send (.spawnAck p true)
  else if !j.live then d
  else if j.cancelled then
    (d0.updJob p.pkg p.task.job fun j => { j with dropped := j.dropped + 1 }).send (.spawnAck p false)
  else if !p.task.any && coreDown d p.task.target then d0.send (.spawnAck p true)
  else (enqueueTask d0 p.pkg p.task).send (.spawnAck p false)

/-- SPAWN_RECEIVE (R343). -/
def execSpawnReceive (m : Nat) (s : State) : Out :=
  .next { s with dev := match s.dev.msgs[m]? with
    | some (.spawn p) => receiveSpawn s.dev m p
    | _ => s.dev }

/-- The REMOTE_ERROR of a refused spawn (R346). -/
def spawnTrap (p : SpawnPkt) : TrapRec :=
  { (default : TrapRec) with
    cause := causeRemote, info0 := BitVec.ofNat 64 p.task.target, info1 := 0xF05, imp := true, slot := 7, opc := 5 }

/-- SPAWN_ACK (R343, R346). -/
def execSpawnAck (m : Nat) (s : State) : Out :=
  .next { s with dev := match s.dev.msgs[m]? with
    | some (.spawnAck p refused) =>
      let d := { s.dev with msgs := s.dev.msgs.eraseIdx m }.updJob (pkgOf p.ctx) p.task.job fun j => { j with infl := j.infl - 1 }
      if refused then onSerial d p.ctx p.serial fun k => { k with asyncs := k.asyncs ++ [spawnTrap p] } else d
    | _ => s.dev }

end Sys2Proof.Machine
end

