-- ==== Sys2Proof/Machine/Matrix.lean ====
section
/-! DEFINITION. The MTX instructions: tile nodes, matrix contributions and the close of a chain (R259 to R267, R277, R281,
R283, R287). -/

namespace Sys2Proof.Machine

/-! ## Checks (R259, R269) -/

/-- The node a tile name is bound to. -/
def Env.tile (E : Env) (z : BitVec 6) : Option Node := (E.k.names.get z.toNat).map E.k.node
def Env.tileId (E : Env) (z : BitVec 6) : Option Nat := E.k.names.get z.toNat
def Env.tid (E : Env) (n : BitVec 6) : Option TDesc := E.k.tids.get n.toNat

/-- ILLEGAL_OPERAND unless a condition holds of the tile a name is bound to (R35, R259). -/
def Env.tileHits (E : Env) (z : BitVec 6) (good : Node → Bool) : List Hit :=
  if (E.tile z).any good then [] else [E.illegal]

def isFloatTile (n : Node) : Bool := n.unscaled && (n.ety == .f32 || n.ety == .bf16 || n.ety == .f16)

/-- Coordinates lie inside the identifier's extent (R259). -/
def Env.coordHits (E : Env) (t : TDesc) (s : Word) : List Hit :=
  if bits s 0 16 < tdRows t && bits s 16 16 < tdCols t then [] else [E.illegalScalar s]

/-- Checks of an identifier and coordinates. -/
def Env.tidHits (E : Env) (n : BitVec 6) (s : Word) (good : TDesc → Bool) : List Hit :=
  match E.tid n with
  | none => [E.illegal]
  | some t => if good t then E.coordHits t s else [E.illegal]

/-- The element-type row of the product table (R269): pairs come from one row. -/
def productRow : ET → Nat
  | .bf16 | .f16 => 1
  | .e4m3 | .e5m2 => 2
  | .e2m1 | .cb16 => 3
  | _ => 0

/-- An operand's scales run along K, and a cb16 tile's rows do (R269). `acrossA` is TA for A, not TB for B. -/
def alongK (n : Node) (acrossA : Bool) : Bool :=
  (n.sblk == 0 || n.kdim == acrossA) && (n.ety != .cb16 || !acrossA)

/-- The pair of a contribution is one the array accepts. -/
def pairOk (A B : Node) (ta tb : Bool) : Bool :=
  productRow A.ety != 0 && productRow A.ety == productRow B.ety && alongK A ta && alongK B (!tb)

/-! ## Element-wise nodes -/

/-- A node whose only effect is its append. -/
def nodeSyl (i : Instr) (s : State) (g : Guard) (zd : BitVec 6) (chk : Env → List Hit) (rm : Env → RM)
    (mk : Env → Dev → Node) : Out :=
  syllable i s (fun E _ => chk E) fun E w =>
    if !E.on g then .ok w none
    else E.append w (mk E) (some zd) fun w1 _ => .ok (drawTile (rm E) E.c w1) none

/-- `tld` (R260). -/
def execTld (g : Guard) (zd tid r : BitVec 6) (s : State) : Out :=
  nodeSyl (.tld g zd tid r) s g zd (fun E => E.tidHits tid (E.rdS r) fun t => (tileType (tdEt t)).isSome) (fun _ => .rne)
    fun E w =>
      let t := (E.tid tid).getD 0
      let n := E.newNode w (.tld t (bits (E.rdS r) 0 16) (bits (E.rdS r) 16 16)) none none (tdType t)
      { n with tscale := tdScale t, sblk := tdBlock t, kdim := tdKdim t, cbs := if tdType t = .cb16 then [tdCb t] else [] }

/-- `tew` (R261). -/
def execTew (op : TewOp) (g : Guard) (rm : RM) (zd a b : BitVec 6) (s : State) : Out :=
  nodeSyl (.tew op g rm zd a b) s g zd
    (fun E => E.tileHits a isFloatTile ++ E.tileHits b fun n => isFloatTile n && (E.tile a).any fun m => m.ety == n.ety)
    (fun E => E.mode rm)
    fun E w => E.newNode w (.tew op (E.mode rm)) (E.tileId a) (E.tileId b) ((E.tile a).elim .f32 Node.ety)

/-- `tews` (R261). -/
def execTews (op : TewsOp) (g : Guard) (rm : RM) (zd a r : BitVec 6) (s : State) : Out :=
  nodeSyl (.tews op g rm zd a r) s g zd (fun E => E.tileHits a isFloatTile) (fun E => E.mode rm)
    fun E w =>
      E.newNode w (.tews op (E.mode rm) ((E.rdS r).setWidth 32)) (E.tileId a) none ((E.tile a).elim .f32 Node.ety)

/-- `tfn` (R262). -/
def execTfn (op : TfnOp) (g : Guard) (zd a : BitVec 6) (s : State) : Out :=
  nodeSyl (.tfn op g zd a) s g zd (fun E => E.tileHits a isFloatTile) (fun _ => .rne)
    fun E w => E.newNode w (.tfn op) (E.tileId a) none ((E.tile a).elim .f32 Node.ety)

/-- Must-be-zero fields of a map are zero (R244). -/
def mapOk (m : Word) : Bool := bits m 30 34 == 0 && bits m 22 2 == 0 && bits m 9 7 == 0

/-- `tmap` (R263). -/
def execTmap (g : Guard) (zd a r : BitVec 6) (s : State) : Out :=
  nodeSyl (.tmap g zd a r) s g zd
    (fun E => E.tileHits a (fun n => n.unscaled && n.ety != .cb16 && n.ety != .e2m1) ++
      (if mapOk (E.rdS r) then [] else [E.illegalScalar (E.rdS r)]))
    (fun _ => .rne)
    fun E w => E.newNode w (.tmap (E.rdS r)) (E.tileId a) none ((E.tile a).elim .f32 Node.ety)

/-- `tcvt` (R264). -/
def execTcvt (dst : TileDst) (g : Guard) (rm : RM) (sat : Bool) (zd a : BitVec 6) (s : State) : Out :=
  nodeSyl (.tcvt dst g rm sat zd a) s g zd (fun E => E.tileHits a fun _ => true) (fun E => E.mode rm)
    fun E w =>
      { E.newNode w (.tcvt dst (E.mode rm) sat) (E.tileId a) none (dstEt dst) with
        cbs := match E.tile a with
          | some n => if n.ety = .cb16 then n.cbs else []
          | none => [] }

/-! ## Stores and demands -/

/-- The device as making room left it, when the bundle does not issue (R254). -/
def Env.roomBase (E : Env) : Dev :=
  match makeRoom E (Config.thunkEntries + 1) E.pre with
  | .ok d => d
  | .wait d => d
  | .trap d _ => d

/-- `tst` (R265): appends the store node, and demands its panels and with them those its rows would overwrite. -/
def execTst (g : Guard) (tid r a : BitVec 6) (mask : BitVec 8) (s : State) : Out :=
  syllable (.tst g tid r a mask) s
    (fun E _ =>
      E.tileHits a Node.unscaled ++
      E.tidHits tid (E.rdS r) fun t => tdBlock t == 0 && (E.tile a).any fun n => tileType (tdEt t) == some n.ety)
    fun E w =>
      if !E.on g then .ok w none
      else
        let t := (E.tid tid).getD 0
        let R := bits (E.rdS r) 0 16
        let C := bits (E.rdS r) 16 16
        if tdLoc t = 0 && E.k.queueFull 2 then .stop E.pre none .engine
        else
          let mk (d : Dev) : Node :=
            { E.newNode d (.store t R C mask) (E.tileId a) none ((E.tile a).elim .f32 Node.ety) with
              ps := (List.range 8).map fun p => if mask.getLsbD p then .pending else .done }
          E.append w mk none fun w1 i =>
            let al := storeAliases w1 E.c ((w1.ctx E.c).node i) t R C mask
            match reserve (w1.updCtx E.c fun k => takeAliases i al k) E.c [(i, mask)] with
            | none => .stop E.roomBase (some (E.thunkOverflow 2)) .engine
            | some w2 =>
              .ok (w2.updCtx E.c fun k =>
                let k1 :=
                  { k with demands := k.demands ++ [{ node := i, mask := mask, pc := E.addr, slot := E.slot, opc := E.opc }] }
                if tdLoc t ≠ 0 then k1
                else
                  let o : EngOp :=
                    { kind := .tst i, ticket := k1.nextTicket 2, cue := false, done := none, phase := .queued, result := 0
                      seq := k1.seq, gtag := E.k.nextTag, pc := E.addr, pos := 0, fault := none, win := E.k.win, paid := default }
                  { (k1.setQueue 2 (k1.queue 2 ++ [o])) with
                    seq := k1.seq + 1, tickets := k1.tickets.set 2 (k1.nextTicket 2) }) none

/-- `tforce` (R266). -/
def execTforce (g : Guard) (a : BitVec 6) (mask : BitVec 8) (s : State) : Out :=
  syllable (.tforce g a mask) s (fun E _ => E.tileHits a fun _ => true) fun E w =>
    if !E.on g then .ok w none
    else
      match E.tileId a with
      | none => .ok w none
      | some i =>
        match reserve w E.c [(i, mask)] with
        | none => .stop E.pre (some (E.thunkOverflow 2)) .engine
        | some w1 =>
          .ok (w1.updCtx E.c fun k =>
            { k with demands := k.demands ++ [{ node := i, mask := mask, pc := E.addr, slot := E.slot, opc := E.opc }] }) none

/-- `tdrop` (R267). -/
def execTdrop (g : Guard) (a : BitVec 6) (s : State) : Out :=
  syllable (.tdrop g a) s (fun E _ => E.tileHits a fun _ => true) fun E w =>
    if E.on g then .ok (w.updCtx E.c fun k => sweep { k with names := k.names.set a.toNat none }) none else .ok w none

/-- `tmov` (R267). -/
def execTmov (g : Guard) (zd a : BitVec 6) (s : State) : Out :=
  syllable (.tmov g zd a) s (fun E _ => E.tileHits a fun _ => true) fun E w =>
    if E.on g then .ok (w.updCtx E.c fun k => sweep { k with names := k.names.set zd.toNat (E.tileId a) }) none else .ok w none

/-! ## Chains -/

/-- CHAIN_PROTOCOL with its reason (R287). -/
def Env.protocol (E : Env) (reason : Nat) (h : Word) (pos : Nat) : TrapRec :=
  { E.trap 0x13 with
    info0 := BitVec.ofNat 64 reason, info1 := E.tag false, info2 := h, info3 := BitVec.ofNat 64 pos }

/-- Reasons of `tmma` that do not depend on a count (R277 step 4); none while the link waits for its binding. -/
def tmmaReason (E : Env) (w : Dev) (h : Word) (pos : Nat) : Option Nat :=
  match liveChain w h with
  | none => some 1
  | some x =>
    if x.links.length ≤ pos then some 2
    else
      let l := x.link pos
      if l.bound = 0 then none
      else if l.core ≠ coreOf E.c || l.ctx ≠ ctxNum E.c then some 3
      else if l.bound = 2 || (boundSlot w x h pos).all fun t => t.state == .splicedOut then some 5
      else none

/-- The link of a handle waits for its binding (R277 step 3). -/
def linkUnbound (w : Dev) (h : Word) (pos : Nat) : Bool :=
  match liveChain w h with
  | none => false
  | some x => decide (pos < x.links.length) && (x.link pos).bound == 0

/-- `tmma` (R277). A count overflow traps and freezes the chain under a false guard too (log entry 87). -/
def execTmma (g : Guard) (ta tb : Bool) (a b r pos : BitVec 6) (s : State) : Out :=
  syllable (.tmma g ta tb a b r pos) s
    (fun E w =>
      (match E.tile a, E.tile b with
       | some A, some B => if pairOk A B ta tb then [] else [E.illegal]
       | _, _ => [E.illegal]) ++
      (match tmmaReason E w (E.rdS r) pos.toNat with
       | some n => [E.hit 9 (E.protocol n (E.rdS r) pos.toNat)]
       | none => []))
    fun E w =>
      let h := E.rdS r
      let p := pos.toNat
      if linkUnbound w h p then (if E.on g then .stop E.pre none .engine else .ok w none)
      else
        match liveChain w h with
        | none => .ok w none
        | some x =>
          match boundSlot w x h p with
          | none => .ok w none
          | some t =>
            if t.count ≤ t.appended then
              .stop (freezeAt E.pre h p 0x13 true) (some (E.protocol 4 h p)) .engine
            else if !E.on g then .ok w none
            else
              let mk (d : Dev) : Node :=
                { E.newNode d (.contrib h p t.appended ta tb) (E.tileId a) (E.tileId b) .f32 with
                  ps := .pending :: List.replicate 7 .done
                  cbs := ((E.tile a).elim [] Node.cbs) ++ ((E.tile b).elim [] Node.cbs) }
              E.append w mk none fun w1 _ =>
                .ok (w1.updSlot (linkSlot (x.link p)) fun t => { t with appended := t.appended + 1, held := t.demanded }) none

/-- Whether the context that appended a chain's close node still runs that task (R281). -/
def closeLives (d : Dev) (x : Chain) : Bool :=
  match x.closed with
  | some (c, _) => (tasksAt d c).any fun k => k.cond != .free && k.serial == x.closer
  | none => false

/-- Reasons of `chclose` (R281, R287). -/
def closeReason (E : Env) (w : Dev) (h : Word) : Option Nat :=
  match liveChain w h with
  | none => some 1
  | some x =>
    let l := x.link (x.links.length - 1)
    if l.core ≠ coreOf E.c || l.ctx ≠ ctxNum E.c then some 3
    else if closeLives w x then some 6
    else none

/-- `chclose` (R281). -/
def execChclose (g : Guard) (zd r : BitVec 6) (s : State) : Out :=
  syllable (.chclose g zd r) s
    (fun E w =>
      match closeReason E w (E.rdS r) with
      | some n => [E.hit 9 (E.protocol n (E.rdS r) 0)]
      | none => [])
    fun E w =>
      if !E.on g then .ok w none
      else
        let h := E.rdS r
        match liveChain w h with
        | none => .ok w none
        | some x =>
          let rm := E.mode x.rm
          E.append w (fun d => E.newNode d (.close h rm) none none (dstEt x.outET)) (some zd) fun w1 i =>
            .ok (drawTile rm E.c (w1.updChain (chainKey h) fun x => { x with closed := some (E.c, i), closer := E.k.serial, filled := none, latched := false })) none

/-- Reasons of `tforce.link` (R283). -/
def linkReason (E : Env) (w : Dev) (h : Word) (pos : Nat) : Option Nat :=
  match liveChain w h with
  | none => some 1
  | some x => if x.job ≠ E.k.task.job then some 1 else if x.links.length ≤ pos then some 2 else none

/-- `tforce.link` (R283). -/
def execTforceLink (g : Guard) (r pos : BitVec 6) (s : State) : Out :=
  syllable (.tforceLink g r pos) s
    (fun E w =>
      match linkReason E w (E.rdS r) pos.toNat with
      | some n => [E.hit 9 (E.protocol n (E.rdS r) pos.toNat)]
      | none => [])
    fun E w => if E.on g then .ok (demandLinks (E.rdS r) E.k.task.prio pos.toNat w) none else .ok w none

/-! ## Steps -/

/-- PANEL_FORCE (R248). -/
def execPanelForce (c node panel : Nat) (s : State) : Out :=
  .next { s with dev := reportDemands (panelForceStep s.dev c node panel) c }

/-- TST_STORE_WRITE (R265). -/
def execTstStoreWrite (c node : Nat) (s : State) : Out :=
  .next { s with dev := reportDemands (storeStep s.dev c node) c }

end Sys2Proof.Machine
end

