-- ==== Sys2Proof/Machine/OnChip.lean ====
section
/-! DEFINITION. The ten instructions of the on-chip memories (R149 to R164). -/

namespace Sys2Proof.Machine

def spaceCode : Space → Nat
  | .spad => 0
  | .lane => 1
  | .cluster => 2
  | .die => 3

/-- Due count of a load or a store by space (R158). -/
def spaceLatency : Space → Nat
  | .spad => 6
  | .lane => 4
  | .cluster => 14
  | .die => 24

/-- sbase + SignExtend(off20) (R59). -/
def Env.memAddr (E : Env) (sbase : BitVec 6) (off : BitVec 20) : Word := E.rdS sbase + off.signExtend 64

/-- Issue checks of an access of `n` bytes (R149, R151, R158, R68). -/
def onChipHits (E : Env) (space : Nat) (a : Word) (n align access : Nat) : List Hit :=
  E.fails
    [(!alignedTo align a.toNat, E.badAddr 0x08 a access),
     (outOfSpace E.k space a.toNat n, E.badAddr 0x09 a access),
     (space == 3 && !ownsDie E.d0 E.c, E.hit 9 { E.trap 0x0B with va := a, access := access })]

/-- The trap of a faulting word (R159). -/
def memTrap (E : Env) (cause space word lane access : Nat) : TrapRec :=
  { (default : TrapRec) with
    cause := cause, info0 := BitVec.ofNat 64 word, info1 := E.tag false
    info2 := if space = 2 then BitVec.ofNat 64 (clusterOf E.c * 64 + word / 2 ^ 20 % 64) else 0
    info3 := BitVec.ofNat 64 lane, access := access, va := BitVec.ofNat 64 word, slot := E.slot, opc := E.opc }

/-- A word of an access: its lane, its address, whether the access needs it, and whether a store writes part of it alone. -/
structure MemWord where
  lane : Nat
  addr : Nat
  needed : Bool
  part : Bool
  deriving DecidableEq, Repr

/-- The first failing word of an access in the order of its words (R150, R154, R159); `store` for a write. -/
def wordFault (E : Env) (d : Dev) (space access : Nat) (store : Bool) (ws : List MemWord) : Option TrapRec :=
  ws.findSome? fun x =>
    match (if space = 2 then clusterFault d E.c x.addr 4 else none) with
    | some cause => some (memTrap E cause space x.addr x.lane access)
    | none =>
      if x.needed && badWord d (placeOf d E.c space x.addr) && (!store || x.part) then
        some (memTrap E causeRemote space x.addr x.lane access)
      else none

/-- The range of places an access touches. -/
def accessRange (d : Dev) (c space a n : Nat) : List (Nat × Nat) :=
  [(placeOf d c space a, placeOf d c space a + n - 1)]

/-- A load waits for the context's own unfinished stores of rows it meets (R265). -/
def afterStores (E : Env) (w : Dev) (ranges : Dev → List (Nat × Nat)) (k : Dev → Eff) : Eff :=
  withForced E w (fun d => settleStores E (ranges d) d) k

/-- A store also forces what it would overwrite (R157). -/
def beforeWrite (E : Env) (w : Dev) (ranges : Dev → List (Nat × Nat)) (k : Dev → Eff) : Eff :=
  withForced E w (fun d =>
    match settleStores E (ranges d) d with
    | .ok d1 => forceAliased E d1 (ranges d1)
    | x => x) k

/-- A store's fault as it is delivered when it is found only after the due count (R159). -/
def lateTrap (r : TrapRec) : TrapRec := { r with imp := true, info1 := r.info1 ||| 0x100 }

/-- The due-count check of a store (R158), with the fault of a popped element, known as the store issues (R143), or else that of the
store's words, which may be found only after that count, as timing has it (R159). -/
def Env.storeCheck (E : Env) (w : Dev) (lat : Nat) (popped f : Option TrapRec) : Dev :=
  match popped, f with
  | none, some r =>
    addEntry { w with free := w.free + 1 } E.c
      { E.entry lat .none 0 with fault := some (if Config.storeFaultLate w.free then lateTrap r else r) }
  | _, _ => addEntry w E.c { E.entry lat .none 0 with fault := popped }

/-! ## Scalar loads and stores (R160) -/

/-- The words of a scalar access. -/
def scalarWords (a n : Nat) : List MemWord :=
  (wordsOf a n).map fun w => { lane := 0, addr := w, needed := true, part := n < 4 }

/-- `lds` (R160). -/
def execLds (zx : Bool) (g : Guard) (sd : BitVec 6) (m : MAddr) (wd : Width) (s : State) : Out :=
  let n := wd.bytes
  let sp := spaceCode m.space
  syllable (.lds zx g sd m wd) s (fun E _ => onChipHits E sp (E.memAddr m.sbase m.off) n n 1) fun E w =>
    let a := (E.memAddr m.sbase m.off).toNat
    if !E.on g then .ok w none
    else
      afterStores E w (fun d => accessRange d E.c sp a n) fun w1 =>
        let x := ofBytes (rdPlaces w1 (placeOf w1 E.c sp a) n)
        let v := if zx then BitVec.ofNat 64 x else wordOf (sext (8 * n) x)
        .ok (addEntry w1 E.c
          { E.entry (spaceLatency m.space) (E.k.destS sd) (vecOfWord v) with
            fault := wordFault E w1 sp 1 false (scalarWords a n) }) none

/-- Writes bytes unless the access fails (R154). -/
def storeUnless (d : Dev) (c space a : Nat) (bs : List (Bool × Byte)) (f : Option TrapRec) : Dev :=
  match f with
  | some _ => d
  | none =>
    match storeOnChip d c space a bs with
    | .ok d1 => d1
    | .error _ => d

/-- `sts` (R160). -/
def execSts (g : Guard) (sb : BitVec 6) (m : MAddr) (wd : Width) (s : State) : Out :=
  let n := wd.bytes
  let sp := spaceCode m.space
  syllable (.sts g sb m wd) s (fun E _ => onChipHits E sp (E.memAddr m.sbase m.off) n n 2) fun E w =>
    let a := (E.memAddr m.sbase m.off).toNat
    if !E.on g then .ok w none
    else
      beforeWrite E w (fun d => accessRange d E.c sp a n) fun w1 =>
        let f := wordFault E w1 sp 2 true (scalarWords a n)
        .ok (E.storeCheck (storeUnless w1 E.c sp a (allBytes (bytesOf n (E.rdS sb).toNat)) f) (spaceLatency m.space) none f) none

/-! ## Vector loads and stores (R161, R162) -/

def granBits : Gran → Nat
  | .g32 => 32
  | .g16 => 16
  | .g8 => 8

/-- Bytes of a vector that a selection takes at a granule, as flags. -/
def selBytes (sel : Pred) (g : Nat) : List Bool := (List.range 256).map fun b => selE sel g (8 * b / g)

/-- The words of a vector access in order of address: lane `l` uses the memory word (l + k) mod 64 (R159, R161; log entry 74). -/
def vectorWords (a : Nat) (sel : List Bool) (k : Nat) : List MemWord :=
  (List.range 64).map fun j =>
    let l := (j + 64 - k) % 64
    let bs := (List.range 4).map fun i => at_ sel (4 * l + i)
    { lane := l, addr := a + 4 * j, needed := bs.any id, part := bs.any id && !bs.all id }

/-- `vld` (R161). -/
def execVld (g : Guard) (d : VOp) (m : MAddr) (gran : Gran) (rot : BitVec 6) (s : State) : Out :=
  let sp := spaceCode m.space
  let k := rot.toNat
  syllable (.vld g d m gran rot) s
    (fun E w => onChipHits E sp (E.memAddr m.sbase m.off) 256 4 1 ++ E.dstHits w d) fun E w =>
    let a := (E.memAddr m.sbase m.off).toNat
    let gw := granBits gran
    let sel := E.sel g
    afterStores E w (fun d => accessRange d E.c sp a 256) fun w1 =>
      let row := ofBytes (rdPlaces w1 (placeOf w1 E.c sp a) 256)
      let r := mkV 32 fun j => nbits row (32 * ((j + k) % 64)) 32
      let bs := selBytes sel gw
      let ws := vectorWords a bs k
      let f := if bs.any id then wordFault E w1 sp 1 false ws else none
      .ok (addEntry w1 E.c (E.vecEntry (spaceLatency m.space) .lds false d (selMask gw sel) r 0
        (f.map fun t => { t with info3 := 0 }))) none

/-- A vector store whose source may be popped from a stream: the sources are read first (R54, R142). -/
def storeSyl (i : Instr) (s : State) (srcs : List VOp) (chk : Env → Dev → List Hit)
    (eff : Env → Dev → List Vec → Option TrapRec → Eff) : Out :=
  syllable i s (fun E w => chk E w ++ E.srcsHits w [] srcs) fun E w =>
    let e : Eff :=
      if E.latchWaits srcs then .stop E.pre none .short
      else
        match E.readSrcs srcs w with
        | none => .stop E.pre none .engine
        | some (vs, flt, w1) => eff E w1 vs (flt.map E.popFault)
    e.past (E.passOver srcs w)

/-- `vst` (R161): lane j goes to word (j + k) mod 64; unselected bytes are not written. -/
def execVst (g : Guard) (a : VOp) (m : MAddr) (gran : Gran) (rot : BitVec 6) (s : State) : Out :=
  let sp := spaceCode m.space
  let k := rot.toNat
  storeSyl (.vst g a m gran rot) s [a] (fun E _ => onChipHits E sp (E.memAddr m.sbase m.off) 256 4 2) fun E w vs flt =>
    let ad := (E.memAddr m.sbase m.off).toNat
    let bs := selBytes (E.sel g) (granBits gran)
    let out := (List.range 256).map fun b =>
      let lane := (b / 4 + 64 - k) % 64
      (at_ bs (4 * lane + b % 4), BitVec.ofNat 8 (elem (src vs 0) 8 (4 * lane + b % 4)))
    if bs.any id then
      beforeWrite E w (fun d => accessRange d E.c sp ad 256) fun w1 =>
        let ws := vectorWords ad bs k
        let f := (wordFault E w1 sp 2 true ws).map fun t => { t with info3 := 0 }
        .ok (E.storeCheck (storeUnless w1 E.c sp ad out (flt.orElse fun _ => f)) (spaceLatency m.space) flt f) none
    else .ok (E.storeCheck w (spaceLatency m.space) flt none) none

/-- `vldl` (R162). -/
def execVldl (g : Guard) (d : VOp) (sbase : BitVec 6) (off : BitVec 20) (s : State) : Out :=
  syllable (.vldl g d sbase off) s
    (fun E w => onChipHits E 1 (E.memAddr sbase off) 256 256 1 ++ E.dstHits w d) fun E w =>
    let a := (E.memAddr sbase off).toNat
    let sel := E.sel g
    afterStores E w (fun d => accessRange d E.c 1 a 256) fun w1 =>
      let r : Vec := BitVec.ofNat 2048 (ofBytes (rdPlaces w1 (placeOf w1 E.c 1 a) 256))
      let f := (wordFault E w1 1 1 false (vectorWords a (selBytes sel 32) 0)).map fun t => { t with info3 := 0 }
      .ok (addEntry w1 E.c (E.vecEntry 4 .lds false d (selMask 32 sel) r 0 f)) none

/-- `vstl` (R162). -/
def execVstl (g : Guard) (a : VOp) (sbase : BitVec 6) (off : BitVec 20) (s : State) : Out :=
  storeSyl (.vstl g a sbase off) s [a] (fun E _ => onChipHits E 1 (E.memAddr sbase off) 256 256 2) fun E w vs flt =>
    let ad := (E.memAddr sbase off).toNat
    let bs := selBytes (E.sel g) 32
    let out := (List.range 256).map fun b => (at_ bs b, BitVec.ofNat 8 (elem (src vs 0) 8 b))
    if bs.any id then
      beforeWrite E w (fun d => accessRange d E.c 1 ad 256) fun w1 =>
        .ok (E.storeCheck (storeUnless w1 E.c 1 ad out flt) 4 flt none) none
    else .ok (E.storeCheck w 4 flt none) none

/-! ## Gather and scatter (R163) -/

/-- Selected lanes with their addresses. -/
def laneAddrs (E : Env) (g : Guard) (base : Word) (idx : Vec) : List (Nat × Word) :=
  ((List.range 64).filter fun j => selE (E.sel g) 32 j).map fun j => (j, base + BitVec.ofNat 64 (elem idx 32 j))

/-- Value of an index operand: a vector register or a latch. -/
def Env.idxVal (E : Env) (op : VOp) : Vec :=
  match op with
  | .v n => E.d0.rdV E.c n.toNat
  | .y n => (E.k.latch n.toNat).getD 0
  | _ => 0

/-- Checks of every selected lane, the lowest deciding within a cause (R68, R163); none while the latch that holds the
indices waits. -/
def laneHits (E : Env) (idx : VOp) (l : List (Nat × Word)) (access : Nat) : List Hit :=
  if E.latchWaits [idx] then [] else l.flatMap fun (_, a) => onChipHits E 0 a 4 4 access

def laneWords (l : List (Nat × Word)) : List MemWord :=
  l.map fun (j, a) => { lane := j, addr := a.toNat, needed := true, part := false }

/-- `vgth` (R163). -/
def execVgth (g : Guard) (d : VOp) (sbase : BitVec 6) (off : BitVec 20) (idx : VOp) (s : State) : Out :=
  syllable (.vgth g d sbase off idx) s
    (fun E w => E.srcHits w idx 0 ++ laneHits E idx (laneAddrs E g (E.memAddr sbase off) (E.idxVal idx)) 1 ++ E.dstHits w d)
    fun E w =>
      if E.latchWaits [idx] then .stop E.pre none .short else
      let l := laneAddrs E g (E.memAddr sbase off) (E.idxVal idx)
      afterStores E w (fun d => l.flatMap fun (_, a) => accessRange d E.c 0 a.toNat 4) fun w1 =>
        let r := mkV 32 fun j =>
          match l.find? fun x => x.1 == j with
          | some (_, a) => rdSpad w1 E.c a.toNat 4
          | none => 0
        let f := wordFault E w1 0 1 false (laneWords l)
        .ok (addEntry w1 E.c (E.vecEntry 8 .lds false d (selMask 32 (E.sel g)) r 0 f)) none

/-- `vsct` (R163): the highest lane that names a word stands. -/
def execVsct (g : Guard) (a : VOp) (sbase : BitVec 6) (off : BitVec 20) (idx : VOp) (s : State) : Out :=
  storeSyl (.vsct g a sbase off idx) s [a]
    (fun E w => E.srcHits w idx 0 ++ laneHits E idx (laneAddrs E g (E.memAddr sbase off) (E.idxVal idx)) 2) fun E w vs flt =>
    let l := laneAddrs E g (E.memAddr sbase off) (E.idxVal idx)
    if E.latchWaits [idx] then .stop E.pre none .short
    else if l.isEmpty then .ok (E.storeCheck w 8 flt none) none
    else
      beforeWrite E w (fun d => l.flatMap fun (_, a) => accessRange d E.c 0 a.toNat 4) fun w1 =>
        let w2 := l.foldl (fun w (j, a) =>
          storeUnless w E.c 0 a.toNat (allBytes (bytesOf 4 (elem (src vs 0) 32 j))) flt) w1
        .ok (E.storeCheck w2 8 flt none) none

/-! ## Broadcast load and local atomics (R161, R164) -/

/-- `vldb` (R161). -/
def execVldb (g : Guard) (d : VOp) (m : MAddr) (wd : Width) (s : State) : Out :=
  let n := wd.bytes
  let sp := spaceCode m.space
  syllable (.vldb g d m wd) s
    (fun E w => onChipHits E sp (E.memAddr m.sbase m.off) n n 1 ++ E.dstHits w d) fun E w =>
    let a := (E.memAddr m.sbase m.off).toNat
    let sel := E.sel g
    afterStores E w (fun d => accessRange d E.c sp a n) fun w1 =>
      let e := ofBytes (rdPlaces w1 (placeOf w1 E.c sp a) n)
      let any := (List.range (256 / n)).any fun i => selE sel (8 * n) i
      let f := if any then wordFault E w1 sp 1 false (scalarWords a n) else none
      .ok (addEntry w1 E.c (E.vecEntry (spaceLatency m.space) .lds false d (selMask (8 * n) sel) (mkV (8 * n) fun _ => e) 0 f))
        none

/-- `amol` (R164). -/
def execAmol (x : Amo) (s : State) : Out :=
  let n := amoBytes x.op
  syllable (.amol x) s (fun E _ => onChipHits E 0 (E.rdS x.sa) n n 3) fun E w =>
    let a := (E.rdS x.sa).toNat
    if !E.on x.g then .ok w none
    else
      beforeWrite E w (fun d => accessRange d E.c 0 a n) fun w1 =>
        let f := wordFault E w1 0 3 false (scalarWords a n)
        let old := rdSpad w1 E.c a n
        let new := amoNew x.op old (E.rdS x.sb).toNat (E.rdS x.sc).toNat
        let w2 := storeUnless w1 E.c 0 a (allBytes (bytesOf n new)) f
        .ok (addEntry w2 E.c { E.entry 6 (E.k.destS x.sd) (vecOfWord (BitVec.ofNat 64 old)) with fault := f }) none

/-! ## Global scalar accesses (R112 to R117) -/

/-- Before a write performs, the pending nodes that read what it writes are forced (R113, R255). -/
def beforeGlobal (E : Env) (w : Dev) (va : Word) (n : Nat) (k : Dev → Eff) : Eff :=
  withForced E w (fun d => forceAliased E d [(placeVa + va.toNat, placeVa + va.toNat + n - 1)]) k

/-- `ldg` (R114). -/
def execLdg (op : LdgOp) (g : Guard) (sc : Scope) (sd sa : BitVec 6) (s : State) : Out :=
  syllable (.ldg op g sc sd sa) s (fun E _ => globalHits E (E.rdS sa) (ldgBytes op) .read) fun E w =>
    if E.on g then .ok (E.newAcc w (.ldg op) (E.rdS sa) (ldgBytes op) 0 0 sc sd) none else .ok w none

/-- `stg` (R115). -/
def execStg (wd : Width) (g : Guard) (sc : Scope) (sa sb : BitVec 6) (s : State) : Out :=
  syllable (.stg wd g sc sa sb) s (fun E _ => globalHits E (E.rdS sa) wd.bytes .write) fun E w =>
    if !E.on g then .ok w none
    else beforeGlobal E w (E.rdS sa) wd.bytes fun w1 =>
      .ok (E.newAcc w1 (.stg wd) (E.rdS sa) wd.bytes (E.rdS sb) 0 sc 0) none

/-- `amo` (R116). -/
def execAmo (x : Amo) (sc : Scope) (s : State) : Out :=
  syllable (.amo x sc) s (fun E _ => globalHits E (E.rdS x.sa) (amoBytes x.op) .amo) fun E w =>
    if !E.on x.g then .ok w none
    else beforeGlobal E w (E.rdS x.sa) (amoBytes x.op) fun w1 =>
      .ok (E.newAcc w1 (.amo x.op) (E.rdS x.sa) (amoBytes x.op) (E.rdS x.sb) (E.rdS x.sc) sc x.sd) none

/-- `red` (R117). -/
def execRed (op : RedOp) (g : Guard) (sc : Scope) (sa sb : BitVec 6) (s : State) : Out :=
  syllable (.red op g sc sa sb) s (fun E _ => globalHits E (E.rdS sa) (redBytes op) .red) fun E w =>
    if !E.on g then .ok w none
    else beforeGlobal E w (E.rdS sa) (redBytes op) fun w1 =>
      .ok (E.newAcc w1 (.red op) (E.rdS sa) (redBytes op) (E.rdS sb) 0 sc 0) none

end Sys2Proof.Machine
end

