-- ==== Sys2Proof/Machine/System.lean ====
section
/-! DEFINITION. Tensor identifiers as `tidset` captures them, firmware's registers, hardware failure, boot, measurements,
side-band management and resets (R107, R195 to R199, R306, R307, R376 to R392). -/

namespace Sys2Proof.Machine

/-! ## `tidset` (R195 to R199) -/

/-- Lowest set bit of the low `n` bits of a number. -/
def lowestBit (n x : Nat) : Nat := ((List.range n).find? fun i => nbit x i).getD 0

/-- A stretch of bits that must be zero: whether it is not, and the byte of its lowest nonzero bit. -/
def zeroField (t lo n : Nat) : Bool × Nat := (nbits t lo n != 0, (lo + lowestBit n (nbits t lo n)) / 8)

/-- Block scales are allowed for an element-type code (R196). -/
def blockType (et : Nat) : Bool := et == 9 || et == 10 || et == 11 || et == 12

/-- Bytes of an on-chip space that a descriptor may reach (R197). -/
def locLimit (k : Ctx) (loc : Nat) : Nat := if loc = 8 then k.allot.spLen else 2 ^ 26

/-- Offset of the last byte of a tensor's elements from its base (R196). -/
def lastElement (t : TDesc) : Nat :=
  let b := tileBits (tdType t)
  if tdTiled t then (tdRows t - 1) * tdRowPitch t + (tdCols t - 1) * tdTilePitch t + 512 * b - 1
  else (64 * tdRows t - 1) * tdRowPitch t + (64 * tdCols t * b - 1) / 8

/-- Offset of the last scale byte from the scale address. -/
def lastScale (t : TDesc) : Nat := 64 * tdRows t * (64 * tdCols t) / tdBlock t - 1

/-- An on-chip tensor leaves its space (R197). -/
def beyondSpace (k : Ctx) (t : TDesc) : Bool :=
  let lim := locLimit k (tdLoc t)
  decide (lim ≤ tdAddr t + lastElement t) || (tdBlock t != 0 && decide (lim ≤ tdScaleAddr t + lastScale t))

/-- The failed conditions of a descriptor, with the byte offset of each (R197, R199). A reserved LOC counts as on-chip where ROT asks
for an aligned base (log entry 59). -/
def descFaults (d : Dev) (k : Ctx) (t : TDesc) : List (Bool × Nat) :=
  let x := t.toNat
  let loc := tdLoc t
  let et := tdEt t
  let known := loc == 0 || loc == 8 || loc == 0xA || loc == 0xB
  let sblk := bits t 75 2
  let rows0 := tdRows t == 0 || tdCols t == 0
  [(!known, 7),
   (known && (if loc = 0 then zeroField x 48 12 else zeroField x 32 28).1,
     (if loc = 0 then zeroField x 48 12 else zeroField x 32 28).2),
   zeroField x 70 2,
   (decide (0xD ≤ et), 8),
   (et == 12 && !d.featBit 5 4, 8),
   (et == 12 && tdKdim t, 8),
   zeroField x 77 3,
   (sblk == 3, 9),
   (sblk != 0 && !blockType et, 8),
   (tdRot t == 7, 9),
   (tdRot t != 0 && loc != 0 && tdAddr t % 256 != 0, 0),
   zeroField x 82 14,
   (tdCb t != 0 && et != 12, 8),
   (tdRowPitch t % 16 != 0, 12),
   (tdTilePitch t % 16 != 0, 16),
   (!tdTiled t && tdTilePitch t != 0, 8),
   (tdAddr t % 16 != 0, 0),
   (tdRows t == 0, 20),
   (tdCols t == 0, 22),
   (sblk == 0 && nbits x 215 8 == 255, 26),
   (sblk == 0 && (zeroField x 224 32).1, (zeroField x 224 32).2),
   (sblk != 0 && nbits x 247 8 == 255, 30),
   (known && loc != 0 && !rows0 && decide (et < 0xD) && beyondSpace k t, 0)]

/-- The lowest offset of a failed condition, none for a descriptor that may be captured. -/
def descFault (d : Dev) (k : Ctx) (t : TDesc) : Option Nat :=
  ((descFaults d k t).filter fun p => p.1).foldl (fun m p => some (m.elim p.2 fun n => Nat.min n p.2)) none

/-- The descriptor at an address, once no unfinished store of the context meets it. -/
def Env.tidDesc (E : Env) (a : Nat) : TDesc := BitVec.ofNat 256 (E.rec_ a 0 32)

/-- ILLEGAL_OPERAND of a refused descriptor (R199); the contents are read where the record can be. -/
def Env.tidsetHits (E : Env) (sa : BitVec 6) : List Hit :=
  let a := E.rdS sa
  let n := a.toNat
  if !alignedTo 32 n || outOfSpace E.k 0 n 32 || (badRecord E.d0 E.c n 32).isSome ||
      !(storesMeeting E.d0 E.c [(placeOf E.d0 E.c 0 n, placeOf E.d0 E.c 0 n + 31)]).isEmpty then []
  else
    match descFault E.d0 E.k (E.tidDesc n) with
    | some off => [{ E.hit 5 { E.trap 0x02 with info0 := a, info1 := BitVec.ofNat 64 off } with late := true }]
    | none => []

/-- `tidset` (R199). -/
def execTidset (g : Guard) (n sa : BitVec 6) (s : State) : Out :=
  syllable (.tidset g n sa) s
    (fun E _ => recordHits E (E.rdS sa) 32 32 (E.on g) ++ (if E.on g then E.tidsetHits sa else []))
    fun E w =>
      if !E.on g then .ok w none
      else
        let a := (E.rdS sa).toNat
        afterRecord E a 32
          (.ok (w.updCtx E.c fun k => { k with tids := k.tids.set n.toNat (some (E.tidDesc a)) }) none)

/-- `tidset.inv` (R199). -/
def execTidsetInv (g : Guard) (n : BitVec 6) (s : State) : Out :=
  syllable (.tidsetInv g n) s noChecks fun E w =>
    .ok (if E.on g then w.updCtx E.c fun k => { k with tids := k.tids.set n.toNat none } else w) none

/-- Pending panels of the nodes that captured a codebook table (R194, R199). -/
def codebookStarts (k : Ctx) (t : Nat) : List (Nat × BitVec 8) :=
  k.nodes.filterMap fun (i, n) => if n.pendingMask != 0#8 && n.cbs.contains t then some (i, n.pendingMask) else none

/-- Forces the nodes that read a codebook table before it changes, counted in ALIASCNT; a contribution takes every earlier one of its
link with it (R199, R279). -/
def forceCodebook (E : Env) (t : Nat) (d : Dev) : Forced :=
  let l := codebookStarts (d.ctx E.c) t
  if l.isEmpty then .ok d else
  match forceNow E d (l.flatMap fun x => withEarlier (d.ctx E.c) x.1 ((d.ctx E.c).node x.1) x.2) with
  | .ok d1 => .ok (d1.updCtx E.c fun k => countAliases k l)
  | .wait d1 => .wait (d1.updCtx E.c fun k => countAliases k l)
  | .trap d1 r => .trap (if r.cause = 0x11 then d1 else d1.updCtx E.c fun k => countAliases k l) r

/-- Loads a codebook table of a core (R194). -/
def loadTable (d : Dev) (core t : Nat) (v : Nat) : Dev :=
  { d with cbt := (List.range 256).foldl (fun m e => SMap.set m (cbKey core t e) (BitVec.ofNat 32 (nbits v (32 * e) 32))) d.cbt }

/-- `tidset.cb` (R199). -/
def execTidsetCb (g : Guard) (t : BitVec 2) (sa : BitVec 6) (s : State) : Out :=
  syllable (.tidsetCb g t sa) s (fun E _ => recordHits E (E.rdS sa) 32 1024 (E.on g)) fun E w =>
    if !E.on g then .ok w none
    else
      let a := (E.rdS sa).toNat
      afterRecord E a 1024 (withForced E w (forceCodebook E t.toNat) fun w1 =>
        .ok (loadTable w1 (coreOf E.c) t.toNat (E.rec_ a 0 1024)) none)

/-! ## Firmware and host accesses (R90, R382, R383) -/

/-- A measurement register extends by a digest (R388). -/
def extendMr (p : Pkg) (i : Nat) (digest : BitVec 384) : Pkg :=
  let v := Config.sha384 (bytesOf 48 (p.mr.get i).toNat ++ bytesOf 48 digest.toNat)
  { p with mr := p.mr.set i v }

/-- What a management core writes: 64 bits to a register, 128 bytes to a line of memory at once, or, once it is the runtime firmware,
the extension of MR3 to MR7 (R9, R108, R388). -/
def firmwareWrite (d : Dev) (pkg : Nat) (off : FwPlace) (v : BitVec 1024) : Dev :=
  match off with
  | .reg off => regWrite d pkg off (v.setWidth 64)
  | .line pa => if alignedTo 128 pa then ctlWrite d pkg pa (lineBytes v) else d
  | .mr i =>
    if 3 ≤ i && i ≤ 7 && (d.pkg pkg).admitState == 1 then d.updPkg pkg fun p => extendMr p i (v.setWidth 384) else d

/-- FIRMWARE_REGISTER_WRITE: a write of a management core (R9, R108, R388). -/
def execFirmwareRegisterWrite (pkg : Nat) (off : FwPlace) (v : BitVec 1024) (s : State) : Out :=
  .next { s with dev := firmwareWrite s.dev pkg off v }

/-- MIG_CLEAR (R90). -/
def execMigClear (_pkg : Nat) (v : Word) (s : State) : Out := .next { s with dev := migClearTo s.dev v }

/-- An access of the host as the system cache makes it (R92, R382): one that a pin or a belay request holds back stays in flight. -/
def hostAccess (d : Dev) (pkg : Nat) (write : Option Word) (pa : Nat) : Dev :=
  let settle {α : Type} (x : Co α) : Dev :=
    match x with
    | .ok d1 _ | .err d1 => d1
    | .wait d1 => d1.send (.host pkg pa write)
  if paKind pa ≠ .hbm || paPkg pa ≠ pkg || pkg ≠ d.bridge || !d.cxl || !alignedTo 8 pa then d
  else
    match write with
    | none => settle (coRead d (pa / 128) (sysCache pkg) false)
    | some v => settle (coWrite d (pa / 128) (sysCache pkg) false false (spanOf pa (bytesOf 8 v.toNat)))

/-- HOST_CXL_ACCESS (R382): the host reads or writes eight bytes of the bridge package's HBM4E through the system cache, with CXL
enabled; one that has been held back tries again. -/
def execHostCxlAccess (pkg : Nat) (write : Option Word) (pa : Nat) (s : State) : Out :=
  .next { s with dev := hostAccess { s.dev with msgs := s.dev.msgs.erase (.host pkg pa write) } pkg write pa }

/-! ## Hardware failure (R107, R306, R379 to R381) -/

/-- Everything that a compute die holds of a line goes home (R107). -/
def returnLine (h : Nat) (d : Dev) (line : Nat) : Dev :=
  let x := d.hl line h
  let d1 := if x.tokens = 0 then d else homeTake (d.setHl line h x.emptied) line h x.tokens x.owner x.dirty x.cmp x.data
  let d2 := d1.updHl line h fun x => { x with req := none, deferred := none, forwarding := false, pinned := 0 }
  if x.req.any Req.belay then d2.send (.belayDone line h) else d2

/-- Every token and every update-buffer partial of a die goes home (R107). -/
def returnDie (d : Dev) (die : Nat) : Dev :=
  let h := 16 * (die / 8) + die % 8
  let lines := (d.holders.filter fun x => x.1 % 1024 == h).map fun x => x.1 / 1024
  let d1 := lines.foldl (returnLine h) d
  (d1.dies.get die).upd.foldl (fun d u => d.updHome u.line fun x => { x with part := x.part ++ u.ops, dies := x.dies.filter (· != die) })
    { d1 with dies := d1.dies.update die fun x => { x with upd := [], tlb := [] } }

/-- Discards the tasks of a die, in place or spilled, with a record for each resident or saved one (R379). -/
def discardDie (d : Dev) (die : Nat) : Dev :=
  let on (c : Nat) : Bool := dieKey c == die
  let alive (k : Ctx) : Bool := k.cond == .resident || k.cond == .saved
  let recs := ((d.ctxs ++ d.spilled).filter fun x => on x.1 && alive x.2).map fun x => (x.1, taskRecord x.1 x.2 0x1A)
  let d1 := recs.foldl (fun d r => addRecord d (pkgOf r.1) r.2) d
  let d2 := discardAll d1 fun c _ => on c
  settlePkg d2 (die / 8)

/-- The shutdown sequence of a compute die (R107, R379). -/
def shutDie (d : Dev) (die : Nat) : Dev :=
  if (d.dies.get die).inReset then d
  else
    let d1 := returnDie (discardDie d die) die
    let d2 := freezeCores d1 (fun core => core / 2 ^ 8 == die) causeRemote
    { d2 with
      barriers := d2.barriers.filter fun x => x.1 / 64 != die
      dies := d2.dies.update die fun x => { x with inReset := true } }

/-- DIE_SHUTDOWN (R107, R379). -/
def execDieShutdown (die : Nat) (s : State) : Out := .next { s with dev := shutDie s.dev die }

/-- Whether a packed core lies on a package. -/
def onPkg (pkg core : Nat) : Bool := core / 2 ^ 11 == pkg

/-- A package becomes unreachable to the others (R306). -/
def losePackage (d : Dev) (pkg : Nat) : Dev :=
  (freezeCores d (onPkg pkg) causeRemote).updPkg pkg fun p => { p with unreachable := true }

/-- PACKAGE_MACHINE_CHECK (R380): a die was reset outside the sequence. -/
def execPackageMachineCheck (pkg die : Nat) (s : State) : Out :=
  .next { s with dev :=
    let d := s.dev
    let r : FRec := { cause := 0x1A, kind := 4, access := 0, source := 0, ctx := 0, job := 0, va := 0, pc := 0, count := 0, info0 := 0
                      info1 := 0 }
    let d1 := if (d.pkg pkg).ringOn then addRecord d pkg r else d
    let hold (c : Nat) (k : Ctx) : Ctx :=
      if pkgOf c = pkg && k.cond != .free && k.susp.isNone then
        { k with gSave := k.gSave ++ k.infl, infl := [], susp := some { (default : TrapRec) with cause := 0x1A, utpc := k.pc } }.invalidate
      else k
    let d2 : Dev :=
      { d1 with
        ctxs := d1.ctxs.map fun x => (x.1, hold x.1 x.2), spilled := d1.spilled.map fun x => (x.1, hold x.1 x.2)
        dies := d1.dies.update die fun x => { x with inReset := true } }
    (losePackage d2 pkg).updPkg pkg fun p => { p with machineCheck := true } }

/-- CONTEXT_STATE_ERROR (R381): MACHINE_CHECK of a context, whose task is lost. -/
def execContextStateError (c : Nat) (s : State) : Out :=
  .next { s with dev :=
    let d := s.dev
    if (d.ctx c).cond = .free || !atBoundary s c then d else settleRoles (loseTask d c 0x1A) (coreOf c) }

/-- PACKAGE_UNREACHABLE (R306). -/
def execPackageUnreachable (pkg : Nat) (s : State) : Out := .next { s with dev := losePackage s.dev pkg }

/-- What a message that has failed leaves (R306, R307): the access that asked gets REMOTE_ERROR, a hop freezes its chain, a spawn is
refused, and a notice is lost. None for a message whose failure no rule names: it stays in flight (log entry 82). -/
def messageFails (d : Dev) : Msg → Option Dev
  | .tread line r _ | .twrite line r _ | .fread line _ r _ | .fwrite line _ r _ | .belay line r => some (failWaiting d line r)
  | .join line die _ => some (failWaiting d line (die / 8 * 16 + die % 8))
  | .hop core slot _ => some (freezeAt d (d.slot (slotKey core slot)).handle (d.slot (slotKey core slot)).pos causeRemote false)
  | .spawn p => some (d.send (.spawnAck p true))
  | .notice _ => some d
  | _ => none

/-- FLIT_RETRANSMIT (R307): a flit of a message in flight has failed so many times; the message stays in flight and arrives once,
until one flit has failed 16 transmissions. -/
def execFlitRetransmit (_pkg _port : Nat) (m : FlitFails) (s : State) : Out :=
  .next { s with dev :=
    match s.dev.msgs[m.msg]? with
    | some x => if m.fails < Config.maxFlits then s.dev else (messageFails { s.dev with msgs := s.dev.msgs.eraseIdx m.msg } x).getD s.dev
    | none => s.dev }

/-- FRAME_COUNTER_SYNC (R304): the package's frame counter is set by the domain's clock. -/
def execFrameCounterSync (pkg : Nat) (v : Word) (s : State) : Out :=
  .next { s with dev := s.dev.updPkg pkg fun p => { p with frame := v, subTick := 0 } }

/-! ## Boot, measurements and the side-band (R388 to R391) -/

/-- The configuration of boot takes effect (R14, R37, R298, R388, R391). -/
def installConfig (d : Dev) (pkg : Nat) (c : BootConfig) : Dev :=
  let off := (d.disabled.filter fun core => core / 2 ^ 11 != pkg) ++ c.disabled.filter fun core => core / 2 ^ 11 == pkg
  { d with disabled := off }.updPkg
    pkg fun p =>
      { p with
        pinlim := c.pinlim
        mgroups := c.groups.foldl (fun (m : SMap (List Nat)) (g : Nat × List Nat) => SMap.set m g.1 g.2) []
        capDrop := if 800 ≤ c.watts && c.watts ≤ 2400 then 2400 - c.watts else p.capDrop }

/-- A step of boot has been made. -/
def Pkg.booted (p : Pkg) : Pkg := { p with bootStage := p.bootStage + 1 }

/-- The next step of boot (R388): the boot ROM checks the boot firmware's signature and measures it, an image that a reset has put in
its place included (R390); the boot firmware measures the runtime firmware and then the configuration, which takes effect; STATE
becomes 1. -/
def bootStep (d : Dev) (pkg : Nat) (sigOk : Bool) (bootDigest runDigest : BitVec 384) (config : BootConfig) : Dev :=
  let p := d.pkg pkg
  if p.admitState ≠ 0 then d
  else
    match p.bootStage with
    | 0 =>
      if sigOk then d.updPkg pkg fun p => (extendMr p 0 (p.image.getD bootDigest)).booted
      else d.updPkg pkg fun p => { p with admitState := 2, bootReason := Config.bootReason pkg }
    | 1 => d.updPkg pkg fun p => (extendMr p 1 runDigest).booted
    | 2 => (installConfig d pkg config).updPkg pkg fun p => (extendMr p 2 config.digest).booted
    | _ => d.updPkg pkg fun p => { p with admitState := 1 }

/-- BOOT (R388). -/
def execBoot (pkg : Nat) (sigOk : Bool) (d0 d1 : BitVec 384) (d2 : BootConfig) (s : State) : Out :=
  .next { s with dev := bootStep s.dev pkg sigOk d0 d1 d2 }

/-- Puts an answer where the request came from (R389): the mailbox of the host port, which the bridge package alone has (R382), or the
side-band. -/
def answer (s : State) (pkg : Nat) (port : SpdmPort) (code : Nat) (more : Pkg → List Byte) : Out :=
  let d := s.dev
  let text (p : Pkg) : List Byte := Config.spdmAnswer code d.free ++ more p
  match port with
  | .host =>
    if pkg = d.bridge then .next { s with dev := { d with free := d.free + 1 }.updPkg pkg fun p => { p with doe := p.doe ++ text p } }
    else .next s
  | .sideband => .next { s with dev := { d with free := d.free + 1 }.updPkg pkg fun p => { p with sideband := p.sideband ++ text p } }

/-- GET_VERSION (R389). -/
def execGetVersion (pkg : SpdmTo) (s : State) : Out := answer s pkg.pkg pkg.port 0x84 fun _ => []
/-- GET_CAPABILITIES (R389). -/
def execGetCapabilities (pkg : SpdmTo) (s : State) : Out := answer s pkg.pkg pkg.port 0xE1 fun _ => []
/-- NEGOTIATE_ALGORITHMS (R389). -/
def execNegotiateAlgorithms (pkg : SpdmTo) (s : State) : Out := answer s pkg.pkg pkg.port 0xE3 fun _ => []
/-- GET_DIGESTS (R389). -/
def execGetDigests (pkg : SpdmTo) (s : State) : Out := answer s pkg.pkg pkg.port 0x81 fun _ => []
/-- GET_CERTIFICATE (R389). -/
def execGetCertificate (pkg : SpdmTo) (_slot : Nat) (s : State) : Out := answer s pkg.pkg pkg.port 0x82 fun _ => []
/-- CHALLENGE (R389). -/
def execChallenge (pkg : SpdmTo) (_nonce : BitVec 256) (s : State) : Out := answer s pkg.pkg pkg.port 0x83 fun _ => []

/-- GET_MEASUREMENTS (R389): index i reports the measurement register i − 1. -/
def execGetMeasurements (pkg : SpdmTo) (index : Nat) (s : State) : Out :=
  answer s pkg.pkg pkg.port 0xE0 fun p => if 1 ≤ index && index ≤ 8 then bytesOf 48 (p.mr.get (index - 1)).toNat else []

/-- PLDM_MONITORING (R390): die temperatures, power draw and coolant temperature, then STATE and boot reason. -/
def execPldmMonitoring (pkg : Nat) (s : State) : Out :=
  .next { s with dev :=
    let d := s.dev
    let reading (i : Nat) : List Byte := bytesOf 4 (Config.sensor i d.free)
    { d with free := d.free + 1 }.updPkg pkg fun p =>
      { p with sideband := p.sideband ++ (List.range 10).flatMap reading ++ bytesOf 1 p.admitState ++ bytesOf 4 p.bootReason } }

/-- PLDM_FIRMWARE_UPDATE (R390): an image is staged for the next package reset. -/
def execPldmFirmwareUpdate (pkg : Nat) (image : BitVec 384) (s : State) : Out :=
  .next { s with dev := s.dev.updPkg pkg fun p => { p with staged := some image } }

/-- POWER_CAP (R391): a cap outside 800 to 2400 W is not taken. -/
def execPowerCap (pkg watts : Nat) (s : State) : Out :=
  .next { s with dev := s.dev.updPkg pkg fun p => if 800 ≤ watts && watts ≤ 2400 then { p with capDrop := 2400 - watts } else p }

/-- THERMAL_SHUTDOWN (R391). -/
def execThermalShutdown (die celsius : Nat) (s : State) : Out :=
  .next { s with dev := if 105 ≤ celsius then shutDie s.dev die else s.dev }

/-! ## Resets (R392) -/

/-- A message that a package sends, receives or homes. -/
def Msg.touches (pkg : Nat) : Msg → Bool
  | .tread line r _ | .twrite line r _ | .belay line r | .ack line r | .belayDone line r =>
    paPkg (line * 128) == pkg || r / 16 == pkg
  | .fread line h r _ | .fwrite line h r _ | .activate line h r => paPkg (line * 128) == pkg || h / 16 == pkg || r / 16 == pkg
  | .deactivate line h => paPkg (line * 128) == pkg || h / 16 == pkg
  | .toks line dest _ _ _ _ _ _ => paPkg (line * 128) == pkg || dest.any fun h => h / 16 == pkg
  | .join line die _ => paPkg (line * 128) == pkg || die / 8 == pkg
  | .hop core _ _ => onPkg pkg core
  | .spawn p | .spawnAck p _ => pkgOf p.ctx == pkg || p.pkg == pkg
  | .cancel p _ | .capture p _ _ _ | .captured p _ _ _ | .keep p _ _ _ | .report p _ _ | .frame p _ _ _ | .ctxcmd p _
  | .host p _ _ => p == pkg
  | .notice c => pkgOf c == pkg

/-- Tokens that a reset package held of a line of another package count as returned to its home, without data (log entry
63). -/
def reclaimLine (pkg : Nat) (d : Dev) (line : Nat) : Dev :=
  (List.range 9).foldl (fun d i =>
    let h := 16 * pkg + i
    let x := d.hl line h
    if x.tokens = 0 then d
    else homeTake (d.setHl line h x.emptied) line h x.tokens x.owner false false (if x.owner then some (memLine d line) else none)) d

/-- Package reset (R392): every die, memory content, token and job of the package is lost; what the configuration of boot sets
stays until boot sets it anew, and a staged image is the boot firmware from now on (R390). -/
def resetPackage (d : Dev) (pkg : Nat) : Dev :=
  let old := d.pkg pkg
  let mine := fun line : Nat => paPkg (line * 128) == pkg
  let lines := (d.holders.filter fun x => x.1 % 1024 / 16 == pkg && !mine (x.1 / 1024)).map fun x => x.1 / 1024
  let d1 := lines.eraseDups.foldl (reclaimLine pkg) (losePackage d pkg)
  let core (x : Nat) : Bool := onPkg pkg x
  let d2 : Dev :=
    { d1 with
      ctxs := d1.ctxs.filter fun x => pkgOf x.1 != pkg, spilled := d1.spilled.filter fun x => pkgOf x.1 != pkg
      cores := d1.cores.filter fun x => !core x.1, vpool := d1.vpool.filter fun x => !core (x.1 / 128)
      cbt := d1.cbt.filter fun x => !core (x.1 / 1024), slots := d1.slots.filter fun x => !core (x.1 / 8)
      barriers := d1.barriers.filter fun x => x.1 / 512 != pkg, dies := d1.dies.filter fun x => x.1 / 8 != pkg
      gmem := d1.gmem.filter fun x => paPkg x.1 != pkg, spad := d1.spad.filter fun x => !core (x.1 / 2 ^ 20)
      lanes := d1.lanes.filter fun x => !core (x.1 / 2 ^ 18), dspad := d1.dspad.filter fun x => x.1 / 2 ^ 29 != pkg
      badLines := d1.badLines.filter fun l => !mine l, badBlocks := d1.badBlocks.filter fun x => paPkg (x.1 * 2048) != pkg
      badSpad := d1.badSpad.filter fun w => !core (w * 4 / 2 ^ 20)
      badLane := d1.badLane.filter fun w => !core (w * 4 / 2 ^ 18), badDie := d1.badDie.filter fun w => w * 4 / 2 ^ 29 != pkg
      badCtx := d1.badCtx.filter fun c => pkgOf c != pkg
      holders := d1.holders.filter fun x => x.1 % 1024 / 16 != pkg && !mine (x.1 / 1024)
      homes := d1.homes.filter fun x => !mine x.1, updOrder := d1.updOrder.filter fun l => !mine l
      comp := d1.comp.filter fun x => !mine x.1, regions := d1.regions.filter fun x => paPkg (x.1 * 2 ^ 21) != pkg
      jobs := d1.jobs.filter fun x => x.1 % 64 != pkg, chains := d1.chains.filter fun x => x.1 / 4096 != pkg
      gens := d1.gens.filter fun x => x.1 / 4096 != pkg, msgs := d1.msgs.filter fun m => !m.touches pkg }
  let fresh : Pkg :=
    { (default : Pkg) with
      pinlim := old.pinlim
      mgroups := old.mgroups
      image := old.staged.orElse fun _ => old.image
      sideband := old.sideband
      unreachable := decide (1 < d.npkg) }
  { d2 with pkgs := d2.pkgs.set pkg fresh }

/-- PACKAGE_RESET (R392). -/
def execPackageReset (pkg : Nat) (s : State) : Out :=
  .next { s with dev := resetPackage s.dev pkg, bundle := if pkgOf s.cur = pkg then none else s.bundle }

/-- PACKAGE_RESET_REQUEST (R390, R392): a side-band request resets the package. -/
def execPackageResetRequest (pkg : Nat) (s : State) : Out :=
  .next { s with dev := resetPackage s.dev pkg, bundle := if pkgOf s.cur = pkg then none else s.bundle }

/-- HOST_FUNCTION_RESET (R392). -/
def execHostFunctionReset (pkg : Nat) (s : State) : Out :=
  .next { s with dev := s.dev.updPkg pkg fun p => 
      { p with doe := [], admitDrop := 0, admitUsed := 0, admissions := [] } }

/-- A port of a package goes out of use; with the last of them the package is unreachable (R306, R307). -/
def portOut (d : Dev) (pkg port : Nat) : Dev :=
  if Config.linkPorts ≤ port || (d.pkg pkg).badPorts.contains port then d
  else
    let d1 := d.updPkg pkg fun p => { p with badPorts := p.badPorts ++ [port] }
    if Config.linkPorts ≤ (d1.pkg pkg).badPorts.length then losePackage d1 pkg else d1

/-- LINK_PORT_RESET (R307, R392): the port is out of use, and traffic takes the others. -/
def execLinkPortReset (pkg port : Nat) (s : State) : Out := .next { s with dev := portOut s.dev pkg port }

/-- SIDEBAND_RESET (R392): the side-band's own buffer is lost. -/
def execSidebandReset (pkg : Nat) (s : State) : Out := .next { s with dev := s.dev.updPkg pkg fun p => { p with sideband := [] } }

end Sys2Proof.Machine
end

