-- ==== Sys2Proof/Machine/VecConvert.lean ====
section
/-! DEFINITION. Conversion: `vcvt`, `vscale` and `vcbdec`, with the codebook decoding of R193 (R218 to R221). -/

namespace Sys2Proof.Machine

/-- `vcvt` (R218): a narrowing conversion fills part k of d, a widening one reads part k of a. -/
def execVcvt (x : V1) (dst : ET) (rm : RM) (sat : Bool) (part : BitVec 3) (s : State) : Out :=
  vecSyl (.vcvt x dst rm sat part) s [x.a] (some x.d) (rndSR rm) noChecks fun E rw vs =>
    let ws := x.et.width
    let wd := dst.width
    let n := 2048 / max ws wd
    let k := part.toNat
    let base := if wd < ws then k * n else 0
    let sel := E.sel x.g
    let res := (List.range n).map fun i =>
      let si := if wd < ws then i else k * n + i
      (base + i, convert x.et dst (E.mode rm) sat (elemRandom rw (wd * (base + i))) (elem (src vs 0) ws si))
    let o := E.fpOutcome ((res.filter fun p => selE sel wd p.1).map fun p => (p.1, p.2.2))
    let inPart : Vec := BitVec.ofNat 2048 ((2 ^ (wd * n) - 1) * 2 ^ (wd * base))
    let r : Vec := BitVec.ofNat 2048 (packN wd (res.map fun p => p.2.1) * 2 ^ (wd * base))
    E.vecEntry 4 (latchPair x.sl) x.ws x.d (selMask wd sel &&& inPart) r o.1 o.2

/-- An element times an e8m0 scale byte (R220). -/
def scaleElem (et : ET) (rm : RM) (sat : Bool) (r a e : Nat) : Nat × Flags :=
  let v := valueOf et a
  if e = 255 then (canonNan et, fInvalid)
  else roundRes et rm sat r (mulX v (.fin false 1 ((e : Int) - 127)))

/-- Elements that share a scale (R220). -/
def blockLen : ScaleBlock → Nat
  | .b1 => 1
  | .b16 => 16
  | .b32 => 32

/-- `vscale` (R220). -/
def execVscale (x : VFl2) (blk : ScaleBlock) (s : State) : Out :=
  vecSyl (.vscale x blk) s [x.a, x.b] (some x.d) (rndSR x.rm) noChecks fun E rw vs =>
    let w := x.et.width
    E.elemEntry x.g 4 x.sl x.ws x.d w fun n =>
      scaleElem x.et (E.mode x.rm) x.sat (elemRandom rw (w * n)) (elem (src vs 0) w n) (elem (src vs 1) 8 (n / blockLen blk))

def cbEt : CbDst → ET
  | .f32 => .f32
  | .bf16 => .bf16
  | .f16 => .f16

/-- A weight with its block scale byte and tensor scale, rounded once (R221). -/
def cbScaled (et : ET) (wt : FVal) (e : Nat) (t : FVal) : Nat × Flags :=
  if e = 255 || t.isNan then (canonNan et, fInvalid)
  else roundRes et .rne false 0 (mulX (mulX wt (.fin false 1 ((e : Int) - 127))).1 t)

/-- `vcbdec` (R221): the table is read at issue (R194). -/
def execVcbdec (g : Guard) (sl : VSlot) (ws : Bool) (d a : VOp) (r : BitVec 6) (dst : CbDst) (t : BitVec 2) (grp : BitVec 4)
    (s : State) : Out :=
  vecSyl (.vcbdec g sl ws d a r dst t grp) s [a] (some d) noRandom noChecks fun E _ vs =>
    let et := cbEt dst
    let w := et.width
    let q := 2048 / w / 8
    let sv := E.rdS r
    let ts := if bits sv 32 32 = 0 then FVal.fin false 1 0 else valueOf .f32 (bits sv 32 32)
    E.elemEntry g 4 sl ws d w fun n =>
      let index := elem (src vs 0) 16 (grp.toNat * q + n / 8)
      cbScaled et (cbWeight (cbEntry E.d0 E.c t.toNat (index / 256)) index (n % 8)) (bits sv 0 8) ts

end Sys2Proof.Machine
end

