-- ==== Sys2Proof/Machine/VecFloat.lean ====
section
/-! DEFINITION. Vector floating-point arithmetic and special functions (R222 to R229). -/

namespace Sys2Proof.Machine

/-- A rounding arithmetic instruction with two sources (R223). -/
def vFl2Syl (i : Instr) (s : State) (x : VFl2) (f : ET → RM → Bool → Nat → Nat → Nat → Nat × Flags) : Out :=
  vecSyl i s [x.a, x.b] (some x.d) (rndSR x.rm) noChecks fun E rw vs =>
    let w := x.et.width
    E.elemEntry x.g 4 x.sl x.ws x.d w fun n =>
      f x.et (E.mode x.rm) x.sat (elemRandom rw (w * n)) (elem (src vs 0) w n) (elem (src vs 1) w n)

/-- A rounding arithmetic instruction with three sources (R223). -/
def vFl3Syl (i : Instr) (s : State) (x : VFl3) (f : ET → RM → Bool → Nat → Nat → Nat → Nat → Nat × Flags) : Out :=
  vecSyl i s [x.a, x.b, x.c] (some x.d) (rndSR x.rm) noChecks fun E rw vs =>
    let w := x.et.width
    E.elemEntry x.g 4 x.sl x.ws x.d w fun n =>
      f x.et (E.mode x.rm) x.sat (elemRandom rw (w * n)) (elem (src vs 0) w n) (elem (src vs 1) w n)
        (elem (src vs 2) w n)

/-- `vfadd` (R223). -/
def execVfadd (x : VFl2) (s : State) : Out := vFl2Syl (.vfadd x) s x addF

/-- `vfsub` (R223). -/
def execVfsub (x : VFl2) (s : State) : Out := vFl2Syl (.vfsub x) s x subF

/-- `vfmul` (R223). -/
def execVfmul (x : VFl2) (s : State) : Out := vFl2Syl (.vfmul x) s x mulF

/-- `vfma` (R223). -/
def execVfma (x : VFl3) (s : State) : Out := vFl3Syl (.vfma x) s x fmaF

/-- `vfms` (R223). -/
def execVfms (x : VFl3) (s : State) : Out := vFl3Syl (.vfms x) s x fmsF

/-- `vfmin` (R224). -/
def execVfmin (x : V2) (s : State) : Out :=
  vecSyl (.vfmin x) s [x.a, x.b] (some x.d) noRandom noChecks fun E _ vs =>
    let w := x.et.width
    E.elemEntry x.g 4 x.sl x.ws x.d w fun n => minmaxF x.et false (elem (src vs 0) w n) (elem (src vs 1) w n)

/-- `vfmax` (R224). -/
def execVfmax (x : V2) (s : State) : Out :=
  vecSyl (.vfmax x) s [x.a, x.b] (some x.d) noRandom noChecks fun E _ vs =>
    let w := x.et.width
    E.elemEntry x.g 4 x.sl x.ws x.d w fun n => minmaxF x.et true (elem (src vs 0) w n) (elem (src vs 1) w n)

/-- `vfabs` (R225). -/
def execVfabs (x : V1) (s : State) : Out :=
  vecSyl (.vfabs x) s [x.a] (some x.d) noRandom noChecks fun E _ vs =>
    let w := x.et.width
    E.elemEntry x.g 4 x.sl x.ws x.d w fun n => (absE x.et (elem (src vs 0) w n), 0#6)

/-- `vfneg` (R225). -/
def execVfneg (x : V1) (s : State) : Out :=
  vecSyl (.vfneg x) s [x.a] (some x.d) noRandom noChecks fun E _ vs =>
    let w := x.et.width
    E.elemEntry x.g 4 x.sl x.ws x.d w fun n => (negE x.et (elem (src vs 0) w n), 0#6)

/-- A special function of f32 lanes (R226). -/
def vFnSyl (i : Instr) (s : State) (x : VFn) (f : Nat → Nat × Flags) : Out :=
  vecSyl i s [x.a] (some x.d) noRandom noChecks fun E _ vs =>
    E.elemEntry x.g 8 x.sl x.ws x.d 32 fun n => f (elem (src vs 0) 32 n)

/-- `vrcpa` (R227). -/
def execVrcpa (x : VFn) (s : State) : Out := vFnSyl (.vrcpa x) s x rcpaF

/-- `vrsqa` (R227). -/
def execVrsqa (x : VFn) (s : State) : Out := vFnSyl (.vrsqa x) s x rsqaF

/-- `vexp2` (R228). -/
def execVexp2 (x : VFn) (s : State) : Out := vFnSyl (.vexp2 x) s x exp2F

/-- `vlog2` (R228). -/
def execVlog2 (x : VFn) (s : State) : Out := vFnSyl (.vlog2 x) s x log2F

/-- `vgkey` (R229): the word is popped whatever the guard or the mask. -/
def execVgkey (x : VFn) (r : BitVec 6) (pm : BitVec 4) (s : State) : Out :=
  vecSyl (.vgkey x r pm) s [x.a] (some x.d) (fun _ => true) noChecks fun E rw vs =>
    let mask := E.rdP pm
    E.elemEntry x.g 8 x.sl x.ws x.d 32 fun n =>
      if selE mask 32 n then
        fmaF .f32 .rne false 0 (elem (src vs 0) 32 n) (bits (E.rdS r) 0 32) (gumbel (elem rw 32 n / 256))
      else (inf32 true, 0#6)

end Sys2Proof.Machine
end

