-- ==== Sys2Proof/Machine/VecInt.lean ====
section
/-! DEFINITION. Vector integer, predicate and element-move instructions (R203 to R217). -/

namespace Sys2Proof.Machine

/-- The integer value of an element (R206). -/
def intOf (et : ET) (x : Nat) : Int := if et.signed then sext et.width x else (x % 2 ^ et.width : Nat)

/-- Fit(t) of R206. -/
def fit (et : ET) (sat : Bool) (t : Int) : Nat := wrapN et.width (if sat then clampI (minOf et) (maxOf et) t else t)

/-- An element-wise integer result of latency 2, with no flags (R205). -/
def intEntry (E : Env) (g : Guard) (sl : VSlot) (ws : Bool) (d : VOp) (w : Nat) (f : Nat → Nat) : Entry :=
  E.plainEntry g 2 sl ws d w (mkV w f)

def vArSyl (i : Instr) (s : State) (x : VAr) (f : Int → Int → Int) : Out :=
  vecSyl i s [x.a, x.b] (some x.d) noRandom noChecks fun E _ vs =>
    intEntry E x.g x.sl x.ws x.d x.et.width fun n =>
      fit x.et x.sat (f (intOf x.et (elem (src vs 0) x.et.width n)) (intOf x.et (elem (src vs 1) x.et.width n)))

def v2Syl (i : Instr) (s : State) (x : V2) (f : Nat → Nat → Nat) : Out :=
  vecSyl i s [x.a, x.b] (some x.d) noRandom noChecks fun E _ vs =>
    intEntry E x.g x.sl x.ws x.d x.et.width fun n =>
      f (elem (src vs 0) x.et.width n) (elem (src vs 1) x.et.width n)

/-- `vadd` (R206). -/
def execVadd (x : VAr) (s : State) : Out := vArSyl (.vadd x) s x fun x y => x + y

/-- `vsub` (R206). -/
def execVsub (x : VAr) (s : State) : Out := vArSyl (.vsub x) s x fun x y => x - y

/-- `vmul` (R206). -/
def execVmul (x : VAr) (s : State) : Out := vArSyl (.vmul x) s x fun x y => x * y

/-- `vmulh` (R206): the high half of the 2w-bit product. -/
def execVmulh (x : V2) (s : State) : Out :=
  v2Syl (.vmulh x) s x fun a b => wrapN x.et.width (intOf x.et a * intOf x.et b / (2 ^ x.et.width : Nat))

/-- `vmac` (R206). -/
def execVmac (x : VAr3) (s : State) : Out :=
  vecSyl (.vmac x) s [x.a, x.b, x.c] (some x.d) noRandom noChecks fun E _ vs =>
    let w := x.et.width
    intEntry E x.g x.sl x.ws x.d w fun n =>
      fit x.et x.sat (intOf x.et (elem (src vs 0) w n) * intOf x.et (elem (src vs 1) w n) + intOf x.et (elem (src vs 2) w n))

/-- `vabsd` (R206): the difference as an unsigned element. -/
def execVabsd (x : V2) (s : State) : Out :=
  v2Syl (.vabsd x) s x fun a b => (intOf x.et a - intOf x.et b).natAbs

/-- `vmin` (R206). -/
def execVmin (x : V2) (s : State) : Out :=
  v2Syl (.vmin x) s x fun a b => if intOf x.et b < intOf x.et a then b else a

/-- `vmax` (R206). -/
def execVmax (x : V2) (s : State) : Out :=
  v2Syl (.vmax x) s x fun a b => if intOf x.et a < intOf x.et b then b else a

/-- Logic on the whole register; the type sets the guard granule alone (R207). -/
def logicSyl (i : Instr) (s : State) (x : V2) (f : Vec → Vec → Vec) : Out :=
  vecSyl i s [x.a, x.b] (some x.d) noRandom noChecks fun E _ vs =>
    E.plainEntry x.g 2 x.sl x.ws x.d x.et.width (f (src vs 0) (src vs 1))

/-- `vand` (R207). -/
def execVand (x : V2) (s : State) : Out := logicSyl (.vand x) s x fun a b => a &&& b

/-- `vor` (R207). -/
def execVor (x : V2) (s : State) : Out := logicSyl (.vor x) s x fun a b => a ||| b

/-- `vxor` (R207). -/
def execVxor (x : V2) (s : State) : Out := logicSyl (.vxor x) s x fun a b => a ^^^ b

/-- `vandn` (R207). -/
def execVandn (x : V2) (s : State) : Out := logicSyl (.vandn x) s x fun a b => a &&& ~~~b

/-- An element shifted by a count (R208, R209). -/
def shlE (w a n : Nat) : Nat := if w ≤ n then 0 else a * 2 ^ n % 2 ^ w
def shrE (w a n : Nat) : Nat := if w ≤ n then 0 else a / 2 ^ n
def sarE (w a n : Nat) : Nat := wrapN w (sext w a / (2 ^ min n w : Nat))
def rolE (w a n : Nat) : Nat := (a * 2 ^ n + a / 2 ^ (w - n)) % 2 ^ w

/-- `vshl` (R208). -/
def execVshl (x : V2) (s : State) : Out := v2Syl (.vshl x) s x (shlE x.et.width)

/-- `vshr` (R208). -/
def execVshr (x : V2) (s : State) : Out := v2Syl (.vshr x) s x (shrE x.et.width)

/-- `vsar` (R208): the sign bit is bit w - 1 under every type. -/
def execVsar (x : V2) (s : State) : Out := v2Syl (.vsar x) s x (sarE x.et.width)

/-- `vshi` (R209). -/
def execVshi (kind : ShiKind) (x : V1) (n : BitVec 12) (s : State) : Out :=
  vecSyl (.vshi kind x n) s [x.a] (some x.d) noRandom noChecks fun E _ vs =>
    let w := x.et.width
    intEntry E x.g x.sl x.ws x.d w fun j =>
      let a := elem (src vs 0) w j
      match kind with
      | .shl => shlE w a n.toNat
      | .shr => shrE w a n.toNat
      | .sar => sarE w a n.toNat
      | .rol => rolE w a n.toNat

/-- `vcmp` (R210). -/
def execVcmp (cond : VCond) (g : Guard) (sl : VSlot) (d : BitVec 4) (a b : VOp) (et : ET) (s : State) : Out :=
  vecSyl (.vcmp cond g sl d a b et) s [a, b] none noRandom noChecks fun E _ vs =>
    let w := et.width
    let sel := E.sel g
    let res := (List.range (2048 / w)).map fun n =>
      let x := elem (src vs 0) w n
      let y := elem (src vs 1) w n
      (n, if et.isFl then cmpF cond (valueOf et x) (valueOf et y) else (cmpI cond (intOf et x) (intOf et y), 0#6))
    let o := E.fpOutcome ((res.filter fun p => selE sel w p.1).map fun p => (p.1, p.2.2))
    E.predEntry 2 w sel d (mkP w fun n => ((at_ res n).2.1)) o.1 o.2

/-- Predicate logic, bit by bit (R211). -/
def predSyl (i : Instr) (s : State) (x : P3) (f : Pred → Pred → Pred) : Out :=
  vecSyl i s [] none noRandom noChecks fun E _ _ => E.predEntry 2 8 (E.sel x.g) x.d (f (E.rdP x.a) (E.rdP x.b)) 0 none

/-- `pand` (R211). -/
def execPand (x : P3) (s : State) : Out := predSyl (.pand x) s x fun a b => a &&& b

/-- `por` (R211). -/
def execPor (x : P3) (s : State) : Out := predSyl (.por x) s x fun a b => a ||| b

/-- `pxor` (R211). -/
def execPxor (x : P3) (s : State) : Out := predSyl (.pxor x) s x fun a b => a ^^^ b

/-- `pandn` (R211). -/
def execPandn (x : P3) (s : State) : Out := predSyl (.pandn x) s x fun a b => a &&& ~~~b

/-- `pcnt` and `pcnt.first` (R213). -/
def execPcnt (first : Bool) (g : Guard) (sl : VSlot) (sd : BitVec 6) (a : BitVec 4) (et : ET) (s : State) : Out :=
  vecSyl (.pcnt first g sl sd a et) s [] none noRandom noChecks fun E _ _ =>
    let w := et.width
    let hits := (List.range (2048 / w)).filter fun n => selE (E.rdP a) w n && selE (E.sel g) w n
    E.entry 2 (E.k.destS sd) (BitVec.ofNat 2048 (if first then hits.headD (2048 / w) else hits.length))

/-- `pmov` (R212). -/
def execPmov (g : Guard) (sl : VSlot) (d a : BitVec 4) (s : State) : Out :=
  vecSyl (.pmov g sl d a) s [] none noRandom noChecks fun E _ _ => E.predEntry 2 8 (E.sel g) d (E.rdP a) 0 none

/-- `pmov.v2p` (R212). -/
def execPmovV2P (g : Guard) (sl : VSlot) (d : BitVec 4) (a : VOp) (et : ET) (s : State) : Out :=
  vecSyl (.pmovV2P g sl d a et) s [a] none noRandom noChecks fun E _ vs =>
    E.predEntry 2 et.width (E.sel g) d (mkP et.width fun n => elem (src vs 0) et.width n != 0) 0 none

/-- `pmov.p2v` (R212). -/
def execPmovP2V (g : Guard) (sl : VSlot) (ws : Bool) (d : VOp) (a : BitVec 4) (et : ET) (s : State) : Out :=
  vecSyl (.pmovP2V g sl ws d a et) s [] (some d) noRandom noChecks fun E _ _ =>
    E.plainEntry g 2 sl ws d et.width (selMask et.width (E.rdP a))

/-- `vsel` (R214). -/
def execVsel (x : V2) (pc : BitVec 4) (s : State) : Out :=
  vecSyl (.vsel x pc) s [x.a, x.b] (some x.d) noRandom noChecks fun E _ vs =>
    E.plainEntry x.g 2 x.sl x.ws x.d x.et.width (mergeV (selMask x.et.width (E.rdP pc)) (src vs 0) (src vs 1))

/-- `vmov` (R214). -/
def execVmov (x : V1) (s : State) : Out :=
  vecSyl (.vmov x) s [x.a] (some x.d) noRandom noChecks fun E _ vs =>
    E.plainEntry x.g 2 x.sl x.ws x.d x.et.width (src vs 0)

/-- `vbcst` (R215): the low bits of the scalar or of the sign-extended immediate. -/
def execVbcst (imm : Option (BitVec 12)) (g : Guard) (sl : VSlot) (ws : Bool) (d : VOp) (r : BitVec 6) (et : ET)
    (s : State) : Out :=
  vecSyl (.vbcst imm g sl ws d r et) s [] (some d) noRandom noChecks fun E _ _ =>
    let x : Word := match imm with
      | some n => n.signExtend 64
      | none => E.rdS r
    intEntry E g sl ws d et.width fun _ => bits x 0 et.width

/-- `vext` (R216): the scalar is written only if the guard selects the element. -/
def execVext (sg : Bool) (g : Guard) (sl : VSlot) (sd : BitVec 6) (a : VOp) (idx : BitVec 12) (et : ET) (s : State) : Out :=
  vecSyl (.vext sg g sl sd a idx et) s [a] none noRandom noChecks fun E _ vs =>
    let x := elem (src vs 0) et.width idx.toNat
    E.entry 2 (if selE (E.sel g) et.width idx.toNat then E.k.destS sd else .none)
      (vecOfWord (if sg then wordOf (sext et.width x) else BitVec.ofNat 64 x))

/-- `vins` (R216). -/
def execVins (x : V1) (r : BitVec 6) (idx : BitVec 12) (s : State) : Out :=
  vecSyl (.vins x r idx) s [x.a] (some x.d) noRandom noChecks fun E _ vs =>
    let w := x.et.width
    intEntry E x.g x.sl x.ws x.d w fun n => if n = idx.toNat then bits (E.rdS r) 0 w else elem (src vs 0) w n

/-- `vidx` (R217). -/
def execVidx (g : Guard) (sl : VSlot) (ws : Bool) (d : VOp) (r : BitVec 6) (step : BitVec 12) (et : ET) (s : State) : Out :=
  vecSyl (.vidx g sl ws d r step et) s [] (some d) noRandom noChecks fun E _ _ =>
    intEntry E g sl ws d et.width fun n => wrapN et.width ((E.rdS r).toNat + n * step.toInt)

end Sys2Proof.Machine
end

