-- ==== Sys2Proof/Machine/VecPermute.lean ====
section
/-! DEFINITION. Permutes, reductions and dot products (R230 to R237). -/

namespace Sys2Proof.Machine

/-- `vtlu` (R230). -/
def execVtlu (x : V2) (c : Option VOp) (s : State) : Out :=
  vecSyl (.vtlu x c) s ([x.a, x.b] ++ c.toList) (some x.d) noRandom noChecks fun E _ vs =>
    let w := x.et.width
    E.plainEntry x.g 3 x.sl x.ws x.d w (mkV w fun n =>
      let j := elem (src vs 1) w n
      if j < 2048 / w then elem (src vs 0) w j else if c.isNone then 0 else elem (src vs 2) w n)

/-- `vrot` (R231). -/
def execVrot (x : V1) (r : BitVec 6) (k : BitVec 12) (s : State) : Out :=
  vecSyl (.vrot x r k) s [x.a] (some x.d) noRandom noChecks fun E _ vs =>
    let w := x.et.width
    let n := 2048 / w
    let m := ((E.rdS r).toNat + k.toNat) % n
    E.plainEntry x.g 3 x.sl x.ws x.d w (mkV w fun i => elem (src vs 0) w ((i + m) % n))

/-- `vshuf` (R232). T is a followed by b. -/
def execVshuf (x : V2) (mode : ShufMode) (c : Option VOp) (s : State) : Out :=
  vecSyl (.vshuf x mode c) s ([x.a, x.b] ++ c.toList) (some x.d) noRandom noChecks fun E _ vs =>
    let w := x.et.width
    let n := 2048 / w
    let t (j : Nat) : Nat := if j < n then elem (src vs 0) w j else if j < 2 * n then elem (src vs 1) w (j - n) else 0
    let two (base i : Nat) : Nat :=
      if i % 2 = 0 then elem (src vs 0) w (base + i / 2) else elem (src vs 1) w (base + (i - 1) / 2)
    E.plainEntry x.g 3 x.sl x.ws x.d w (mkV w fun i =>
      match mode with
      | .table => t (elem (src vs 2) w i)
      | .lo => two 0 i
      | .hi => two (n / 2) i
      | .even => t (2 * i)
      | .odd => t (2 * i + 1))

/-- The active elements of a source (R222). -/
def activeElems (v : Vec) (mask : Pred) (w : Nat) : List Nat :=
  ((List.range (2048 / w)).filter (selE mask w)).map (elem v w)

/-- One level of the tree of R234: element i added to element i + h. -/
def treeLevel (et : ET) : List Nat → List Nat → List (Nat × Flags)
  | a :: r, b :: q => addF et .rne false 0 a b :: treeLevel et r q
  | _, _ => []

/-- The fixed pairwise tree of R234. -/
def treeSum (et : ET) : Nat → List Nat → Flags → Nat × Flags
  | 0, l, f => (l.headD 0, f)
  | k + 1, l, f =>
    let h := l.length / 2
    if h = 0 then (l.headD 0, f)
    else
      let r := treeLevel et (l.take h) (l.drop h)
      treeSum et k (r.map Prod.fst) (f ||| orFlags (r.map Prod.snd))

/-- The value of `vredsum` (R233, R234). -/
def redSum (et : ET) (sat : Bool) (v : Vec) (mask : Pred) : Nat × Flags :=
  let w := et.width
  if et.isInt then
    (wrapN w (let t : Int := (activeElems v mask w).foldl (fun (t : Int) a => t + (if et.signed then sext w a else (a : Int))) 0
              if sat then clampI (minOf et) (maxOf et) t else t), 0#6)
  else treeSum et 8 ((List.range (2048 / w)).map fun i => if selE mask w i then elem v w i else signBit et true) 0#6

/-- The value of `vredmax` and `vredmin` (R233). -/
def redExt (et : ET) (mx : Bool) (v : Vec) (mask : Pred) : Nat × Flags :=
  let w := et.width
  let as := activeElems v mask w
  if et.isInt then
    let val (a : Nat) : Int := if et.signed then sext w a else a
    (wrapN w (as.foldl (fun (m : Int) a => if mx then max m (val a) else min m (val a)) (if mx then minOf et else maxOf et)), 0#6)
  else
    let fl := flagIf (as.any fun a => (valueOf et a).isSnan) fInvalid
    match as.filter fun a => !(valueOf et a).isNan with
    | [] => if as.isEmpty then (signBit et mx + infBits et, 0#6) else (canonNan et, fInvalid)
    | a :: r =>
      (r.foldl (fun m b => if mx then (if ltX (valueOf et m) (valueOf et b) then b else m)
                           else (if ltX (valueOf et b) (valueOf et m) then b else m)) a, fl)

/-- A reduction into element 0 (R233). -/
def redSyl (i : Instr) (s : State) (x : VRed) (f : Vec → Pred → Nat × Flags) : Out :=
  vecSyl i s [x.a] (some x.d) noRandom noChecks fun E _ vs =>
    let r := f (src vs 0) (E.rdP x.pm)
    E.oneEntry x.g 6 x.sl x.ws x.d x.et.width (BitVec.ofNat 2048 r.1) r.2

/-- `vredsum` (R233, R234). -/
def execVredsum (x : VRed) (sat : Bool) (s : State) : Out := redSyl (.vredsum x sat) s x (redSum x.et sat)

/-- `vredmax` (R233). -/
def execVredmax (x : VRed) (s : State) : Out := redSyl (.vredmax x) s x (redExt x.et true)

/-- `vredmin` (R233). -/
def execVredmin (x : VRed) (s : State) : Out := redSyl (.vredmin x) s x (redExt x.et false)

/-- Better of R236: by value, a tie by the lower index. -/
def better (mx : Bool) (v x val idx : Nat) : Bool :=
  let a := valueOf .f32 v
  let b := valueOf .f32 val
  if a.isNan then b.isNan && decide (x < idx)
  else if b.isNan then true
  else
    let gt := if mx then ltX b a else ltX a b
    let lt := if mx then ltX a b else ltX b a
    gt || (!lt && decide (x < idx))

/-- Offers candidates in turn (R235). -/
def offerAll (mx : Bool) : Option (Nat × Nat) → List (Nat × Nat) → Option (Nat × Nat)
  | b, [] => b
  | none, p :: r => offerAll mx (some p) r
  | some b, p :: r => offerAll mx (some (if better mx p.1 p.2 b.1 b.2 then p else b)) r

/-- The empty pair, which stands for no candidate (R235). -/
def emptyPair : Nat × Nat := (0xFF800000, 0xFFFFFFFF)

/-- The pair of `vmaxi` and `vmini`, with its flags (R235, R236). -/
def maxIdx (mx : Bool) (v : Vec) (mask : Pred) (base : Nat) (run : Option (Nat × Nat)) : (Nat × Nat) × Flags :=
  let act := (List.range 64).filter (selE mask 32)
  let cands := act.map fun j => (elem v 32 j, (base + j) % 2 ^ 32)
  let more := match run with
    | some p => if p = emptyPair then [] else [p]
    | none => []
  let snan := cands.any fun p => (valueOf .f32 p.1).isSnan
  match offerAll mx none (cands ++ more) with
  | none => (emptyPair, fNosel)
  | some (val, idx) =>
    if (valueOf .f32 val).isNan then ((canonNan .f32, idx), fInvalid) else ((val, idx), flagIf snan fInvalid)

def miSyl (i : Instr) (s : State) (x : VMi) (mx : Bool) : Out :=
  vecSyl i s [x.a] (some x.d) noRandom noChecks fun E _ vs =>
    let old := E.oldV x.d
    let run := if x.acc then some (elem old 32 0, elem old 32 1) else none
    let r := maxIdx mx (src vs 0) (E.rdP x.pm) (bits (E.rdS x.s) 0 32) run
    E.oneEntry x.g 6 x.sl x.ws x.d 32 (packV 32 [r.1.1, r.1.2]) r.2

/-- `vmaxi` (R235, R236). -/
def execVmaxi (x : VMi) (s : State) : Out := miSyl (.vmaxi x) s x true

/-- `vmini` (R235, R236). -/
def execVmini (x : VMi) (s : State) : Out := miSyl (.vmini x) s x false

/-- `vdot` (R237): sixteen groups of sixteen terms, G = 16, L = 19. -/
def execVdot (g : Guard) (sl : VSlot) (ws : Bool) (d a b c : VOp) (ta tb : ET) (s : State) : Out :=
  vecSyl (.vdot g sl ws d a b c ta tb) s [a, b, c] (some d) noRandom noChecks fun E _ vs =>
    E.elemEntry g 6 sl ws d 32 fun k =>
      if k < 16 then
        groupAdd 19
          ((List.range 16).map fun j =>
            (valueOf ta (elem (src vs 0) 8 (16 * k + j)), valueOf tb (elem (src vs 1) 8 (16 * k + j))))
          (.fin false 1 0) (elem (src vs 2) 32 k)
      else (0, 0#6)

end Sys2Proof.Machine
end

