-- ==== Sys2Proof/Machine/Dispatch.lean ====
section
/-! DEFINITION. One arm per constructor of Instr, each one direct call of its meaning. -/

namespace Sys2Proof.Machine

def exec (i : Instr) (s : State) : Host.Outcome State Fault Refusal :=
  match i with
  | .nop g => Sys2Proof.Machine.execNop g s
  | .add x => Sys2Proof.Machine.execAdd x s
  | .sub x => Sys2Proof.Machine.execSub x s
  | .and x => Sys2Proof.Machine.execAnd x s
  | .or x => Sys2Proof.Machine.execOr x s
  | .xor x => Sys2Proof.Machine.execXor x s
  | .andn x => Sys2Proof.Machine.execAndn x s
  | .shl x => Sys2Proof.Machine.execShl x s
  | .shr x => Sys2Proof.Machine.execShr x s
  | .sar x => Sys2Proof.Machine.execSar x s
  | .rol x => Sys2Proof.Machine.execRol x s
  | .min x => Sys2Proof.Machine.execMin x s
  | .max x => Sys2Proof.Machine.execMax x s
  | .mul x => Sys2Proof.Machine.execMul x s
  | .mulh mode x => Sys2Proof.Machine.execMulh mode x s
  | .div x => Sys2Proof.Machine.execDiv x s
  | .rem x => Sys2Proof.Machine.execRem x s
  | .clz x => Sys2Proof.Machine.execClz x s
  | .ctz x => Sys2Proof.Machine.execCtz x s
  | .popc x => Sys2Proof.Machine.execPopc x s
  | .ext sg x sc => Sys2Proof.Machine.execExt sg x sc s
  | .set cond x => Sys2Proof.Machine.execSet cond x s
  | .csel x sc => Sys2Proof.Machine.execCsel x sc s
  | .setp cond g pd sa sb => Sys2Proof.Machine.execSetp cond g pd sa sb s
  | .addi x => Sys2Proof.Machine.execAddi x s
  | .andi x => Sys2Proof.Machine.execAndi x s
  | .ori x => Sys2Proof.Machine.execOri x s
  | .xori x => Sys2Proof.Machine.execXori x s
  | .shli x => Sys2Proof.Machine.execShli x s
  | .shri x => Sys2Proof.Machine.execShri x s
  | .sari x => Sys2Proof.Machine.execSari x s
  | .muli x => Sys2Proof.Machine.execMuli x s
  | .movi g sd imm => Sys2Proof.Machine.execMovi g sd imm s
  | .movhi x => Sys2Proof.Machine.execMovhi x s
  | .seti cond x => Sys2Proof.Machine.execSeti cond x s
  | .br cond g sa sb off => Sys2Proof.Machine.execBr cond g sa sb off s
  | .jmp g off => Sys2Proof.Machine.execJmp g off s
  | .call g off => Sys2Proof.Machine.execCall g off s
  | .jr g sa off => Sys2Proof.Machine.execJr g sa off s
  | .callr g sa off => Sys2Proof.Machine.execCallr g sa off s
  | .loop g off => Sys2Proof.Machine.execLoop g off s
  | .brp mode g p off => Sys2Proof.Machine.execBrp mode g p off s
  | .vadd x => Sys2Proof.Machine.execVadd x s
  | .vsub x => Sys2Proof.Machine.execVsub x s
  | .vmul x => Sys2Proof.Machine.execVmul x s
  | .vmulh x => Sys2Proof.Machine.execVmulh x s
  | .vmac x => Sys2Proof.Machine.execVmac x s
  | .vabsd x => Sys2Proof.Machine.execVabsd x s
  | .vmin x => Sys2Proof.Machine.execVmin x s
  | .vmax x => Sys2Proof.Machine.execVmax x s
  | .vand x => Sys2Proof.Machine.execVand x s
  | .vor x => Sys2Proof.Machine.execVor x s
  | .vxor x => Sys2Proof.Machine.execVxor x s
  | .vandn x => Sys2Proof.Machine.execVandn x s
  | .vshl x => Sys2Proof.Machine.execVshl x s
  | .vshr x => Sys2Proof.Machine.execVshr x s
  | .vsar x => Sys2Proof.Machine.execVsar x s
  | .vshi kind x n => Sys2Proof.Machine.execVshi kind x n s
  | .vcmp cond g sl d a b et => Sys2Proof.Machine.execVcmp cond g sl d a b et s
  | .pand x => Sys2Proof.Machine.execPand x s
  | .por x => Sys2Proof.Machine.execPor x s
  | .pxor x => Sys2Proof.Machine.execPxor x s
  | .pandn x => Sys2Proof.Machine.execPandn x s
  | .pcnt first g sl sd a et => Sys2Proof.Machine.execPcnt first g sl sd a et s
  | .pmov g sl d a => Sys2Proof.Machine.execPmov g sl d a s
  | .pmovV2P g sl d a et => Sys2Proof.Machine.execPmovV2P g sl d a et s
  | .pmovP2V g sl ws d a et => Sys2Proof.Machine.execPmovP2V g sl ws d a et s
  | .vsel x pc => Sys2Proof.Machine.execVsel x pc s
  | .vmov x => Sys2Proof.Machine.execVmov x s
  | .vbcst imm g sl ws d r et => Sys2Proof.Machine.execVbcst imm g sl ws d r et s
  | .vext sg g sl sd a idx et => Sys2Proof.Machine.execVext sg g sl sd a idx et s
  | .vins x r idx => Sys2Proof.Machine.execVins x r idx s
  | .vidx g sl ws d r step et => Sys2Proof.Machine.execVidx g sl ws d r step et s
  | .vfadd x => Sys2Proof.Machine.execVfadd x s
  | .vfsub x => Sys2Proof.Machine.execVfsub x s
  | .vfmul x => Sys2Proof.Machine.execVfmul x s
  | .vfma x => Sys2Proof.Machine.execVfma x s
  | .vfms x => Sys2Proof.Machine.execVfms x s
  | .vfmin x => Sys2Proof.Machine.execVfmin x s
  | .vfmax x => Sys2Proof.Machine.execVfmax x s
  | .vfabs x => Sys2Proof.Machine.execVfabs x s
  | .vfneg x => Sys2Proof.Machine.execVfneg x s
  | .vrcpa x => Sys2Proof.Machine.execVrcpa x s
  | .vrsqa x => Sys2Proof.Machine.execVrsqa x s
  | .vexp2 x => Sys2Proof.Machine.execVexp2 x s
  | .vlog2 x => Sys2Proof.Machine.execVlog2 x s
  | .vgkey x r pm => Sys2Proof.Machine.execVgkey x r pm s
  | .vcvt x dst rm sat part => Sys2Proof.Machine.execVcvt x dst rm sat part s
  | .vcbdec g sl ws d a r dst t grp => Sys2Proof.Machine.execVcbdec g sl ws d a r dst t grp s
  | .vscale x blk => Sys2Proof.Machine.execVscale x blk s
  | .vtlu x c => Sys2Proof.Machine.execVtlu x c s
  | .vrot x r k => Sys2Proof.Machine.execVrot x r k s
  | .vshuf x mode c => Sys2Proof.Machine.execVshuf x mode c s
  | .vredsum x sat => Sys2Proof.Machine.execVredsum x sat s
  | .vredmax x => Sys2Proof.Machine.execVredmax x s
  | .vredmin x => Sys2Proof.Machine.execVredmin x s
  | .vmaxi x => Sys2Proof.Machine.execVmaxi x s
  | .vmini x => Sys2Proof.Machine.execVmini x s
  | .vdot g sl ws d a b c ta tb => Sys2Proof.Machine.execVdot g sl ws d a b c ta tb s
  | .tld g zd tid r => Sys2Proof.Machine.execTld g zd tid r s
  | .tew op g rm zd a b => Sys2Proof.Machine.execTew op g rm zd a b s
  | .tews op g rm zd a r => Sys2Proof.Machine.execTews op g rm zd a r s
  | .tfn op g zd a => Sys2Proof.Machine.execTfn op g zd a s
  | .tmap g zd a r => Sys2Proof.Machine.execTmap g zd a r s
  | .tcvt dst g rm sat zd a => Sys2Proof.Machine.execTcvt dst g rm sat zd a s
  | .tmma g ta tb a b r pos => Sys2Proof.Machine.execTmma g ta tb a b r pos s
  | .tst g tid r a mask => Sys2Proof.Machine.execTst g tid r a mask s
  | .tforce g a mask => Sys2Proof.Machine.execTforce g a mask s
  | .tforceLink g r pos => Sys2Proof.Machine.execTforceLink g r pos s
  | .tdrop g a => Sys2Proof.Machine.execTdrop g a s
  | .tmov g zd a => Sys2Proof.Machine.execTmov g zd a s
  | .chclose g zd r => Sys2Proof.Machine.execChclose g zd r s
  | .lds zx g sd m w => Sys2Proof.Machine.execLds zx g sd m w s
  | .vld g d m gran rot => Sys2Proof.Machine.execVld g d m gran rot s
  | .vldl g d sbase off => Sys2Proof.Machine.execVldl g d sbase off s
  | .vgth g d sbase off idx => Sys2Proof.Machine.execVgth g d sbase off idx s
  | .vldb g d m w => Sys2Proof.Machine.execVldb g d m w s
  | .ldg op g sc sd sa => Sys2Proof.Machine.execLdg op g sc sd sa s
  | .sts g sb m w => Sys2Proof.Machine.execSts g sb m w s
  | .vst g a m gran rot => Sys2Proof.Machine.execVst g a m gran rot s
  | .vstl g a sbase off => Sys2Proof.Machine.execVstl g a sbase off s
  | .vsct g a sbase off idx => Sys2Proof.Machine.execVsct g a sbase off idx s
  | .amol x => Sys2Proof.Machine.execAmol x s
  | .stg w g sc sa sb => Sys2Proof.Machine.execStg w g sc sa sb s
  | .amo x sc => Sys2Proof.Machine.execAmo x sc s
  | .red op g sc sa sb => Sys2Proof.Machine.execRed op g sc sa sb s
  | .cpy x => Sys2Proof.Machine.execCpy x s
  | .subs x n => Sys2Proof.Machine.execSubs x n s
  | .unsub g cue sd n => Sys2Proof.Machine.execUnsub g cue sd n s
  | .rrel g cue sd n m => Sys2Proof.Machine.execRrel g cue sd n m s
  | .rfin g cue sd n m => Sys2Proof.Machine.execRfin g cue sd n m s
  | .strb x n => Sys2Proof.Machine.execStrb x n s
  | .stru g cue sd n => Sys2Proof.Machine.execStru g cue sd n s
  | .qfence g cue sd mask => Sys2Proof.Machine.execQfence g cue sd mask s
  | .cttset x clr n => Sys2Proof.Machine.execCttset x clr n s
  | .cttrdy g cue sd n => Sys2Proof.Machine.execCttrdy g cue sd n s
  | .cttrdyQ g sd n => Sys2Proof.Machine.execCttrdyQ g sd n s
  | .chbuild x sb => Sys2Proof.Machine.execChbuild x sb s
  | .chsplice x sb pos => Sys2Proof.Machine.execChsplice x sb pos s
  | .chresume x => Sys2Proof.Machine.execChresume x s
  | .chfree x => Sys2Proof.Machine.execChfree x s
  | .gload x sb cap => Sys2Proof.Machine.execGload x sb cap s
  | .gstep x => Sys2Proof.Machine.execGstep x s
  | .gmask words x sb n => Sys2Proof.Machine.execGmask words x sb n s
  | .fence g sc q n => Sys2Proof.Machine.execFence g sc q n s
  | .waitT g sa n => Sys2Proof.Machine.execWaitT g sa n s
  | .waitGe g sd sa sb => Sys2Proof.Machine.execWaitGe g sd sa sb s
  | .signal g sd b => Sys2Proof.Machine.execSignal g sd b s
  | .bar g sd b => Sys2Proof.Machine.execBar g sd b s
  | .barSet g sa b => Sys2Proof.Machine.execBarSet g sa b s
  | .spawn g sd sa => Sys2Proof.Machine.execSpawn g sd sa s
  | .yield g => Sys2Proof.Machine.execYield g s
  | .halt g => Sys2Proof.Machine.execHalt g s
  | .trap g sa code => Sys2Proof.Machine.execTrap g sa code s
  | .tret g => Sys2Proof.Machine.execTret g s
  | .cret g => Sys2Proof.Machine.execCret g s
  | .rds g sd num => Sys2Proof.Machine.execRds g sd num s
  | .wrs g sa num => Sys2Proof.Machine.execWrs g sa num s
  | .chstat g sd sa pos => Sys2Proof.Machine.execChstat g sd sa pos s
  | .chstatSlot g sd k => Sys2Proof.Machine.execChstatSlot g sd k s
  | .tidset g n sa => Sys2Proof.Machine.execTidset g n sa s
  | .tidsetInv g n => Sys2Proof.Machine.execTidsetInv g n s
  | .tidsetCb g t sa => Sys2Proof.Machine.execTidsetCb g t sa s
  | .frwait g sa => Sys2Proof.Machine.execFrwait g sa s
  | .frwaitFrame g sa => Sys2Proof.Machine.execFrwaitFrame g sa s
  | .cancel g sa => Sys2Proof.Machine.execCancel g sa s
  | .bundleIssue => Sys2Proof.Machine.execBundleIssue s
  | .resultDelivery c => Sys2Proof.Machine.execResultDelivery c s
  | .userTrapEntry c => Sys2Proof.Machine.execUserTrapEntry c s
  | .firmwareTrapDelivery c => Sys2Proof.Machine.execFirmwareTrapDelivery c s
  | .cueTaken c => Sys2Proof.Machine.execCueTaken c s
  | .preEmption c => Sys2Proof.Machine.execPreEmption c s
  | .taskResume c => Sys2Proof.Machine.execTaskResume c s
  | .taskPlacement pkg => Sys2Proof.Machine.execTaskPlacement pkg s
  | .primarySwitch core => Sys2Proof.Machine.execPrimarySwitch core s
  | .secondaryPromotion core => Sys2Proof.Machine.execSecondaryPromotion core s
  | .dueCountEngineWait c => Sys2Proof.Machine.execDueCountEngineWait c s
  | .pinExpiry c line => Sys2Proof.Machine.execPinExpiry c line s
  | .asyncTrapDelivery c => Sys2Proof.Machine.execAsyncTrapDelivery c s
  | .ctxcmdResume c => Sys2Proof.Machine.execCtxcmdResume c s
  | .ctxcmdDeliver c cause => Sys2Proof.Machine.execCtxcmdDeliver c cause s
  | .ctxcmdDiscard c => Sys2Proof.Machine.execCtxcmdDiscard c s
  | .faultRingRecord pkg => Sys2Proof.Machine.execFaultRingRecord pkg s
  | .firmwareRegisterWrite pkg off v => Sys2Proof.Machine.execFirmwareRegisterWrite pkg off v s
  | .migClear pkg v => Sys2Proof.Machine.execMigClear pkg v s
  | .admitJob pkg bytes v firmware => Sys2Proof.Machine.execAdmitJob pkg bytes v firmware s
  | .jobCapture pkg => Sys2Proof.Machine.execJobCapture pkg s
  | .memberCapture m => Sys2Proof.Machine.execMemberCapture m s
  | .jobCompletionRound pkg job => Sys2Proof.Machine.execJobCompletionRound pkg job s
  | .spawnReceive m => Sys2Proof.Machine.execSpawnReceive m s
  | .spawnAck m => Sys2Proof.Machine.execSpawnAck m s
  | .cancelPacket m => Sys2Proof.Machine.execCancelPacket m s
  | .callSheetRelease pkg job => Sys2Proof.Machine.execCallSheetRelease pkg job s
  | .frameStart pkg job => Sys2Proof.Machine.execFrameStart pkg job s
  | .retirementReport m => Sys2Proof.Machine.execRetirementReport m s
  | .frameStartMessage m => Sys2Proof.Machine.execFrameStartMessage m s
  | .engineOperationStart c q => Sys2Proof.Machine.execEngineOperationStart c q s
  | .engineOperationCompletion c q => Sys2Proof.Machine.execEngineOperationCompletion c q s
  | .copyFault c => Sys2Proof.Machine.execCopyFault c s
  | .enginePageFault c q => Sys2Proof.Machine.execEnginePageFault c q s
  | .subscriptionFill c n => Sys2Proof.Machine.execSubscriptionFill c n s
  | .storerWrite c n => Sys2Proof.Machine.execStorerWrite c n s
  | .ringFault c n => Sys2Proof.Machine.execRingFault c n s
  | .streamPrefetch c n => Sys2Proof.Machine.execStreamPrefetch c n s
  | .streamPushPerform c n => Sys2Proof.Machine.execStreamPushPerform c n s
  | .streamElementFault c n => Sys2Proof.Machine.execStreamElementFault c n s
  | .randomWordGeneration c => Sys2Proof.Machine.execRandomWordGeneration c s
  | .tokenBucketRefill c => Sys2Proof.Machine.execTokenBucketRefill c s
  | .transientRead m => Sys2Proof.Machine.execTransientRead m s
  | .transientWrite m => Sys2Proof.Machine.execTransientWrite m s
  | .attemptTimeout line holder => Sys2Proof.Machine.execAttemptTimeout line holder s
  | .forwardedRead m => Sys2Proof.Machine.execForwardedRead m s
  | .forwardedWrite m => Sys2Proof.Machine.execForwardedWrite m s
  | .activation m => Sys2Proof.Machine.execActivation m s
  | .deactivation m => Sys2Proof.Machine.execDeactivation m s
  | .holderTokensArrive m => Sys2Proof.Machine.execHolderTokensArrive m s
  | .homeTokensArrive m => Sys2Proof.Machine.execHomeTokensArrive m s
  | .eviction line holder => Sys2Proof.Machine.execEviction line holder s
  | .belayRequest m => Sys2Proof.Machine.execBelayRequest m s
  | .belayCompletion m => Sys2Proof.Machine.execBelayCompletion m s
  | .deactivationAcknowledged m => Sys2Proof.Machine.execDeactivationAcknowledged m s
  | .updateJoin m => Sys2Proof.Machine.execUpdateJoin m s
  | .updateMerge line => Sys2Proof.Machine.execUpdateMerge line s
  | .updateBufferEviction die => Sys2Proof.Machine.execUpdateBufferEviction die s
  | .forcedMerge pkg home => Sys2Proof.Machine.execForcedMerge pkg home s
  | .tlbInvalidation pkg job va len => Sys2Proof.Machine.execTlbInvalidation pkg job va len s
  | .pageTableWalk die job va => Sys2Proof.Machine.execPageTableWalk die job va s
  | .dieShutdown die => Sys2Proof.Machine.execDieShutdown die s
  | .packageMachineCheck pkg die => Sys2Proof.Machine.execPackageMachineCheck pkg die s
  | .contextStateError c => Sys2Proof.Machine.execContextStateError c s
  | .panelForce c node panel => Sys2Proof.Machine.execPanelForce c node panel s
  | .tstStoreWrite c node => Sys2Proof.Machine.execTstStoreWrite c node s
  | .heldDemandProceed core slot => Sys2Proof.Machine.execHeldDemandProceed core slot s
  | .linkBinding pkg num pos => Sys2Proof.Machine.execLinkBinding pkg num pos s
  | .linkAdvance core slot => Sys2Proof.Machine.execLinkAdvance core slot s
  | .hopArrival m => Sys2Proof.Machine.execHopArrival m s
  | .chainFreeze core slot => Sys2Proof.Machine.execChainFreeze core slot s
  | .closeDone pkg num => Sys2Proof.Machine.execCloseDone pkg num s
  | .collectiveFiring c n => Sys2Proof.Machine.execCollectiveFiring c n s
  | .peerWrite c n => Sys2Proof.Machine.execPeerWrite c n s
  | .firingCompletion c n => Sys2Proof.Machine.execFiringCompletion c n s
  | .deadlineReached c n => Sys2Proof.Machine.execDeadlineReached c n s
  | .deadlineNotice m => Sys2Proof.Machine.execDeadlineNotice m s
  | .packageUnreachable pkg => Sys2Proof.Machine.execPackageUnreachable pkg s
  | .flitRetransmit pkg port m => Sys2Proof.Machine.execFlitRetransmit pkg port m s
  | .frameCounterSync pkg v => Sys2Proof.Machine.execFrameCounterSync pkg v s
  | .hostCxlAccess pkg write pa => Sys2Proof.Machine.execHostCxlAccess pkg write pa s
  | .boot pkg sigOk d0 d1 d2 => Sys2Proof.Machine.execBoot pkg sigOk d0 d1 d2 s
  | .getVersion pkg => Sys2Proof.Machine.execGetVersion pkg s
  | .getCapabilities pkg => Sys2Proof.Machine.execGetCapabilities pkg s
  | .negotiateAlgorithms pkg => Sys2Proof.Machine.execNegotiateAlgorithms pkg s
  | .getDigests pkg => Sys2Proof.Machine.execGetDigests pkg s
  | .getCertificate pkg slot => Sys2Proof.Machine.execGetCertificate pkg slot s
  | .challenge pkg nonce => Sys2Proof.Machine.execChallenge pkg nonce s
  | .getMeasurements pkg index => Sys2Proof.Machine.execGetMeasurements pkg index s
  | .pldmMonitoring pkg => Sys2Proof.Machine.execPldmMonitoring pkg s
  | .pldmFirmwareUpdate pkg image => Sys2Proof.Machine.execPldmFirmwareUpdate pkg image s
  | .packageResetRequest pkg => Sys2Proof.Machine.execPackageResetRequest pkg s
  | .powerCap pkg watts => Sys2Proof.Machine.execPowerCap pkg watts s
  | .thermalShutdown die celsius => Sys2Proof.Machine.execThermalShutdown die celsius s
  | .packageReset pkg => Sys2Proof.Machine.execPackageReset pkg s
  | .hostFunctionReset pkg => Sys2Proof.Machine.execHostFunctionReset pkg s
  | .linkPortReset pkg port => Sys2Proof.Machine.execLinkPortReset pkg port s
  | .sidebandReset pkg => Sys2Proof.Machine.execSidebandReset pkg s

end Sys2Proof.Machine
end

