-- ==== Sys2Proof/Machine/Run.lean ====
section
/-! DEFINITION. What the machine does next: a context's bundle or diversion, the passing of a cycle, and the steps that every
agent may take in it (log entry 6). -/

namespace Sys2Proof.Machine

/-! ## A context's turn (R51, R54, R166, R334, R361) -/

/-- A context may issue: it is resident, it is primary or secondary, and nothing suspends it (R333, R376). -/
def mayIssue (d : Dev) (c : Nat) : Bool :=
  let k := d.ctx c
  let x := d.core (coreOf c)
  k.cond == .resident && k.susp.isNone && (x.primary == ctxNum c + 1 || x.secondary == ctxNum c + 1)

/-- The step that takes a diversion. -/
def divertInstr (k : Ctx) (c : Nat) : Divert → Option Instr
  | .none => none
  | .result _ r | .post r => some (if k.userRoute r.cause then .userTrapEntry c else .firmwareTrapDelivery c)
  | .async _ => some (.asyncTrapDelivery c)
  | .cue => some (.cueTaken c)

/-- The syllables of an open bundle, each run or failing to decode, and the bundle's issue (R54, R65). -/
def runWords : List Word → State → Out
  | [], s => exec .bundleIssue s
  | w :: r, s =>
    match decode w with
    | .ok i =>
      match exec i s with
      | .next s1 => runWords r s1
      | o => o
    | .error e => runWords r (badSyllable s w e)

/-- A bundle of several syllables, or of one that does not decode. -/
def runOpened (s : State) (ws : List Word) : Out :=
  let s1 := openChecks s (8 * ws.length)
  if s1.bundle.isSome then runWords ws s1 else .next s1

/-- The bundle at the pc of the context: one decodable syllable is a bundle of its own. -/
def runBundle (s : State) (ws : List Word) : Out :=
  match ws with
  | [w] =>
    match decode w with
    | .ok i => exec i s
    | .error _ => runOpened s ws
  | _ => runOpened s ws

/-- Fetches at the pc of the context and runs what is there (R51, R52). -/
def fetchAndRun (s : State) : Out :=
  match fetchBundle s.dev s.cur with
  | .trap d r => .next { s with dev := takeTrap d s.cur r }
  | .wait d => .next { s with dev := stall d s.cur .short }
  | .pads d addr => .next { s with dev := d.updCtx s.cur fun k => { k with pc := addr } }
  | .bundle d addr ws => runBundle { s with dev := d.updCtx s.cur fun k => { k with pc := addr } } ws

/-- A result due at the boundary is late: the checks of the next bundle that do not wait for it are made, and if none fails the
stall goes on (R167, R400). -/
def waitDue (s : State) : Out :=
  match if (s.dev.ctx s.cur).dueFault.isNone then fetchAndRun s else .next s with
  | .next t => if (t.dev.ctx t.cur).dueWaits then exec (.dueCountEngineWait t.cur) t else .next t
  | o => o

/-- The turn of the context `s.cur`: a diversion, a wait for a result due, or its next bundle. -/
def runContext (s : State) : Out :=
  if !mayIssue s.dev s.cur then .next s
  else
    let d := reportDemands s.dev s.cur
    match divertInstr (d.ctx s.cur) s.cur (nextDivert d s.cur) with
    | some i => exec i { s with dev := passPads d s.cur }
    | none =>
      let s1 := { s with dev := d }
      if (d.ctx s.cur).dueWaits then waitDue s1 else fetchAndRun s1

/-- The context `s.cur` takes a diversion that it could take, whatever its role. -/
def runDivert (s : State) : Out :=
  let d := reportDemands s.dev s.cur
  match divertInstr (d.ctx s.cur) s.cur (nextDivert d s.cur) with
  | some i => exec i { s with dev := passPads d s.cur }
  | none => .next s

/-- The bundle at the pc of a context, were its turn now, would be in an engine wait (R334): the bundle is tried, and nothing of it
stays. -/
def wouldWait (s : State) (c : Nat) : Bool :=
  match fetchAndRun { s with cur := c, bundle := none, agenda := [] } with
  | .next t => (t.dev.ctx c).waiting
  | _ => false

/-- A context without a turn stands where it stands, and whether that is an engine wait is looked at anew (R334, R335). -/
def lookAt (s : State) (c : Nat) : State :=
  let k := s.dev.ctx c
  let w (k : Ctx) : Ctx :=
    if k.dueWaits then { k with waiting := false, dueStall := k.dueStall + 1 }
    else { k with waiting := nextDivert s.dev c == .none && wouldWait s c, dueStall := 0 }
  if k.cond == .resident && k.susp.isNone then { s with dev := s.dev.updCtx c w } else s

/-! ## The passing of a cycle -/

/-- FRAME counts a tick every so many cycles (R353). -/
def Pkg.tickOn (p : Pkg) : Pkg :=
  if p.subTick + 1 < Config.tickCycles then { p with subTick := p.subTick + 1 }
  else { p with subTick := 0, frame := p.frame + 1 }

/-- One cycle passes. -/
def passCycle (d : Dev) : Dev :=
  (List.range d.npkg).foldl (fun d p => d.updPkg p Pkg.tickOn) { d with cycle := d.cycle + 1 }

/-! ## What may happen in a cycle -/

/-- The step by which the message at an index arrives. -/
def arrival (m : Nat) : Msg → Option Instr
  | .tread _ _ _ => some (.transientRead m)
  | .twrite _ _ _ => some (.transientWrite m)
  | .fread _ _ _ _ => some (.forwardedRead m)
  | .fwrite _ _ _ _ => some (.forwardedWrite m)
  | .belay _ _ => some (.belayRequest m)
  | .activate _ _ _ => some (.activation m)
  | .deactivate _ _ => some (.deactivation m)
  | .ack _ _ => some (.deactivationAcknowledged m)
  | .belayDone _ _ => some (.belayCompletion m)
  | .toks _ dest _ _ _ _ _ _ => some (if dest.isSome then .holderTokensArrive m else .homeTokensArrive m)
  | .join _ _ _ => some (.updateJoin m)
  | .hop _ _ _ => some (.hopArrival m)
  | .spawn _ => some (.spawnReceive m)
  | .spawnAck _ _ => some (.spawnAck m)
  | .cancel _ _ => some (.cancelPacket m)
  | .capture _ _ _ _ | .captured _ _ _ _ | .keep _ _ _ _ => some (.memberCapture m)
  | .report _ _ _ => some (.retirementReport m)
  | .frame _ _ _ _ => some (.frameStartMessage m)
  | .notice _ => some (.deadlineNotice m)
  | .host _ _ _ => none
  | .ctxcmd _ v =>
    let c := bits v 0 19
    match bits v 56 8 with
    | 1 => some (.ctxcmdResume c)
    | 2 => some (.ctxcmdDeliver c (bits v 48 8))
    | _ => some (.ctxcmdDiscard c)

/-- A message arrives in each cycle, each in its turn; a host access that was held back tries again (R105, R382). -/
def arrivals (d : Dev) : List Act :=
  let m := d.cycle % d.msgs.length
  match d.msgs[m]? with
  | some (.host pkg pa write) => [.host pkg pa write]
  | some x => (arrival m x).toList.map Act.ev
  | none => []

/-- The dispatcher's step: a context that it would pre-empt first takes what else it could at its boundary (R361). -/
def dispatchStep (d : Dev) (pkg : Nat) : List Act :=
  match dispatch d pkg with
  | some (.place ..) => [.ev (.taskPlacement pkg)]
  | some (.resume c _ _) => [.ev (.taskResume c)]
  | some (.preempt c) => [.divert c, .ev (.preEmption c)]
  | none => []

/-- Steps of one package: its fault ring, its admissions. -/
def packageSteps (d : Dev) (pkg : Nat) : List Instr :=
  (if (d.pkg pkg).frecs.isEmpty then [] else [.faultRingRecord pkg]) ++
  (if (d.pkg pkg).admissions.isEmpty then [] else [.jobCapture pkg]) ++
  (if d.updOrder.isEmpty then [] else (List.range 8).map fun h => Instr.forcedMerge pkg h)

/-- Steps of a job as a package holds it; completion rounds wait while a call sheet runs. -/
def jobSteps (d : Dev) (pkg job : Nat) : List Instr :=
  let j := d.job pkg job
  let running (p : Nat) : Bool := (d.job p job).sheet.any fun sh => !sh.ended
  if !j.live then []
  else
    (if running pkg then [.callSheetRelease pkg job, .frameStart pkg job] else []) ++
      (if j.admitPkg = pkg && !(membersOf d j.gang).any running then [.jobCompletionRound pkg job] else [])

/-- Steps of a context's queues: the engine operation at the head of each. -/
def queueSteps (ts : List Ctx) (c : Nat) : List Instr :=
  ((List.range 6).filter fun q => ts.any fun k => !(k.queue q).isEmpty).flatMap fun q =>
    (if q = 0 then [.copyFault c] else []) ++ [.engineOperationStart c q, .enginePageFault c q, .engineOperationCompletion c q]

/-- Numbers of the entries of a table that satisfy a condition in some task. -/
def someKeys {α : Type} (ts : List Ctx) (f : Ctx → SMap α) (p : α → Bool) : List Nat :=
  (ts.flatMap fun k => ((f k).filter fun x => p x.2).map Prod.fst).eraseDups

/-- Panels that a demand in force reaches (R247, R248). -/
def panelSteps (d : Dev) (c : Nat) : List Instr :=
  let k := d.ctx c
  (k.closure k.starts).flatMap fun x =>
    ((List.range 8).filter fun p => x.2.getLsbD p && (k.node x.1).pendingMask.getLsbD p).map fun p => Instr.panelForce c x.1 p

/-- Steps of the units of one context number, for the task in place and those spilled. -/
def contextSteps (d : Dev) (c : Nat) : List Instr :=
  let ts := (tasksAt d c).filter fun k => k.cond != .free
  if ts.isEmpty then []
  else
    ((ts.flatMap Ctx.pins).filter fun p => p.refused.isSome).map (fun p => Instr.pinExpiry c p.line) ++
      (if ts.any fun k => k.rq.length < 16 then [.randomWordGeneration c] else []) ++ [.tokenBucketRefill c] ++
      (someKeys ts Ctx.streams fun q => q.bound || !q.pushed.isEmpty).flatMap
        (fun n => [Instr.streamPrefetch c n, .streamPushPerform c n, .streamElementFault c n]) ++
      (someKeys ts Ctx.subs Sub.live).flatMap
        (fun n => [Instr.subscriptionFill c n, .storerWrite c n, .ringFault c n, .enginePageFault c 1]) ++
      queueSteps ts c ++ panelSteps d c ++
      (someKeys ts Ctx.nodes fun n => match n.op with | .store .. => true | _ => false).map (fun i => Instr.tstStoreWrite c i) ++
      (someKeys ts Ctx.ctt fun e => e.state != 0).flatMap
        (fun n => [Instr.collectiveFiring c n, .peerWrite c n, .firingCompletion c n, .deadlineReached c n])

/-- Steps of link slots and chains (R274 to R288). -/
def chainSteps (d : Dev) : List Instr :=
  ((d.slots.filter fun x => x.2.state != .free).flatMap fun x =>
    [Instr.heldDemandProceed (x.1 / 8) (x.1 % 8), .linkAdvance (x.1 / 8) (x.1 % 8), .chainFreeze (x.1 / 8) (x.1 % 8)]) ++
  ((d.chains.filter fun x => x.2.live).flatMap fun x =>
    let pkg := x.1 / 4096
    let num := x.1 % 4096
    (((List.range x.2.links.length).filter fun p => ((x.2.links[p]?).elim 1 Link.bound) == 0).map fun p => Instr.linkBinding pkg num p) ++
      [.closeDone pkg num])

/-- Steps of the coherence units that no message brings (R98, R102, R109, R110). -/
def coherenceSteps (d : Dev) : List Instr :=
  (d.allHolders.filterMap fun h => (replaced d h).map fun l => Instr.eviction l h) ++
    ((d.holders.filter fun x => x.2.req.isSome).map fun x => Instr.attemptTimeout (x.1 / 1024) (x.1 % 1024)) ++
    (d.updOrder.map fun l => Instr.updateMerge l) ++
    ((d.dies.filter fun x => !x.2.upd.isEmpty).map fun x => Instr.updateBufferEviction x.1)

/-- Context numbers with a task in place or spilled. -/
def contextNumbers (d : Dev) : List Nat := (d.ctxs.keys ++ d.spilled.map Prod.fst).eraseDups

/-- Contexts of a core that are resident and have no role. -/
def withoutRole (d : Dev) (core : Nat) : List Nat :=
  ((List.range 4).filter fun n =>
    residentAt d core n && (d.core core).primary != n + 1 && (d.core core).secondary != n + 1).map (ctxId core)

/-- A core in a cycle: a promotion (R336), a look at the contexts without a role, and the turns. -/
def coreActs (d : Dev) (core : Nat) : List Act :=
  [.ev (.secondaryPromotion core)] ++ (withoutRole d core).map Act.look ++ [.turns core]

/-- The turns of a core's contexts in a cycle: the primary, then the secondary, which a wait of the primary makes primary first
(R333, R335, R401). -/
def coreTurns (core : Nat) (x : Core) : List Act :=
  let turn (role : Nat) : List Act := if role = 0 then [] else [.run (ctxId core (role - 1)), .ev (.primarySwitch core)]
  turn x.primary ++ turn x.secondary

/-- What the agents of the machine do in one cycle: every unit that may have something to do, in a fixed order, and then the
turns of the contexts that may issue. -/
def round (d : Dev) : List Act :=
  let pkgs := List.range d.npkg
  let units := coherenceSteps d ++ pkgs.flatMap (packageSteps d) ++
    d.jobs.keys.flatMap (fun x => jobSteps d (x % 64) (x / 64)) ++ (contextNumbers d).flatMap (contextSteps d) ++ chainSteps d
  arrivals d ++ units.map Act.ev ++ pkgs.flatMap (dispatchStep d) ++ d.cores.keys.flatMap (coreActs d)

/-- Nothing is left on the agenda: a cycle passes, and the next one's steps are drawn up. -/
def nextRound (s : State) : State :=
  let d := passCycle s.dev
  { s with dev := d, agenda := round d }

/-- The next thing on the agenda. -/
def runAgenda (s : State) : Out :=
  match s.agenda with
  | .ev i :: r => exec i { s with agenda := r }
  | .run c :: r => runContext { s with cur := c, agenda := r }
  | .turns core :: r => .next { s with agenda := coreTurns core (s.dev.core core) ++ r }
  | .look c :: r => .next (lookAt { s with agenda := r } c)
  | .divert c :: r => runDivert { s with cur := c, agenda := r }
  | .host pkg pa write :: r => execHostCxlAccess pkg write pa { s with agenda := r }
  | [] => .next (nextRound s)

/-! ## A program placed for the next step (log entry 14) -/

/-- Where the placed program starts, as a virtual address. -/
def progVa : Nat := 0x40000000

/-- The job of the placed program: its page tables start at 0x7F000. -/
def progJob : Job :=
  { (default : Job) with
    live := true
    gang := 1
    ptroot := 0x7F000
    saven := 4
    out := 1
    epoch := 1
    areas := [0]
    types := [(0, { (default : TaskType) with entry := BitVec.ofNat 64 progVa, vregs := 32, priv := true })] }

/-- Its task's allotments. -/
def progAllot : Allot :=
  { spBase := 0, spLen := 0x80000, arBase := 0x80000, arLen := 0x80000, lsBase := 0, lsLen := 0x40000, links := 0xFF#8
    vBase := 0, vSize := 32 }

/-- A privileged task of job 1 at context 0 of core 0, primary, with its first random word generated and one gigabyte mapped
for every access. -/
def launch (d : Dev) : Dev :=
  let d1 := pokeBytes (pokeBytes d 0x7F000 (bytesOf 8 0x80001)) 0x80008 (bytesOf 8 0x9F)
  let k := freshCtx 0 progJob { (default : QTask) with job := 1 } progAllot 0 1
  let k1 := { k with rq := [randomWord 0 0 0] }
  { (d1.updJob 0 1 fun _ => progJob).setCtx 0 k1 with cores := d1.cores.set 0 { (default : Core) with primary := 1 } }

/-- Where the next fetch of a context reads memory. -/
def fetchPa (d : Dev) (c : Nat) : Option Nat :=
  match translateAs d c (d.ctx c).privNow (d.ctx c).pc .fetch with
  | .ok pa _ => if isMemory pa then some pa else none
  | .fault _ => none

/-- A context's turn would fetch at its pc at once. -/
def readyToFetch (s : State) (c : Nat) : Bool :=
  mayIssue s.dev c && nextDivert (reportDemands s.dev c) c == .none && !(s.dev.ctx c).dueWaits && (fetchPa s.dev c).isSome

/-- The context that fetches next; a machine in which none can is given a placed task. -/
def readyState (s : State) : State := if readyToFetch s s.cur then s else { s with dev := launch s.dev, cur := 0 }

/-- A word as the bundle at the pc of the context that fetches next, with a pad after it in its packet. -/
def placeWord (s : State) (w : Word) : State :=
  let s1 := readyState s
  let pa := (fetchPa s1.dev s1.cur).getD 0
  let after := if pa % 64 = 56 then [] else bytesOf 8 padWord.toNat
  { s1 with dev := pokeBytes s1.dev pa (bytesOf 8 w.toNat ++ after), bundle := none, agenda := [.run s1.cur] }

end Sys2Proof.Machine
end

