-- ==== Sys2Proof/Machine/Step.lean ====
section
/-! DEFINITION. The step of the machine, and a state in which the next step runs a given instruction. -/

namespace Sys2Proof.Machine

/-- One step: an open bundle issues, or the next thing on the agenda happens (log entry 6). -/
def step (s : State) : Host.Outcome State Fault Refusal :=
  match s.bundle with
  | some _ => exec .bundleIssue s
  | none => runAgenda s

/-- `s` with a program of one instruction placed where the next step fetches (log entry 14). -/
def State.withFetchWord (s : State) (_nbits w : Nat) : State := placeWord s (BitVec.ofNat 64 w)

end Sys2Proof.Machine
end

