-- ==== Sys2Proof/Safety.lean ====
section
/-! DEFINITION. What claims use: the canonical form of every memory, what a safe step is, and what a bundle of one syllable
sees and leaves when it issues. -/

namespace Sys2Proof.Machine

/-- A memory is in its one canonical form: addresses strictly rising, no cell that holds what an unlisted address reads as. -/
def Memory.wf (m : List Host.Cell) : Bool := SMap.wf m

/-- The four memories of the machine are in canonical form (R22, R84, R145, R151). -/
def Dev.memWf (d : Dev) : Bool := Memory.wf d.gmem && Memory.wf d.spad && Memory.wf d.lanes && Memory.wf d.dspad

/-- An outcome that is a next state with every memory in canonical form: what a safe step answers. -/
def Out.safe (o : Out) : Prop := ∃ t, o = .next t ∧ t.dev.memWf = true

/-- The state with another device and nothing else changed. -/
def State.onDev (s : State) (d : Dev) : State := { s with dev := d }

/-! ## A bundle of one syllable (R54, R166) -/

/-- The device as the next bundle of the issuing context reads it: the results due at the boundary are delivered (R166). -/
def State.ready (s : State) : Dev := deliverDue s.dev s.cur

/-- The issuing context as its next bundle reads it. -/
def State.me (s : State) : Ctx := s.ready.ctx s.cur

/-- What a syllable that is a bundle of its own sees: the bundle stands at the pc and is eight bytes long. -/
def State.env (s : State) (i : Instr) : Env :=
  { pre := s.dev, d0 := s.ready, c := s.cur, addr := s.me.pc, sylAddr := s.me.pc, word := encode true i
    next := s.me.pc + 8#64 }

/-- The bundle of one syllable as it opens at the pc. -/
def State.opening (s : State) : Bundle :=
  { pre := s.dev, saved := s.ready, addr := s.me.pc, size := 8, words := [], hit := none, stop := none, target := none }

/-- The next bundle of the issuing context is `i` alone and nothing but `i` itself can hold it back: no bundle is open, the
context is resident, no result due is missing or faulted (R166, R167), at most 32 entries are outstanding (R365), a
secondary shares no slot with the primary's bundle of this cycle (R333), and the feature of `i` is present (R19). -/
structure Issues (i : Instr) (s : State) : Prop where
  closed : s.bundle = none
  resident : (s.dev.ctx s.cur).cond = .resident
  arrived : (s.dev.ctx s.cur).dueWaits = false
  sound : (s.dev.ctx s.cur).dueFault = none
  room : s.me.outstanding ≤ 32
  alone : slotClash s.dev s.cur [encode true i] = false
  present : absentFeature s.ready (encode true i) = false

/-- The state after the bundle `i` has issued: the device `d`, but for the issuing context, which is `k` after the issue, and
for the note that the core takes of the issue (R333, R336). Nothing else differs from `d`. -/
def State.issue (s : State) (i : Instr) (d : Dev) (k : Ctx) (target : Option Word) : State :=
  { s with
    dev := (noteIssue d s.cur [encode true i]).setCtx s.cur (k.afterIssue s.me.hs s.me.pc (s.me.pc + 8#64) target)
    bundle := none }

/-- The context with one more result in flight. -/
def Ctx.withEntry (k : Ctx) (e : Entry) : Ctx := { k with infl := k.infl ++ [e] }

/-- The bundle is suppressed and its trap is taken at the boundary before it, where nothing due has been written (R54,
R358). -/
def State.trapped (s : State) (r : TrapRec) : State := { s with dev := takeTrap s.dev s.cur r, bundle := none }

end Sys2Proof.Machine
end

