-- ==== Sys2Proof/Certificates/Slice0/Obligations.lean ====
section
/-! DEFINITION. The statements for the provers, and the tables they are stated with. -/

open Sys2Proof Sys2Proof.Machine

namespace Sys2Proof.Claims

/-! ## Encoding -/

/-- Words written out field by field from R47 and R56 and the encoding of each entry, with the instruction each stands for. -/
def sampleWords : List (Word × Instr) :=
  [(0x8200082000000200#64, .addi ⟨⟨false, 0⟩, 4, 4, 64⟩),
   (0x84000A32FFFFFFC0#64, .br .lt ⟨false, 0⟩ 5 6 0xFFFFFFC0#32),
   (0x81701228C0080000#64, .setp .lt ⟨false, 0⟩ 9 5 6),
   (0x1301850104018000#64, .vfadd ⟨⟨false, 3⟩, .va, false, .v 5, .v 1, .v 2, .f32, .rne, false⟩),
   (0x2030068308010000#64, .vmul ⟨⟨false, 0⟩, .vb, true, .v 6, .v 3, .v 4, .i32, false⟩),
   (0xC020091000401420#64, .vld ⟨false, 0⟩ (.v 9) ⟨4, 0x100, .cluster⟩ .g32 8),
   (0xD0700A30E4500000#64, .amo ⟨⟨false, 0⟩, .cas, 5, 6, 7, 8⟩ .dom),
   (0xE0400000E1028000#64, .rrel ⟨false, 0⟩ true 7 1 2),
   (0xB070001841408000#64, .tmma ⟨false, 0⟩ false false 3 4 10 1),
   (0xB080001848A00004#64, .tst ⟨false, 0⟩ 4 5 3 4),
   (0xF010000000000001#64, .fence ⟨false, 0⟩ (some .dom) none false),
   (0xF0C0004800C40000#64, .wrs ⟨false, 0⟩ 9 0x062)]

/-- The opcode map of R65, the ranges of each slot, with the SYN opcode 0xFF, which a word that is not the pad may not use
(R51, R67). -/
def opcodeMap : List (Nat × List (Nat × Nat)) :=
  let vector := [(0x01, 0x08), (0x10, 0x17), (0x20, 0x26), (0x28, 0x2D), (0x30, 0x38), (0x40, 0x44), (0x50, 0x52), (0x60, 0x62),
    (0x70, 0x74), (0x78, 0x78)]
  [(0, [(0x00, 0x17), (0x20, 0x2A), (0x40, 0x46)]), (1, vector), (2, vector), (3, [(0x01, 0x0C)]), (4, [(0x01, 0x06)]),
   (5, [(0x01, 0x08)]), (6, [(0x01, 0x0E), (0x10, 0x12)]), (7, [(0x01, 0x10), (0xFF, 0xFF)])]

/-- An opcode that a slot assigns. -/
def inMap (slot opc : Nat) : Bool :=
  opcodeMap.any fun e => e.1 == slot && e.2.any fun r => decide (r.1 ≤ opc) && decide (opc ≤ r.2)

end Sys2Proof.Claims

open Sys2Proof.Claims

/-- R47, R56, R65 and the encodings of the entries: every instruction that an encoding admits, with every operand at every value
the encoding admits and either value of BS, is read back by the decoder from the word the encoder gives it. -/
def Obligations.DecodeEncodeRoundTrip : Prop := ∀ bs i, i.wf = true → decode (encode bs i) = .ok i

/-- Twelve words written out field by field from R47, R56 and the entries decode to the instructions they stand for. -/
def Obligations.SampleWordsDecode : Prop := ∀ p ∈ sampleWords, decode p.1 = .ok p.2

/-- R67: a word that the decoder takes is the one encoding of what it reads, which is well formed: no word with a nonzero zero field,
a nonzero unused field, or a reserved code is taken. R65, R67 (with R51): a word other than the pad whose opcode its slot does not
assign is ILLEGAL_OPCODE, and every word whose opcode is assigned is an instruction or ILLEGAL_OPERAND; the pad is none of these. -/
def Obligations.DecodeAcceptsOnlyEncodings : Prop :=
  (∀ w i, decode w = .ok i → i.wf = true ∧ encode (w.getLsbD 63) i = w) ∧
  (∀ w : Word, decode w =
    if w = BitVec.allOnes 64 then .error .pad
    else if inMap (bits w 60 3) (bits w 52 8) = false then .error .illegalOpcode
    else match decode w with
      | .ok i => .ok i
      | .error _ => .error .illegalOperand)

namespace Sys2Proof.Claims

/-! ## What statements share -/

/-- The selection of a guard, as the bundle reads it (R30). -/
def selection (k : Ctx) (g : Guard) : Pred := if g.neg then ~~~(k.rdP g.p) else k.rdP g.p

/-- Bit 0 of the guard's selection (R30). -/
def guardOn (k : Ctx) (g : Guard) : Bool := (selection k g).getLsbD 0

/-- The entry of a result with its value: due after `lat` counts, bound for `dest` (R166). -/
def result (s : State) (i : Instr) (lat : Nat) (dest : Dest) (v : Vec) : Entry :=
  { (default : Entry) with
    dest := dest, val := v, ready := true, rem := lat, slot := bits (encode true i) 60 3, opc := bits (encode true i) 52 8
    pc := s.me.pc }

/-- The state when the next bundle of the issuing context does not issue: nothing is done, and whether that is an engine wait is
noted (R167, R334). -/
def held (s : State) (engine : Bool) : State :=
  s.onDev (s.dev.setCtx s.cur { s.dev.ctx s.cur with waiting := engine, dueStall := 0 })

/-- The state when it does not issue because a result due is late (R167). -/
def heldDue (s : State) : State := s.onDev (s.dev.setCtx s.cur { s.dev.ctx s.cur with waiting := false })

/-- A trap of a syllable alone in its bundle, with what R69 and R363 put in UTINFO0 and UTINFO1 where no rule says
otherwise: its address and its 64 bits. -/
def trapOf (s : State) (i : Instr) (cause : Nat) : TrapRec :=
  { (default : TrapRec) with
    cause := cause, utpc := s.me.pc, info0 := s.me.pc, info1 := encode true i, slot := bits (encode true i) 60 3
    opc := bits (encode true i) 52 8 }

end Sys2Proof.Claims

open Sys2Proof.Claims

namespace Sys2Proof.Claims

/-! ## Steps, boundaries and delivery (R54, R165 to R171, R358) -/

/-- The instructions of a bundle one after another, and the bundle's issue. -/
def runAll : List Instr → State → Out
  | [], s => exec .bundleIssue s
  | i :: r, s =>
    match exec i s with
    | .next t => runAll r t
    | o => o

/-- The value that delivering `es` in order leaves in a place: that of the last entry bound for it. -/
def landing (es : List Entry) (here : Dest → Bool) : Option Vec :=
  ((es.filter fun e => here e.dest).getLast?).map Entry.val

/-- A latch pair after the results of `vs` have entered it in order (R171). -/
def shifted (l : Latch) (vs : List Vec) : Latch :=
  match vs.reverse with
  | [] => l
  | [v] => { cur := some v, prev := l.cur }
  | v :: w :: _ => { cur := some v, prev := some w }

/-- The results that a list of entries sends through a latch pair. -/
def latched (es : List Entry) (p : Pair) : List Vec := (es.filter fun e => e.latch = some p).map Entry.val

/-- A step that does not end the run. -/
def goesOn (o : Out) : Prop := ∃ t, o = .next t

end Sys2Proof.Claims

/-- What a step does. With an open bundle it issues that bundle. Otherwise it takes the next thing of the agenda: a step of the
machine is exec of it. The turn of a context that may issue, that no diversion and no result due holds, and whose fetch gives one
word that decodes to `i`, is exec of `i` with the pc at that word; when the fetch gives several words, each of which decodes, and
the bundle opens, it is exec of each in order and then the bundle's issue. With an empty agenda a cycle passes. -/
def Obligations.StepRunsDecoded : Prop :=
  (∀ s b, s.bundle = some b → step s = exec .bundleIssue s) ∧
  (∀ s i r, s.bundle = none → s.agenda = .ev i :: r → step s = exec i { s with agenda := r }) ∧
  (∀ s c r d addr w i, s.bundle = none → s.agenda = .run c :: r → mayIssue s.dev c = true →
    nextDivert (reportDemands s.dev c) c = .none → ((reportDemands s.dev c).ctx c).dueWaits = false →
    fetchBundle (reportDemands s.dev c) c = .bundle d addr [w] → decode w = .ok i →
    step s = exec i { s with dev := d.updCtx c fun k => { k with pc := addr }, cur := c, agenda := r }) ∧
  (∀ s c r d addr ws is t, s.bundle = none → s.agenda = .run c :: r → mayIssue s.dev c = true →
    nextDivert (reportDemands s.dev c) c = .none → ((reportDemands s.dev c).ctx c).dueWaits = false →
    fetchBundle (reportDemands s.dev c) c = .bundle d addr ws → 2 ≤ ws.length → ws.map decode = is.map .ok →
    openBundle { s with dev := d.updCtx c fun k => { k with pc := addr }, cur := c, agenda := r } (8 * ws.length) = t →
    t.bundle.isSome = true → step s = runAll is t) ∧
  (∀ s, s.bundle = none → s.agenda = [] →
    ∃ t, step s = .next t ∧ t.dev.cycle = s.dev.cycle + 1 ∧ t.dev.ctxs = s.dev.ctxs ∧ t.dev.gmem = s.dev.gmem)

/-- Every step of the machine, from every state, goes on: nothing in it faults or is refused. The turn of a context never leaves a
bundle open: it issues as a whole or not at all (R54). -/
def Obligations.StepsGoOnAndTurnsEnd : Prop :=
  ((∀ s, goesOn (step s)) ∧ ∀ i s, goesOn (exec i s)) ∧
  (∀ s c r t, s.bundle = none → s.agenda = .run c :: r → step s = .next t → t.bundle = none)

/-- R166, R171, R188 and the third case of R159: delivery at a boundary. Each scalar, predicate and vector register holds the value of the last entry due
there that is bound for it, and otherwise what it held; each latch pair has taken in the results due that name it, in order; the
flags of the entries due are ORed into FPSTAT; the faults of stores that were found late are asynchronous traps now; exactly the entries that are not due stay in flight; no other context changes, and
nothing of the device but contexts and vector registers. -/
def Obligations.DeliveryWritesWhatIsDue : Prop :=
  ∀ d c, let es := (d.ctx c).infl.filter fun e => e.rem = 0
    let k := d.ctx c
    let k' := (deliverDue d c).ctx c
    (∀ r, k'.sreg.get r = ((landing es (· == .scalar r)).map fun v => v.extractLsb' 0 64).getD (k.sreg.get r)) ∧
    (∀ r, k'.preg.get r = ((landing es (· == .pred r)).map fun v => v.extractLsb' 0 256).getD (k.preg.get r)) ∧
    (∀ x, (deliverDue d c).vpool.get x =
      (landing es fun t => match t with | .vec r => vkey c r == x | _ => false).getD (d.vpool.get x)) ∧
    k'.asyncs = k.asyncs ++ es.filterMap (fun e => e.fault.filter fun r => r.imp) ∧
    k'.la = shifted k.la (latched es .va) ∧ k'.lb = shifted k.lb (latched es .vb) ∧ k'.ll = shifted k.ll (latched es .lds) ∧
    (∀ n, k'.spr' n = if n = 0x021 then es.foldl (fun x e => x ||| BitVec.ofNat 64 e.flags.toNat) (k.spr' n) else k.spr' n) ∧
    k'.infl = k.infl.filter (fun e => e.rem ≠ 0) ∧
    (∀ x, x ≠ c → (deliverDue d c).ctx x = d.ctx x) ∧
    deliverDue d c = { d with ctxs := (deliverDue d c).ctxs, vpool := (deliverDue d c).vpool }

/-- R166: the boundary before the next bundle of the issuing context, as a step of its own: with nothing missing and no fault among
the results due, the bundle that the fetch gives is open, with every result due delivered. R167, R358 (with R361), R400: before a
bundle of one syllable. While a result due there has neither value nor fault, the bundle does not issue, and only the kind of its
wait is noted, but for the trap of a check that waits for nothing, which is taken where no result due is known to carry a fault;
for `vadd` between registers that is ALLOT_RANGE, exactly where one of them lies outside the allotment. When all are known and one
of them carries a fault, the first such entry's trap is taken at the boundary, UTPC the bundle there, and the entry is consumed.
All but the clause of `vadd` hold for every instruction of the opcode map. R54 (with R49): the issue of an open bundle. With no
failed check, nothing that holds it back, no slot shared with a primary's bundle of this cycle, and at most 32 entries
outstanding, it issues: the context goes on at the target or after the bundle. A failed check suppresses all of it: the trap is
taken on the device as the boundary found it, so no effect of any syllable of the bundle is left. -/
def Obligations.BundlesOpenAndIssue : Prop :=
  (∀ s d addr ws, s.bundle = none → (s.dev.ctx s.cur).cond = .resident → fetchBundle s.dev s.cur = .bundle d addr ws →
    (d.ctx s.cur).dueWaits = false → (d.ctx s.cur).dueFault = none →
    let d1 := d.updCtx s.cur fun k => { k with pc := addr }
    let b : Bundle := ⟨d1, deliverDue d1 s.cur, addr, 8 * ws.length, [], none, none, none⟩
    exec (.resultDelivery s.cur) s = .next { s with dev := deliverDue d1 s.cur, bundle := some b }) ∧
  ((∀ i s, i.wf = true → s.bundle = none →
    ((s.dev.ctx s.cur).dueWaits = true → (s.dev.ctx s.cur).dueFault ≠ none → exec i s = .next s) ∧
    ((s.dev.ctx s.cur).dueWaits = true → (s.dev.ctx s.cur).dueFault = none → slotClash s.dev s.cur [encode true i] = true →
      exec i s = .next (held s false)) ∧
    ((s.dev.ctx s.cur).dueWaits = true → (s.dev.ctx s.cur).dueFault = none → slotClash s.dev s.cur [encode true i] = false →
      exec i s = .next (heldDue s) ∨ ∃ r, exec i s = .next (s.onDev (takeTrap s.dev s.cur r))) ∧
    (∀ e r, (s.dev.ctx s.cur).dueWaits = false → (s.dev.ctx s.cur).dueFault = some e → e.fault = some r →
      exec i s = .next
        (s.onDev (takeTrap (consumeFault s.dev s.cur e r) s.cur { r with utpc := (s.dev.ctx s.cur).pc })))) ∧
  (∀ (x : VAr) (d a b : BitVec 5) s, x.d = .v d → x.a = .v a → x.b = .v b → s.bundle = none →
    (s.dev.ctx s.cur).dueWaits = true → (s.dev.ctx s.cur).dueFault = none →
    slotClash s.dev s.cur [encode true (.vadd x)] = false →
    let n := (s.dev.ctx s.cur).allot.vSize
    exec (.vadd x) s = .next
      (if d.toNat < n ∧ a.toNat < n ∧ b.toNat < n then heldDue s else s.onDev (takeTrap s.dev s.cur (trapOf s (.vadd x) 0x06))))) ∧
  (∀ s b, s.bundle = some b → slotClash b.pre s.cur b.words = false →
    (b.hit = none → b.stop = none → (s.dev.ctx s.cur).cond = .resident → (s.dev.ctx s.cur).outstanding ≤ 32 →
      let k := (s.dev.ctx s.cur).afterIssue (b.pre.ctx s.cur).hs b.addr (b.addr + BitVec.ofNat 64 b.size) b.target
      exec .bundleIssue s = .next { s with bundle := none, dev := (noteIssue s.dev s.cur b.words).setCtx s.cur k }) ∧
    (∀ h, b.hit = some h → b.stop = none → exec .bundleIssue s = .next { s with bundle := none, dev := takeTrap b.pre s.cur h.rec_ }))

/-- R54 (with R206), of `vadd` between registers: within an open bundle that nothing has stopped, it reads its sources from the registers
as the boundary left them, whatever the syllables before it have done to the device since, and writes nothing but its entry. -/
def Obligations.SourcesAreReadBeforeResults : Prop :=
  ∀ (x : VAr) (d a b : BitVec 5) (s : State) (u : Bundle), x.d = .v d → x.a = .v a → x.b = .v b →
    s.bundle = some u → u.words ≠ [] → u.hit = none → u.stop = none →
    (∀ w, u.words.getLast? = some w → bits w 60 3 < bits (encode false (.vadd x)) 60 3) →
    d.toNat < (u.saved.ctx s.cur).allot.vSize → a.toNat < (u.saved.ctx s.cur).allot.vSize →
    b.toNat < (u.saved.ctx s.cur).allot.vSize →
    ∃ e : Entry,
      exec (.vadd x) s = .next { s with
        dev := addEntry s.dev s.cur e, bundle := some { u with words := u.words ++ [encode false (.vadd x)] } } ∧
      e.rem = 2 ∧ e.fault = none ∧
      ∀ n, n < 2048 / x.et.width → elem e.val x.et.width n =
        if selE (selection (u.saved.ctx s.cur) x.g) x.et.width n then
          fit x.et x.sat (intOf x.et (elem (u.saved.rdV s.cur a.toNat) x.et.width n) +
            intOf x.et (elem (u.saved.rdV s.cur b.toNat) x.et.width n))
        else elem (u.saved.rdV s.cur d.toNat) x.et.width n

namespace Sys2Proof.Claims

/-! ## Scalar results (R172 to R177) -/

/-- The condition codes of R61, on the numbers that the words stand for. -/
def condTrue (c : Cond) (a b : Word) : Bool :=
  match c with
  | .eq => decide (a.toNat = b.toNat)
  | .ne => decide (a.toNat ≠ b.toNat)
  | .lt => decide (a.toInt < b.toInt)
  | .ge => decide (b.toInt ≤ a.toInt)
  | .ltu => decide (a.toNat < b.toNat)
  | .geu => decide (b.toNat ≤ a.toNat)

/-- An instruction whose effect is one scalar result: its guard, the latency and the destination; the value, from the
registers read at issue; and when the value exists. -/
structure ScalarForm where
  g : Guard
  lat : Nat
  sd : BitVec 6
  value : Ctx → Word
  defined : Ctx → Prop

def form (g : Guard) (lat : Nat) (sd : BitVec 6) (value : Ctx → Word) : Option ScalarForm :=
  some ⟨g, lat, sd, value, fun _ => True⟩

def of3 (x : ScR3) (lat : Nat) (f : Word → Word → Word) : Option ScalarForm :=
  form x.g lat x.sd fun k => f (k.rdS x.sa) (k.rdS x.sb)

def ofI (x : ScI) (lat : Nat) (f : Word → Word → Word) : Option ScalarForm :=
  form x.g lat x.sd fun k => f (k.rdS x.sa) (x.imm.signExtend 64)

def ofSh (x : ScSh) (f : Word → Nat → Word) : Option ScalarForm :=
  form x.g 1 x.sd fun k => f (k.rdS x.sa) x.n.toNat

def of2 (x : ScR2) (f : Word → Nat) : Option ScalarForm :=
  form x.g 1 x.sd fun k => BitVec.ofNat 64 (f (k.rdS x.sa))

/-- A product's bits [127:64], the operands signed or unsigned (R173). -/
def highProduct (m : MulhMode) (a b : Word) : Word :=
  match m with
  | .ss => BitVec.ofInt 64 ((a.toInt * b.toInt) / 2 ^ 64)
  | .uu => BitVec.ofNat 64 ((a.toNat * b.toNat) / 2 ^ 64)
  | .su => BitVec.ofInt 64 ((a.toInt * (b.toNat : Int)) / 2 ^ 64)

/-- The field of R175. -/
def fieldOf (sg : Bool) (a : Word) (pos len : Nat) : Word :=
  if sg then ((a >>> pos).setWidth (min len 64)).signExtend 64 else ((a >>> pos).setWidth (min len 64)).setWidth 64

/-- The tables of R173 and R177. -/
def scalarForm : Instr → Option ScalarForm
  | .add x => of3 x 1 fun a b => BitVec.ofNat 64 (a.toNat + b.toNat)
  | .sub x => of3 x 1 fun a b => BitVec.ofInt 64 ((a.toNat : Int) - b.toNat)
  | .and x => of3 x 1 fun a b => a &&& b
  | .or x => of3 x 1 fun a b => a ||| b
  | .xor x => of3 x 1 fun a b => a ^^^ b
  | .andn x => of3 x 1 fun a b => a &&& ~~~b
  | .shl x => of3 x 1 fun a b => BitVec.ofNat 64 (a.toNat * 2 ^ (b.toNat % 64))
  | .shr x => of3 x 1 fun a b => BitVec.ofNat 64 (a.toNat / 2 ^ (b.toNat % 64))
  | .sar x => of3 x 1 fun a b => BitVec.ofInt 64 (a.toInt / 2 ^ (b.toNat % 64))
  | .rol x => of3 x 1 fun a b => (a <<< (b.toNat % 64)) ||| (a >>> (64 - b.toNat % 64))
  | .mul x => of3 x 3 fun a b => BitVec.ofNat 64 (a.toNat * b.toNat)
  | .mulh m x => of3 x 3 (highProduct m)
  | .set c x => of3 x 1 fun a b => if condTrue c a b then 1#64 else 0#64
  | .min x => form x.g 1 x.sd fun k =>
      if x.u then BitVec.ofNat 64 (min (k.rdS x.sa).toNat (k.rdS x.sb).toNat)
      else BitVec.ofInt 64 (min (k.rdS x.sa).toInt (k.rdS x.sb).toInt)
  | .max x => form x.g 1 x.sd fun k =>
      if x.u then BitVec.ofNat 64 (max (k.rdS x.sa).toNat (k.rdS x.sb).toNat)
      else BitVec.ofInt 64 (max (k.rdS x.sa).toInt (k.rdS x.sb).toInt)
  | .div x => some ⟨x.g, 24, x.sd, fun k =>
      if x.u then BitVec.ofNat 64 ((k.rdS x.sa).toNat / (k.rdS x.sb).toNat)
      else BitVec.ofInt 64 ((k.rdS x.sa).toInt.tdiv (k.rdS x.sb).toInt), fun k => k.rdS x.sb ≠ 0⟩
  | .rem x => some ⟨x.g, 24, x.sd, fun k =>
      if x.u then BitVec.ofNat 64 ((k.rdS x.sa).toNat % (k.rdS x.sb).toNat)
      else BitVec.ofInt 64 ((k.rdS x.sa).toInt.tmod (k.rdS x.sb).toInt), fun k => k.rdS x.sb ≠ 0⟩
  | .clz x => of2 x fun a => ((List.range 64).takeWhile fun i => !a.getLsbD (63 - i)).length
  | .ctz x => of2 x fun a => ((List.range 64).takeWhile fun i => !a.getLsbD i).length
  | .popc x => of2 x fun a => (List.range 64).countP fun i => a.getLsbD i
  | .ext sg x sc => form x.g 1 x.sd fun k =>
      fieldOf sg (k.rdS x.sa) ((k.rdS x.sb).toNat % 64) ((k.rdS sc).toNat % 128)
  | .csel x sc => form x.g 1 x.sd fun k =>
      if k.rdS sc ≠ 0 then k.rdS x.sa else k.rdS x.sb
  | .addi x => ofI x 1 fun a b => a + b
  | .andi x => ofI x 1 fun a b => a &&& b
  | .ori x => ofI x 1 fun a b => a ||| b
  | .xori x => ofI x 1 fun a b => a ^^^ b
  | .muli x => ofI x 3 fun a b => BitVec.ofNat 64 (a.toNat * b.toNat)
  | .seti c x => ofI x 1 fun a b => if condTrue c a b then 1#64 else 0#64
  | .shli x => ofSh x fun a n => BitVec.ofNat 64 (a.toNat * 2 ^ n)
  | .shri x => ofSh x fun a n => BitVec.ofNat 64 (a.toNat / 2 ^ n)
  | .sari x => ofSh x fun a n => BitVec.ofInt 64 (a.toInt / 2 ^ n)
  | .movi g sd imm => form g 1 sd fun _ => imm.signExtend 64
  | .movhi x => form x.g 1 x.sd fun k =>
      BitVec.ofNat 64 (x.imm.toNat * 2 ^ 32 + (k.rdS x.sa).toNat % 2 ^ 32)
  | _ => none

/-- A scalar result: none is written where the field names s0 (R24). -/
def scalarResult (s : State) (i : Instr) (f : ScalarForm) : Entry :=
  result s i f.lat (if f.sd = 0 then .none else .scalar (s.me.sphys f.sd.toNat)) ((f.value s.me).setWidth 2048)

end Sys2Proof.Claims

/-- R172, R173, R177 (with R24, R30, R166): an SR or SI instruction alone in its bundle issues; its one effect is the result of its
entry, in flight to sd for the entry's latency, when bit 0 of the selection is set, and nothing otherwise. R173, R176 (with R29,
R30): `setp` alone in its bundle issues with all 256 bits of the condition in flight to pd, for one count, or with nothing where
its guard is off; where pd is p0 the result is discarded. `nop` issues and has no effect of its own. -/
def Obligations.ScalarResults : Prop :=
  (∀ i f s, scalarForm i = some f → Issues i s → (guardOn s.me f.g = true → f.defined s.me) →
    exec i s = .next (s.issue i s.ready (if guardOn s.me f.g then s.me.withEntry (scalarResult s i f) else s.me) none)) ∧
  ((∀ c g pd sa sb s, Issues (.setp c g pd sa sb) s →
    exec (.setp c g pd sa sb) s = .next (s.issue (.setp c g pd sa sb) s.ready
      (if guardOn s.me g then
        s.me.withEntry (result s (.setp c g pd sa sb) 1 (if pd = 0 then .none else .pred (s.me.pphys pd))
          ((if condTrue c (s.me.rdS sa) (s.me.rdS sb) then BitVec.allOnes 256 else 0#256).setWidth 2048))
       else s.me) none)) ∧
  ∀ g s, Issues (.nop g) s → exec (.nop g) s = .next (s.issue (.nop g) s.ready s.me none))

/-- R174: `div` and `rem`, with their unsigned forms, each alone in its bundle. Where the guard selects them and the divisor is not zero
each gives one result for sd: the quotient rounds toward zero, the remainder takes the sign of the dividend, and sa = quotient × sb +
remainder; for −2^63 by −1 the quotient is −2^63 and the remainder 0. A divisor of zero, where the guard selects the syllable, traps
INT_DIVZERO whatever sd names, suppressing the bundle, with the dividend in UTINFO0 and the tag 0x00F of `div` or 0x010 of `rem` in
UTINFO1. Where the guard does not select it there is no trap and no effect. -/
def Obligations.DivisionRoundsTowardZero : Prop :=
  ∀ x s, Issues (.div x) s → Issues (.rem x) s →
    let a := s.me.rdS x.sa
    let b := s.me.rdS x.sb
    let number (v : Word) : Int := if x.u then (v.toNat : Int) else v.toInt
    let gives (i : Instr) (v : Word) : Out := .next (s.issue i s.ready
      (s.me.withEntry (result s i 24 (if x.sd = 0 then .none else .scalar (s.me.sphys x.sd.toNat)) (v.setWidth 2048))) none)
    (guardOn s.me x.g = true → b ≠ 0 → ∃ q r, exec (.div x) s = gives (.div x) q ∧ exec (.rem x) s = gives (.rem x) r ∧
      a = q * b + r ∧ ((number a < 0 → number r ≤ 0) ∧ (0 ≤ number a → 0 ≤ number r)) ∧ (number r).natAbs < (number b).natAbs ∧
      (¬ (x.u = false ∧ a.toInt = -2 ^ 63 ∧ b.toInt = -1) → number q = (number a).tdiv (number b)) ∧
      (x.u = false ∧ a.toInt = -2 ^ 63 ∧ b.toInt = -1 → q.toInt = -2 ^ 63 ∧ r = 0)) ∧
    (guardOn s.me x.g = true → b = 0 → ∀ i tag, (i = .div x ∧ tag = 0x00F) ∨ (i = .rem x ∧ tag = 0x010) →
      exec i s = .next (s.trapped { (default : TrapRec) with
        cause := 0x0E, utpc := s.me.pc, info0 := a, info1 := BitVec.ofNat 64 tag, slot := 0, opc := tag })) ∧
    (guardOn s.me x.g = false → exec (.div x) s = .next (s.issue (.div x) s.ready s.me none) ∧
      exec (.rem x) s = .next (s.issue (.rem x) s.ready s.me none))

namespace Sys2Proof.Claims

/-! ## Control transfers (R178 to R180) -/

/-- A transfer: its guard, whether its condition holds, its target, and whether it writes the return address to s1. -/
structure TransferForm where
  g : Guard
  taken : Ctx → Bool
  target : Ctx → Word
  link : Bool

/-- The table of R179, for all but `loop`. -/
def transferForm : Instr → Option TransferForm
  | .br c g sa sb off => some ⟨g, fun k => condTrue c (k.rdS sa) (k.rdS sb), fun k => k.pc + off.signExtend 64, false⟩
  | .jmp g off => some ⟨g, fun _ => true, fun k => k.pc + off.signExtend 64, false⟩
  | .call g off => some ⟨g, fun _ => true, fun k => k.pc + off.signExtend 64, true⟩
  | .jr g sa off => some ⟨g, fun _ => true, fun k => k.rdS sa + off.signExtend 64, false⟩
  | .callr g sa off => some ⟨g, fun _ => true, fun k => k.rdS sa + off.signExtend 64, true⟩
  | .brp m g p off => some ⟨g, fun k => match m with
      | .any => (List.range 256).any fun n => (k.rdP p).getLsbD n
      | .all => (List.range 256).all fun n => (k.rdP p).getLsbD n
      | .none => (List.range 256).all fun n => !(k.rdP p).getLsbD n, fun k => k.pc + off.signExtend 64, false⟩
  | _ => none

/-- The transfers whose target a register gives. -/
def Instr.isRegisterTransfer : Instr → Bool
  | .jr _ _ _ | .callr _ _ _ => true
  | _ => false

/-- ROTOFS after Rotate() of R180. -/
def rotatedOnce (k : Ctx) : Word :=
  BitVec.ofNat 64 (((k.spr' 0x012).toNat % 16 + 15) % 16 + 256 * (((k.spr' 0x012).toNat / 256 % 8 + 7) % 8))

end Sys2Proof.Claims

/-- R178, R179 (with R53): a transfer alone in its bundle, whose target has bits [2:0] zero where a register gives it, issues. The
next bundle is at the target where the guard selects it and its condition holds, and after the bundle otherwise; `call` and
`callr` that the guard selects send the address after the bundle to s1, due at the next count; nothing else changes. R53: a
register target with nonzero bits [2:0] suppresses `jr` and `callr` with MISALIGNED, whatever the guard; UTINFO2 holds the target
(R363). -/
def Obligations.TransfersIssue : Prop :=
  (∀ i f s, transferForm i = some f → Issues i s → (Instr.isRegisterTransfer i = true → (f.target s.me).toNat % 8 = 0) →
    exec i s = .next (s.issue i s.ready
      (if guardOn s.me f.g && f.link then s.me.withEntry (result s i 1 (.scalar 1) ((s.me.pc + 8#64).setWidth 2048)) else s.me)
      (if guardOn s.me f.g && f.taken s.me then some (f.target s.me) else none))) ∧
  (∀ i f s, transferForm i = some f → Issues i s → Instr.isRegisterTransfer i = true → (f.target s.me).toNat % 8 ≠ 0 →
    exec i s = .next (s.trapped { trapOf s i 0x08 with info2 := f.target s.me }))

/-- R180: `loop` under a full allotment. With its guard off it has no effect. With PASSCNT above zero it counts a pass down,
rotates, sends all ones to p8 as mapped after the rotation, and is taken; with PASSCNT zero and DRAINCNT above zero it does the
same on DRAINCNT with all zeros; with both zero it falls through and changes neither. Under a smaller allotment it traps
ROTATE_ILLEGAL, whatever the guard. -/
def Obligations.LoopTurns : Prop :=
  ∀ g off s, Issues (.loop g off) s →
    let k := s.me
    let next (k' : Ctx) (t : Option Word) := Host.Outcome.next (ρ := Refusal) (φ := Fault) (s.issue (.loop g off) s.ready k' t)
    let stage (n : Nat) (v : Pred) :=
      ((k.setSpr n (k.spr' n - 1)).setSpr 0x012 (rotatedOnce k)).withEntry
        (result s (.loop g off) 1 (.pred (8 + ((k.spr' 0x012).toNat / 256 % 8 + 7) % 8)) (v.setWidth 2048))
    (k.allot.vSize = 32 → guardOn k g = false → exec (.loop g off) s = next k none) ∧
    (k.allot.vSize = 32 → guardOn k g = true → 0 < (k.spr' 0x010).toNat →
      exec (.loop g off) s = next (stage 0x010 (BitVec.allOnes 256)) (some (k.pc + off.signExtend 64))) ∧
    (k.allot.vSize = 32 → guardOn k g = true → (k.spr' 0x010).toNat = 0 → 0 < (k.spr' 0x011).toNat →
      exec (.loop g off) s = next (stage 0x011 0) (some (k.pc + off.signExtend 64))) ∧
    (k.allot.vSize = 32 → guardOn k g = true → (k.spr' 0x010).toNat = 0 → (k.spr' 0x011).toNat = 0 →
      exec (.loop g off) s = next k none) ∧
    (k.allot.vSize ≠ 32 → exec (.loop g off) s = .next (s.trapped (trapOf s (.loop g off) 0x18)))

namespace Sys2Proof.Claims

/-! ## Traps, handlers and special registers (R36, R37, R358 to R376, R402) -/

/-- UTSTAT at entry (R364): FROM, IMP, KEPT and NSNAP, the check fields zero. -/
def statWord (k : Ctx) (r : TrapRec) : Word :=
  BitVec.ofNat 64 (k.hs.code + (if r.imp then 2 ^ 2 else 0) + (if k.infl.any fun e => e.fault.isSome then 2 ^ 3 else 0) +
    (k.infl.length % 256) * 2 ^ 16)

/-- A special register after entry to the user handler (R363). -/
def trapRegister (k : Ctx) (r : TrapRec) (n : Nat) : Word :=
  match n with
  | 0x051 => BitVec.ofNat 64 r.cause
  | 0x052 => r.utpc
  | 0x053 => statWord k r
  | 0x054 => r.info0
  | 0x055 => r.info1
  | 0x056 => r.info2
  | 0x057 => r.info3
  | 0x058 => if r.cause = 0x10 then r.nodePc else k.spr' 0x058
  | 0x059 => if r.cause = 0x10 then r.nodeBclk else k.spr' 0x059
  | n => k.spr' n

/-- The frozen stream of a context: no entry in flight and no valid latch (R33, R366). -/
def frozen (k : Ctx) : Ctx :=
  { k with infl := [], la := ⟨none, none⟩, lb := ⟨none, none⟩, ll := ⟨none, none⟩, waiting := false, dueStall := 0, aliased := [] }

/-- A group goes back into flight, each entry with the count it was frozen with (R367): the bundle that returns counts once. -/
def rejoin (k : Ctx) (g : List Entry) : Ctx :=
  { k with infl := (g.map fun e => { e with rem := e.rem + 1 }), la := ⟨none, none⟩, lb := ⟨none, none⟩, ll := ⟨none, none⟩ }

/-- The context and the device after the entries of a handler stream have all been written (R402). -/
def settled (s : State) : Dev := deliverAll s.ready s.cur s.me.infl

/-- A special register as a bundle at the pc reads it (R37), where it is not held under its number. -/
def specialValue (s : State) (n : Nat) : Word :=
  let k := s.me
  match n with
  | 0x000 => k.bclk
  | 0x001 => k.pc
  | 0x002 => BitVec.ofNat 64 (s.cur % 2 ^ 19)
  | 0x003 => k.task.arg
  | 0x004 => BitVec.ofNat 64 k.task.job
  | 0x012 => if k.allot.vSize = 32 then k.spr' 0x012 else 0
  | 0x080 => BitVec.ofNat 64 (k.allot.vSize * 256 + k.allot.vBase)
  | 0x0A0 => (s.dev.pkg (s.cur / 2 ^ 11 % 64)).frame
  | 0x0A1 => (k.task.sheet.map fun f => BitVec.ofNat 64 f.1).getD (BitVec.allOnes 64)
  | 0x0B0 => s.dev.pageVa
  | 0x0E1 => 0x20000
  | n => k.spr' n

/-- The bits that a write changes, for the registers that are written field by field (R8, R37, R39, R73, R125, R127, R364). -/
def writable (n : Nat) (v : Word) : Word :=
  match n with
  | 0x020 => if v.toNat % 8 < 6 then 0x1F07#64 else 0x1F00#64
  | 0x021 => 0x3F#64
  | 0x040 => 0x0000FFFFFFE00000#64
  | 0x041 => 0x0001FFFFFFE00000#64
  | 0x042 => 0xFFFFFFFFFFE00000#64
  | 0x051 => 0xFF#64
  | 0x053 => 0xFFFFFFFFFF00FFF0#64
  | 0x05A => 0xBFF7BFE#64
  | 0x061 => 0x17F#64
  | 0x090 | 0x091 => 0x00FFFFFFFFFFFFFF#64
  | _ => BitVec.allOnes 64

/-- Registers that ignore a write (R9, R37). -/
def readOnly : List Nat := [0x000, 0x001, 0x002, 0x003, 0x004, 0x058, 0x059, 0x080, 0x0A0, 0x0A1, 0x0B0, 0x0E1]

/-- Privileged registers (R37). -/
def privileged : List Nat := [0x040, 0x041, 0x042, 0x090, 0x091, 0x0D0, 0x0E0]

/-- The context after a write of `v` to register `n` (R37, R126): a write to the generator's registers empties the
random queue, and one to a bucket's settings fills the bucket. -/
def written (k : Ctx) (n : Nat) (v : Word) : Ctx :=
  if readOnly.contains n then k
  else if n = 0x062 then k.setSpr n (k.spr' n &&& ~~~v)
  else if n = 0x012 then (if k.allot.vSize = 32 then k.setSpr n ((k.spr' n &&& ~~~0x70F#64) ||| (v &&& 0x70F#64)) else k)
  else
    let k' := k.setSpr n ((k.spr' n &&& ~~~(writable n v)) ||| (v &&& writable n v))
    if n = 0x030 ∨ n = 0x031 ∨ n = 0x032 then { k' with rq := [] }
    else if n = 0x090 then { k' with bktL2 := bucketFull (k'.spr' 0x090) }
    else if n = 0x091 then { k' with bktHbm := bucketFull (k'.spr' 0x091) }
    else k'

/-- The checks that a `wrs` passes (R36, R37, R53). -/
def wrsAllowed (k : Ctx) (n : Nat) (v : Word) : Prop :=
  (n ∈ privileged → k.privNow = true) ∧ (n ∈ [0x050, 0x052, 0x060, 0x063] → v.toNat % 8 = 0) ∧
  (n = 0x0E0 → v.toNat % 256 = 0 ∧ (k.spr' 0x040).toNat ≤ v.toNat ∧
    v.toNat + 0x20000 ≤ (k.spr' 0x040).toNat + (k.spr' 0x041).toNat)

end Sys2Proof.Claims

/-- R360, R363, R364, R366: a trap that goes to the user handler. The trap registers receive what R363 and R364 name and no other
special register changes; the stream's entries are the trap's group and none is in flight; the latches are invalid; HS becomes 2,
or 3 from the cue handler; execution goes on at UTVEC. Nothing else of the context and nothing else of the device changes. R376,
R378, R403 (with R360, R362): a trap whose cause is masked, or has no handler, or is raised in the trap handler, goes to firmware:
the stream freezes as the firmware's group, the context is suspended with the trap, and the record that R378 lays out joins those
that wait to be written, KIND 2 for a double trap; a secondary gives its role up (R401). No special register changes, HS stays,
and the pc stays. -/
def Obligations.TrapsAreRouted : Prop :=
  (∀ d c r, let k := d.ctx c
    (k.spr' 0x05A).getLsbD r.cause = true → k.spr' 0x050 ≠ 0 → (k.hs = .stream ∨ k.hs = .cue) →
    ∃ m, takeTrap d c r = d.setCtx c { frozen k with
        gTrap := k.infl, spr := m, hs := if k.hs = .cue then .trapInCue else .trap, pc := k.spr' 0x050
        xfer := some (0, k.spr' 0x050) } ∧
      ∀ n, m.get n = trapRegister k r n) ∧
  (∀ d c r, let k := d.ctx c
    (¬ ((k.spr' 0x05A).getLsbD r.cause = true ∧ k.spr' 0x050 ≠ 0 ∧ (k.hs = .stream ∨ k.hs = .cue))) →
    let record : FRec :=
      ⟨r.cause, if k.hs = .trap ∨ k.hs = .trapInCue then 2 else 0,
       r.access + (if k.priv && k.hs != .cue then 8 else 0) + r.slot * 16, r.opc, c % 2 ^ 19, k.task.job, r.va, r.utpc,
       k.bclk, r.info0, r.info1⟩
    let role (x : Core) : Core := if x.secondary = c / 2 ^ 17 % 4 + 1 then { x with secondary := 0 } else x
    takeTrap d c r = ({ d.updPkg (c / 2 ^ 11 % 64) fun p => { p with frecs := p.frecs ++ [record] } with
      cores := d.cores.update (c % 2 ^ 17) role }).setCtx c { frozen k with gSave := k.infl, susp := some r })

/-- R371: `trap` alone in its bundle issues; where the guard selects it, SOFTWARE is then pending with the code in UTINFO0 and sa in
UTINFO1. R128, R361: which diversion of a resident context that is not suspended comes first: the fault of a result due there;
then a SOFTWARE trap of the handler state; then the oldest asynchronous trap, held in the trap handler; then a cue, when EN is
set, a pending cue is enabled, and no handler runs. R128, R358, R361: the four diversions as steps. Each is taken at a boundary
where it is the first of R361 that could be: a result-time or SOFTWARE trap goes to the user handler or to firmware by R360, an
asynchronous trap is taken in the order found, and a cue is taken: CUEPC holds the pc, the entries are the cue's group, HS is 1,
and execution goes on at CUEVEC. UTPC is the bundle that would have issued. -/
def Obligations.DiversionsAreTakenInOrder : Prop :=
  (∀ g sa code s, let i := Instr.trap g sa code
    let r := { trapOf s i 0x19 with info0 := code.setWidth 64, info1 := s.me.rdS sa }
    Issues i s → exec i s = .next (s.issue i s.ready
      (if guardOn s.me g then { s.me with post := s.me.post.set s.me.hs.code (some r) } else s.me) none)) ∧
  (∀ d c, (d.ctx c).cond = .resident → (d.ctx c).susp = none →
    let k := d.ctx c
    (∀ e r, k.dueFault = some e → e.fault = some r → k.dueWaits = false → nextDivert d c = .result e r) ∧
    (∀ r, k.dueFault = none → k.post.get k.hs.code = some r → nextDivert d c = .post r) ∧
    (∀ r l, k.dueFault = none → k.post.get k.hs.code = none → k.asyncs = r :: l →
      nextDivert d c = if k.hs = .trap ∨ k.hs = .trapInCue then .none else .async r) ∧
    (k.dueFault = none → k.post.get k.hs.code = none → k.asyncs = [] →
      nextDivert d c =
        if (k.spr' 0x061).getLsbD 8 = true ∧ (k.spr' 0x062 &&& k.spr' 0x061 &&& 0x7F#64) ≠ 0 ∧ k.hs = .stream then .cue else .none)) ∧
  (∀ s c, s.bundle = none →
    let d := reportDemands s.dev c
    let k := d.ctx c
    (∀ r, nextDivert d c = .post r →
      exec (if k.userRoute r.cause then .userTrapEntry c else .firmwareTrapDelivery c) s = .next (s.onDev
        (takeTrap (d.setCtx c { k with post := k.post.set k.hs.code none }) c { r with utpc := k.pc }))) ∧
    (∀ e r, nextDivert d c = .result e r →
      exec (if k.userRoute r.cause then .userTrapEntry c else .firmwareTrapDelivery c) s = .next (s.onDev
        (takeTrap (consumeFault d c e r) c { r with utpc := k.pc }))) ∧
    (∀ r, nextDivert d c = .async r →
      exec (.asyncTrapDelivery c) s = .next (s.onDev
        (takeTrap (d.setCtx c { k with asyncs := k.asyncs.tail }) c { r with utpc := k.pc }))) ∧
    (nextDivert d c = .cue →
      let k1 := (frozen k).setSpr 0x063 k.pc
      exec (.cueTaken c) s = .next (s.onDev (d.setCtx c
        { k1 with gCue := k.infl, hs := .cue, pc := k.spr' 0x060, xfer := some (0, k.spr' 0x060) }))))

/-- R367, R370, R402: `tret` in the trap handler with zero check fields, and `cret` in the cue handler, once every entry of the
handler stream has its value and none a fault: they are written, HS goes back, the frozen group is in flight again with the counts
it was frozen with, the latches are invalid, and the next bundle is at UTPC or CUEPC. Where the guard does not select the
instruction it does nothing. R370, R402: a return outside its handler state traps TRET_OUTSIDE with its tag in UTINFO1; `tret`
with a nonzero check field traps BAD_FRAME; a return waits, and nothing is done, while an entry of the handler stream has neither
value nor fault; and once all are known the first fault among them is taken before the return. -/
def Obligations.ReturnsRestoreTheStream : Prop :=
  (∀ g s,
    (Issues (.tret g) s → guardOn s.me g = true → (s.me.hs = .trap ∨ s.me.hs = .trapInCue) →
      (s.me.spr' 0x053 &&& 0xFFFFFFFFFF00FFF0#64) = 0 → (∀ e ∈ s.me.infl, e.ready = true ∧ e.fault = none) →
      (s.me.gTrap.filter fun e => !e.ready && e.fault.isNone).length ≤ 32 →
      exec (.tret g) s = .next (s.issue (.tret g) (settled s)
        (rejoin { (settled s).ctx s.cur with hs := if s.me.hs = .trapInCue then .cue else .stream, gTrap := [] } s.me.gTrap)
        (some (s.me.spr' 0x052)))) ∧
    (Issues (.cret g) s → guardOn s.me g = true → s.me.hs = .cue → (∀ e ∈ s.me.infl, e.ready = true ∧ e.fault = none) →
      (s.me.gCue.filter fun e => !e.ready && e.fault.isNone).length ≤ 32 →
      exec (.cret g) s = .next (s.issue (.cret g) (settled s)
        (rejoin { (settled s).ctx s.cur with hs := .stream, gCue := [] } s.me.gCue) (some (s.me.spr' 0x063)))) ∧
    (∀ i, i = .tret g ∨ i = .cret g → Issues i s → guardOn s.me g = false → exec i s = .next (s.issue i s.ready s.me none))) ∧
  (∀ g s,
    (Issues (.tret g) s → guardOn s.me g = true → s.me.hs ≠ .trap → s.me.hs ≠ .trapInCue →
      exec (.tret g) s = .next (s.trapped { trapOf s (.tret g) 0x16 with info0 := 0, info1 := 0xE09 })) ∧
    (Issues (.cret g) s → guardOn s.me g = true → s.me.hs ≠ .cue →
      exec (.cret g) s = .next (s.trapped { trapOf s (.cret g) 0x16 with info0 := 0, info1 := 0xE0A })) ∧
    (Issues (.tret g) s → guardOn s.me g = true → (s.me.hs = .trap ∨ s.me.hs = .trapInCue) →
      (s.me.spr' 0x053 &&& 0xFFFFFFFFFF00FFF0#64) ≠ 0 → exec (.tret g) s = .next (s.trapped (trapOf s (.tret g) 0x17))) ∧
    (∀ i, i = .tret g ∧ (s.me.hs = .trap ∨ s.me.hs = .trapInCue) ∧ (s.me.spr' 0x053 &&& 0xFFFFFFFFFF00FFF0#64) = 0 ∨
        i = .cret g ∧ s.me.hs = .cue →
      Issues i s → guardOn s.me g = true →
      ((∃ e ∈ s.me.infl, e.ready = false ∧ e.fault = none) → exec i s = .next (held s false)) ∧
      (∀ e r, (∀ x ∈ s.me.infl, x.ready = true ∨ x.fault ≠ none) → s.me.infl.find? (fun x => x.fault.isSome) = some e →
        e.fault = some r →
        exec i s = .next (s.onDev (takeTrap (consumeFault s.dev s.cur e r) s.cur { r with utpc := s.me.pc })))))

/-- R36, R37, R372: `rds` of an assigned register, alone in its bundle, at the privilege the register asks for: the value as the
bundle reads it is in flight to sd for two counts, where the guard selects the instruction. R36, R37, R372 (with R8, R9, R27, R39,
R126): `wrs` to an assigned register, alone in its bundle, of a value the register accepts: the register holds it from the next
count on, field by field, a read-only register ignores it, and nothing else changes but what R37 and R126 say of the generator and
the buckets. R36, R37, R53: a privileged register at user privilege traps PRIV, whatever the guard; a target register or SAVEPTR
given an address of the wrong alignment traps MISALIGNED with the value in UTINFO2; and SAVEPTR given an aligned address whose
save area does not lie inside the heap window traps ACCESS_VIOLATION. -/
def Obligations.SpecialRegistersReadAndWrite : Prop :=
  (∀ g sd (num : BitVec 12) s, let i := Instr.rds g sd num
    i.wf = true → Issues i s → (num.toNat ∈ privileged → s.me.privNow = true) →
    exec i s = .next (s.issue i s.ready
      (if guardOn s.me g then s.me.withEntry
        (result s i 2 (if sd = 0 then .none else .scalar (s.me.sphys sd.toNat)) ((specialValue s num.toNat).setWidth 2048))
       else s.me) none)) ∧
  (∀ g sa (num : BitVec 12) s, let i := Instr.wrs g sa num
    i.wf = true → Issues i s → wrsAllowed s.me num.toNat (s.me.rdS sa) →
    exec i s = .next (
      if guardOn s.me g = false then s.issue i s.ready s.me none
      else s.issue i s.ready (written s.me num.toNat (s.me.rdS sa)) none)) ∧
  (∀ g r (num : BitVec 12) s,
    (Issues (.rds g r num) s → num.toNat ∈ privileged → s.me.privNow = false →
      exec (.rds g r num) s = .next (s.trapped (trapOf s (.rds g r num) 0x07))) ∧
    (Issues (.wrs g r num) s → num.toNat ∈ privileged → s.me.privNow = false →
      exec (.wrs g r num) s = .next (s.trapped (trapOf s (.wrs g r num) 0x07))) ∧
    (Issues (.wrs g r num) s → num.toNat ∈ [0x050, 0x052, 0x060, 0x063] → (s.me.rdS r).toNat % 8 ≠ 0 →
      exec (.wrs g r num) s = .next (s.trapped { trapOf s (.wrs g r num) 0x08 with info2 := s.me.rdS r })) ∧
    (Issues (.wrs g r num) s → num.toNat = 0x0E0 → s.me.privNow = true → (s.me.rdS r).toNat % 256 ≠ 0 →
      exec (.wrs g r num) s = .next (s.trapped { trapOf s (.wrs g r num) 0x08 with info2 := s.me.rdS r })) ∧
    (Issues (.wrs g r num) s → num.toNat = 0x0E0 → s.me.privNow = true → (s.me.rdS r).toNat % 256 = 0 →
      ((s.me.rdS r).toNat < (s.me.spr' 0x040).toNat ∨
        (s.me.spr' 0x040).toNat + (s.me.spr' 0x041).toNat < (s.me.rdS r).toNat + 0x20000) →
      exec (.wrs g r num) s = .next (s.trapped (trapOf s (.wrs g r num) 0x0B))))

namespace Sys2Proof.Claims

/-! ## Rounding (R182, R186 to R188, R192) -/

/-- The floating-point formats that have a sign. -/
def signedFormats : List ET := [.f32, .f16, .bf16, .e5m2, .e4m3, .e2m1]

/-- The modes that a rounding uses once DYN has been resolved. -/
def modes : List RM := [.rne, .rtz, .rdn, .rup, .rna, .sr]

/-- A finite value in units of 2^u, for a u no greater than its exponent. -/
def inUnits (u : Int) : FVal → Int
  | .fin n m e => (if n then -1 else 1) * (m * 2 ^ (e - u).toNat : Nat)
  | _ => 0

/-- The bits of an element are those of a finite value of its format. -/
def finite (et : ET) (c : Nat) : Prop := c < 2 ^ et.width ∧ ∃ n m e, valueOf et c = .fin n m e

/-- The magnitude bits of a format's largest finite value, and what stands in an overflowing result for infinity (R182, R187). -/
def largest : ET → Nat
  | .f32 => 0x7F7FFFFF
  | .f16 => 0x7BFF
  | .bf16 => 0x7F7F
  | .e5m2 => 0x7B
  | .e4m3 => 0x7E
  | _ => 7
def beyond : ET → Nat
  | .f32 => 0x7F800000
  | .f16 => 0x7C00
  | .bf16 => 0x7F80
  | .e5m2 => 0x7C
  | .e4m3 => 0x7F
  | _ => 7

/-- The sign bit of a format. -/
def signOf (et : ET) (n : Bool) : Nat := if n then 2 ^ (et.width - 1) else 0

/-- The exponent of a format's smallest normal value (R182). -/
def lowestExp : ET → Int
  | .f32 | .bf16 => -126
  | .f16 | .e5m2 => -14
  | .e4m3 => -6
  | _ => 0

end Sys2Proof.Claims

/-- R182, R186 to R188, R192: what a rounding of a nonzero exact value x to a signed floating-point format selects, for every mode. Where
some finite element is at least as large as x in magnitude, the result is finite, has the sign of x, and no element lies between it and
x; RTZ does not go away from zero, RDN not up, RUP not down; under RNE and RNA no element is nearer, a tie goes to the even mantissa or
to the larger magnitude; under SR the larger of the two neighbours in magnitude is taken when the random word is below the fraction in
units of 2^-32. It raises inexact when it differs from x, underflow only beside inexact and below the smallest normal value, and nothing
else. Where x is at least twice every finite element, the result is the table's, with overflow and inexact. -/
def Obligations.RoundingSelectsNeighbour : Prop :=
  ∀ et rm sat r n m e, et ∈ signedFormats → rm ∈ modes → 0 < m →
    -- every finite element, and x, is a whole number of units of 2^u
    let u := min e (-149)
    let x := inUnits u (.fin n m e)
    let out := toFloat et rm sat r (.fin n m e)
    let value (c : Nat) : Int := inUnits u (valueOf et c)
    let size (v : Int) : Nat := v.natAbs
    let R := value out.1
    ((∃ c, finite et c ∧ size x ≤ size (value c)) →
      finite et out.1 ∧ nbit out.1 (et.width - 1) = n ∧
      (∀ c, finite et c → ¬ (x < value c ∧ value c < R) ∧ ¬ (R < value c ∧ value c < x)) ∧
      (rm = .rtz → size R ≤ size x) ∧ (rm = .rdn → R ≤ x) ∧ (rm = .rup → x ≤ R) ∧
      (rm = .rne ∨ rm = .rna → ∀ c, finite et c → size (R - x) ≤ size (value c - x)) ∧
      (∀ c, finite et c → value c ≠ R → size (R - x) = size (value c - x) →
        (rm = .rne → out.1 % 2 = 0) ∧ (rm = .rna → size (value c) ≤ size R)) ∧
      (rm = .sr → ∀ lo hi, finite et lo → finite et hi → size (value lo) < size x → size x < size (value hi) →
        (∀ c, finite et c → ¬ (size (value lo) < size (value c) ∧ size (value c) < size (value hi))) →
        let below := (size x - size (value lo)) * 2 ^ 32 / (size (value hi) - size (value lo))
        size R = if r < below then size (value hi) else size (value lo)) ∧
      (out.2.getLsbD 4 = true ↔ R ≠ x) ∧ out.2 &&& 0x27#6 = 0#6 ∧
      (out.2.getLsbD 3 = true → R ≠ x ∧ size x < 2 ^ (lowestExp et - u).toNat) ∧
      (R ≠ x → size x ≤ 2 ^ (lowestExp et - 1 - u).toNat → out.2.getLsbD 3 = true)) ∧
    ((∀ c, finite et c → 2 * size (value c) ≤ size x) → out.2 = 0x14#6 ∧
      out.1 =
        if sat = true ∨ rm = .rtz ∨ (rm = .rdn ∧ n = false) ∨ (rm = .rup ∧ n = true) ∨ et = .e2m1 then signOf et n + largest et
        else if et = .e4m3 then beyond et
        else signOf et n + beyond et)

namespace Sys2Proof.Claims

/-! ## Vector results (R30, R189, R191, R203 to R237) -/

/-- The value of an integer element (R206). -/
def intVal (et : ET) (x : Nat) : Int := if et.signed then (BitVec.ofNat et.width x).toInt else (x % 2 ^ et.width : Nat)

/-- An integer result, wrapped or clamped to the bounds of its type (R206). -/
def fitTo (et : ET) (sat : Bool) (t : Int) : Nat :=
  let lo : Int := if et.signed then -(2 ^ (et.width - 1) : Nat) else 0
  let hi : Int := if et.signed then (2 ^ (et.width - 1) : Nat) - 1 else (2 ^ et.width : Nat) - 1
  ((if sat then max lo (min hi t) else t) % (2 ^ et.width : Nat)).toNat

/-- The rounding mode: DYN takes that of FPCTL.DRM (R39, R64). -/
def modeOf (k : Ctx) (rm : RM) : RM :=
  if rm = .dyn then
    match (k.spr' 0x020).toNat % 8 with
    | 0 => .rne
    | 1 => .rtz
    | 2 => .rdn
    | 3 => .rup
    | 4 => .rna
    | 5 => .sr
    | 6 => .dyn
    | _ => .rne
  else rm

/-- A vector instruction with a vector result: its guard, slot, write-suppress bit and destination; its source fields in order; the
element width of the result; the latency; whether it pops a random word; which elements it can write; and element `n` of the
result with the flags it raises, from the registers read at issue, the random word and the source vectors. -/
structure VecForm where
  g : Guard
  sl : VSlot
  ws : Bool
  d : VOp
  srcs : List VOp
  w : Nat
  lat : Nat
  random : Ctx → Bool
  part : Nat → Bool
  value : State → Vec → List Vec → Nat → Nat × Flags

/-- A form with no flags and no random word, that writes every element. -/
def plainForm (g : Guard) (sl : VSlot) (ws : Bool) (d : VOp) (srcs : List VOp) (w lat : Nat)
    (value : Ctx → List Vec → Nat → Nat) : Option VecForm :=
  some ⟨g, sl, ws, d, srcs, w, lat, fun _ => false, fun _ => true, fun s _ vs n => (value s.me vs n, 0)⟩

def formAr (x : VAr) (f : Int → Int → Int) : Option VecForm :=
  plainForm x.g x.sl x.ws x.d [x.a, x.b] x.et.width 2 fun _ vs n =>
    fitTo x.et x.sat (f (intVal x.et (elem (src vs 0) x.et.width n)) (intVal x.et (elem (src vs 1) x.et.width n)))

def form2 (x : V2) (f : Nat → Nat → Nat) : Option VecForm :=
  plainForm x.g x.sl x.ws x.d [x.a, x.b] x.et.width 2 fun _ vs n =>
    f (elem (src vs 0) x.et.width n) (elem (src vs 1) x.et.width n)

/-- A shift of a `w`-bit element (R208, R209). -/
def shifts (w : Nat) (kind : ShiKind) (a n : Nat) : Nat :=
  match kind with
  | .shl => if n < w then a * 2 ^ n % 2 ^ w else 0
  | .shr => if n < w then a / 2 ^ n else 0
  | .sar => ((BitVec.ofNat w a).toInt / (2 ^ min n w : Nat) % (2 ^ w : Nat)).toNat
  | .rol => ((BitVec.ofNat w a) <<< n ||| (BitVec.ofNat w a) >>> (w - n)).toNat

/-- Integer arithmetic, logic and shifts (R206 to R209). -/
def integerForm : Instr → Option VecForm
  | .vadd x => formAr x fun a b => a + b
  | .vsub x => formAr x fun a b => a - b
  | .vmul x => formAr x fun a b => a * b
  | .vmac x => plainForm x.g x.sl x.ws x.d [x.a, x.b, x.c] x.et.width 2 fun _ vs n =>
      let v (j : Nat) : Int := intVal x.et (elem (src vs j) x.et.width n)
      fitTo x.et x.sat (v 0 * v 1 + v 2)
  | .vmulh x => form2 x fun a b => (intVal x.et a * intVal x.et b / (2 ^ x.et.width : Nat) % (2 ^ x.et.width : Nat)).toNat
  | .vabsd x => form2 x fun a b => (max (intVal x.et a) (intVal x.et b) - min (intVal x.et a) (intVal x.et b)).toNat
  | .vmin x => form2 x fun a b => if intVal x.et a ≤ intVal x.et b then a else b
  | .vmax x => form2 x fun a b => if intVal x.et b ≤ intVal x.et a then a else b
  | .vand x => form2 x fun a b => a &&& b
  | .vor x => form2 x fun a b => a ||| b
  | .vxor x => form2 x fun a b => a ^^^ b
  | .vandn x => form2 x fun a b => a &&& (2 ^ x.et.width - 1 - b)
  | .vshl x => form2 x (shifts x.et.width .shl)
  | .vshr x => form2 x (shifts x.et.width .shr)
  | .vsar x => form2 x (shifts x.et.width .sar)
  | .vshi k x n => plainForm x.g x.sl x.ws x.d [x.a] x.et.width 2 fun _ vs j =>
      shifts x.et.width k (elem (src vs 0) x.et.width j) n.toNat
  | _ => none

/-- Moves, permutes and table lookups (R212, R214 to R217, R230 to R232). -/
def moveForm : Instr → Option VecForm
  | .pmovP2V g sl ws d a et => plainForm g sl ws d [] et.width 2 fun k _ n =>
      if (k.rdP a).getLsbD (et.width * n / 8) then 2 ^ et.width - 1 else 0
  | .vsel x pc => plainForm x.g x.sl x.ws x.d [x.a, x.b] x.et.width 2 fun k vs n =>
      if (k.rdP pc).getLsbD (x.et.width * n / 8) then elem (src vs 0) x.et.width n else elem (src vs 1) x.et.width n
  | .vmov x => plainForm x.g x.sl x.ws x.d [x.a] x.et.width 2 fun _ vs n => elem (src vs 0) x.et.width n
  | .vbcst imm g sl ws d r et => plainForm g sl ws d [] et.width 2 fun k _ _ =>
      (match imm with | some m => m.signExtend 64 | none => k.rdS r).toNat % 2 ^ et.width
  | .vins x r idx => plainForm x.g x.sl x.ws x.d [x.a] x.et.width 2 fun k vs n =>
      if n = idx.toNat then (k.rdS r).toNat % 2 ^ x.et.width else elem (src vs 0) x.et.width n
  | .vidx g sl ws d r step et => plainForm g sl ws d [] et.width 2 fun k _ n =>
      (((k.rdS r).toNat + n * step.toInt) % (2 ^ et.width : Nat)).toNat
  | .vtlu x c => plainForm x.g x.sl x.ws x.d ([x.a, x.b] ++ c.toList) x.et.width 3 fun _ vs n =>
      let j := elem (src vs 1) x.et.width n
      if j < 2048 / x.et.width then elem (src vs 0) x.et.width j
      else match c with
        | some _ => elem (src vs 2) x.et.width n
        | none => 0
  | .vrot x r m => plainForm x.g x.sl x.ws x.d [x.a] x.et.width 3 fun k vs n =>
      elem (src vs 0) x.et.width ((n + (k.rdS r).toNat + m.toNat) % (2048 / x.et.width))
  | .vshuf x mode c => plainForm x.g x.sl x.ws x.d ([x.a, x.b] ++ c.toList) x.et.width 3 fun _ vs n =>
      let len := 2048 / x.et.width
      let both (j : Nat) : Nat :=
        if j < len then elem (src vs 0) x.et.width j else if j < 2 * len then elem (src vs 1) x.et.width (j - len) else 0
      match mode with
      | .table => both (elem (src vs 2) x.et.width n)
      | .lo => if n % 2 = 0 then both (n / 2) else both (len + n / 2)
      | .hi => if n % 2 = 0 then both (len / 2 + n / 2) else both (len + len / 2 + n / 2)
      | .even => both (2 * n)
      | .odd => both (2 * n + 1)
  | _ => none

def formFl2 (x : VFl2) (f : ET → RM → Bool → Nat → Nat → Nat → Nat × Flags) : Option VecForm :=
  some ⟨x.g, x.sl, x.ws, x.d, [x.a, x.b], x.et.width, 4, fun k => modeOf k x.rm == .sr, fun _ => true, fun s rw vs n =>
    f x.et (modeOf s.me x.rm) x.sat (elemRandom rw (x.et.width * n)) (elem (src vs 0) x.et.width n)
      (elem (src vs 1) x.et.width n)⟩

def formFl3 (x : VFl3) (f : ET → RM → Bool → Nat → Nat → Nat → Nat → Nat × Flags) : Option VecForm :=
  some ⟨x.g, x.sl, x.ws, x.d, [x.a, x.b, x.c], x.et.width, 4, fun k => modeOf k x.rm == .sr, fun _ => true, fun s rw vs n =>
    f x.et (modeOf s.me x.rm) x.sat (elemRandom rw (x.et.width * n)) (elem (src vs 0) x.et.width n)
      (elem (src vs 1) x.et.width n) (elem (src vs 2) x.et.width n)⟩

def formFn (x : VFn) (f : Nat → Nat × Flags) : Option VecForm :=
  some ⟨x.g, x.sl, x.ws, x.d, [x.a], 32, 8, fun _ => false, fun _ => true, fun _ _ vs n => f (elem (src vs 0) 32 n)⟩

def formOne (g : Guard) (sl : VSlot) (ws : Bool) (d a : VOp) (et : ET) (lat : Nat) (value : State → List Vec → Nat → Nat × Flags) :
    Option VecForm :=
  some ⟨g, sl, ws, d, [a], et.width, lat, fun _ => false, fun _ => true, fun s _ vs n => value s vs n⟩

/-- A quiet or signalling NaN's sign operation gives the canonical NaN; any other element only changes its sign bit (R225). -/
def signOp (et : ET) (x : Nat) (f : BitVec et.width → BitVec et.width) : Nat :=
  if (valueOf et x).isNan then canonNan et else (f (BitVec.ofNat et.width x)).toNat

/-- Floating-point arithmetic and special functions (R223 to R229): the exact operation of Formats, rounded once. -/
def floatForm : Instr → Option VecForm
  | .vfadd x => formFl2 x addF
  | .vfsub x => formFl2 x subF
  | .vfmul x => formFl2 x mulF
  | .vfma x => formFl3 x fmaF
  | .vfms x => formFl3 x fmsF
  | .vfmin x => some ⟨x.g, x.sl, x.ws, x.d, [x.a, x.b], x.et.width, 4, fun _ => false, fun _ => true, fun _ _ vs n =>
      minmaxF x.et false (elem (src vs 0) x.et.width n) (elem (src vs 1) x.et.width n)⟩
  | .vfmax x => some ⟨x.g, x.sl, x.ws, x.d, [x.a, x.b], x.et.width, 4, fun _ => false, fun _ => true, fun _ _ vs n =>
      minmaxF x.et true (elem (src vs 0) x.et.width n) (elem (src vs 1) x.et.width n)⟩
  | .vfabs x => formOne x.g x.sl x.ws x.d x.a x.et 4 fun _ vs n =>
      (signOp x.et (elem (src vs 0) x.et.width n) fun v => v &&& BitVec.intMax x.et.width, 0)
  | .vfneg x => formOne x.g x.sl x.ws x.d x.a x.et 4 fun _ vs n =>
      (signOp x.et (elem (src vs 0) x.et.width n) fun v => v ^^^ BitVec.intMin x.et.width, 0)
  | .vrcpa x => formFn x rcpaF
  | .vrsqa x => formFn x rsqaF
  | .vexp2 x => formFn x exp2F
  | .vlog2 x => formFn x log2F
  | .vgkey x r pm => some ⟨x.g, x.sl, x.ws, x.d, [x.a], 32, 8, fun _ => true, fun _ => true, fun s rw vs n =>
      if (s.me.rdP pm).getLsbD (4 * n) then
        fmaF .f32 .rne false 0 (elem (src vs 0) 32 n) ((s.me.rdS r).toNat % 2 ^ 32) (gumbel (elem rw 32 n / 2 ^ 8))
      else (0xFF800000, 0)⟩
  | _ => none

/-- Conversions (R218 to R221). -/
def convertForm : Instr → Option VecForm
  | .vcvt x dst rm sat part =>
    let n := 2048 / max x.et.width dst.width
    let narrow := decide (dst.width < x.et.width)
    some ⟨x.g, x.sl, x.ws, x.d, [x.a], dst.width, 4, fun k => modeOf k rm == .sr,
      fun di => !narrow || (decide (part.toNat * n ≤ di) && decide (di < part.toNat * n + n)), fun s rw vs di =>
      convert x.et dst (modeOf s.me rm) sat (elemRandom rw (dst.width * di))
        (elem (src vs 0) x.et.width (if narrow then di - part.toNat * n else part.toNat * n + di))⟩
  | .vscale x blk => some ⟨x.g, x.sl, x.ws, x.d, [x.a, x.b], x.et.width, 4, fun k => modeOf k x.rm == .sr, fun _ => true,
      fun s rw vs n => scaleElem x.et (modeOf s.me x.rm) x.sat (elemRandom rw (x.et.width * n)) (elem (src vs 0) x.et.width n)
        (elem (src vs 1) 8 (match blk with | .b1 => n | .b16 => n / 16 | .b32 => n / 32))⟩
  | .vcbdec g sl ws d a r dst t grp =>
    let et := cbEt dst
    some ⟨g, sl, ws, d, [a], et.width, 4, fun _ => false, fun _ => true, fun s _ vs n =>
      let index := elem (src vs 0) 16 (grp.toNat * (2048 / et.width / 8) + n / 8)
      let scale := s.me.rdS r
      cbScaled et (cbWeight (s.ready.cbt.get ((s.cur % 2 ^ 17) * 1024 + t.toNat * 256 + index / 256)).toNat index (n % 8))
        (scale.toNat % 256) (if scale.toNat / 2 ^ 32 = 0 then .fin false 1 0 else valueOf .f32 (scale.toNat / 2 ^ 32))⟩
  | _ => none

/-- The elements that a mask predicate makes active, as integers (R222). -/
def activeInts (et : ET) (v : Vec) (m : Pred) : List Int :=
  ((List.range (2048 / et.width)).filter fun n => m.getLsbD (et.width * n / 8)).map fun n => intVal et (elem v et.width n)

/-- The one-element results of reductions: element 0 is the value and the others are zero (R233 to R236). -/
def atZero (r : Nat × Flags) (n : Nat) : Nat × Flags := if n = 0 then r else (0, 0)

/-- Reductions and dot products (R233 to R237). -/
def reduceForm : Instr → Option VecForm
  | .vredsum x sat => formOne x.g x.sl x.ws x.d x.a x.et 6 fun s vs => atZero
      (if x.et.isInt then (fitTo x.et sat (activeInts x.et (src vs 0) (s.me.rdP x.pm)).sum, 0)
       else redSum x.et sat (src vs 0) (s.me.rdP x.pm))
  | .vredmax x => formOne x.g x.sl x.ws x.d x.a x.et 6 fun s vs => atZero
      (if x.et.isInt then
        (fitTo x.et false ((activeInts x.et (src vs 0) (s.me.rdP x.pm)).foldr max
          (if x.et.signed then -(2 ^ (x.et.width - 1) : Nat) else 0)), 0)
       else redExt x.et true (src vs 0) (s.me.rdP x.pm))
  | .vredmin x => formOne x.g x.sl x.ws x.d x.a x.et 6 fun s vs => atZero
      (if x.et.isInt then
        (fitTo x.et false ((activeInts x.et (src vs 0) (s.me.rdP x.pm)).foldr min
          (if x.et.signed then (2 ^ (x.et.width - 1) : Nat) - 1 else (2 ^ x.et.width : Nat) - 1)), 0)
       else redExt x.et false (src vs 0) (s.me.rdP x.pm))
  | .vmaxi x => formOne x.g x.sl x.ws x.d x.a .f32 6 fun s vs n =>
      let r := maxIdx true (src vs 0) (s.me.rdP x.pm) ((s.me.rdS x.s).toNat % 2 ^ 32) (heldPair s x)
      if n = 1 then (r.1.2, 0) else atZero (r.1.1, r.2) n
  | .vmini x => formOne x.g x.sl x.ws x.d x.a .f32 6 fun s vs n =>
      let r := maxIdx false (src vs 0) (s.me.rdP x.pm) ((s.me.rdS x.s).toNat % 2 ^ 32) (heldPair s x)
      if n = 1 then (r.1.2, 0) else atZero (r.1.1, r.2) n
  | .vdot g sl ws d a b c ta tb =>
    some ⟨g, sl, ws, d, [a, b, c], 32, 6, fun _ => false, fun _ => true, fun _ _ vs n =>
      if n < 16 then
        groupAdd 19 ((List.range 16).map fun j =>
            (valueOf ta (elem (src vs 0) 8 (16 * n + j)), valueOf tb (elem (src vs 1) 8 (16 * n + j))))
          (.fin false 1 0) (elem (src vs 2) 32 n)
      else (0, 0)⟩
  | _ => none
where
  /-- The pair that an accumulating form starts from (R235). -/
  heldPair (s : State) (x : VMi) : Option (Nat × Nat) :=
    match x.acc, x.d with
    | true, .v n => some (elem (s.ready.rdV s.cur n.toNat) 32 0, elem (s.ready.rdV s.cur n.toNat) 32 1)
    | true, _ => some (0, 0)
    | false, _ => none

/-- Elements whose result counts: selected by the guard and written by the form (R30, R188). -/
def counts (s : State) (o : VecForm) (n : Nat) : Bool :=
  (selection s.me o.g).getLsbD (o.w * n / 8) && o.part n

/-- The flags that a vector result raises: those of the elements that count (R188). -/
def raised (s : State) (o : VecForm) (rw : Vec) (vs : List Vec) : Flags :=
  ((List.range (2048 / o.w)).filter (counts s o)).foldl (fun f n => f ||| (o.value s rw vs n).2) 0

/-- FPCTL.TE as the issuing bundle reads it (R39). -/
def enabled (s : State) : Flags := BitVec.ofNat 6 ((s.me.spr' 0x020).toNat / 2 ^ 8 % 2 ^ 5)

/-- The FP_TRAP of a result, if it raises an enabled flag: UTINFO0 the enabled flags raised, UTINFO1 the tag, UTINFO3 the lowest
element that raised one (R112, R189). -/
def fpTrapOf (s : State) (i : Instr) (o : VecForm) (rw : Vec) (vs : List Vec) : Option TrapRec :=
  ((List.range (2048 / o.w)).find? fun n => counts s o n && ((o.value s rw vs n).2 &&& enabled s) != 0).map fun n =>
    { trapOf s i 0x0D with
      info0 := BitVec.ofNat 64 (raised s o rw vs &&& enabled s).toNat
      info1 := BitVec.ofNat 64 (bits (encode true i) 52 8 + bits (encode true i) 60 3 * 512), info2 := 0
      info3 := BitVec.ofNat 64 n }

/-- What a form's entry holds: selected elements the result, the others what the destination held at issue; its flags; its FP_TRAP. -/
def Carries (s : State) (i : Instr) (o : VecForm) (rw : Vec) (vs : List Vec) (old : Vec) (e : Entry) : Prop :=
  e.flags = raised s o rw vs ∧ e.fault = fpTrapOf s i o rw vs ∧
  ∀ n, n < 2048 / o.w → elem e.val o.w n = if counts s o n then (o.value s rw vs n).1 % 2 ^ o.w else elem old o.w n

/-- The random word of a form, with the device after its pop. -/
def draws (s : State) (o : VecForm) (w : Dev) : Option (Vec × Dev) := if o.random s.me then popWord w s.cur else some (0, w)

/-- The pair of latches of a vector slot (R32). -/
def pairOf : VSlot → Pair
  | .va => .va
  | .vb => .vb

/-- The statement of a table of forms with a register destination: alone in its bundle, with every source operand readable, the
instruction issues with its result in flight for its latency, bound for the physical register of d, or for none under
write-suppress; sources are popped in the order of their fields, and one random word where the form draws one. -/
def VectorResultsOf (table : Instr → Option VecForm) : Prop :=
  ∀ i o s n vs w1 rw w2, table i = some o → i.wf = true → Issues i s → o.d = .v n → n.toNat < s.me.allot.vSize →
    (s.env i).srcsHits s.ready [] o.srcs = [] → (s.env i).latchWaits o.srcs = false →
    (s.env i).readSrcs o.srcs s.ready = some (vs, none, w1) → draws s o w1 = some (rw, w2) →
    ∃ v fl flt,
      let e : Entry :=
        { result s i o.lat (if o.ws then .none else .vec (s.me.vphys n.toNat)) v with
          flags := fl, fault := flt, latch := some (pairOf o.sl), gtag := s.me.nextTag }
      exec i s = .next (s.issue i w2 ((w2.ctx s.cur).withEntry e) none) ∧
      Carries s i o rw vs (s.ready.rdV s.cur n.toNat) e

end Sys2Proof.Claims

/-- R206 to R209 (with R30, R32, R34): the integer arithmetic, logic and shifts of a vector. R212, R214 to R217, R230 to R232 (with
R30, R32, R34): element moves, broadcasts, ramps, lookups and permutes. -/
def Obligations.VectorIntegerAndMoveResults : Prop :=
  (VectorResultsOf integerForm) ∧
  (VectorResultsOf moveForm)

/-- R223 to R229 (with R30, R188, R189, R191): floating-point arithmetic and special functions: each element by the exact operation
rounded once, the flags of the elements that count, and the FP_TRAP of an enabled flag as a result-time fault. -/
def Obligations.VectorFloatResults : Prop := VectorResultsOf floatForm

/-- R218 to R221 (with R30, R188, R189, R191): conversions; a narrowing one writes its part alone. R233 to R237 (with R30, R188,
R189): reductions into element 0, the extreme with its index, and the dot product. -/
def Obligations.VectorConversionAndReductionResults : Prop :=
  (VectorResultsOf convertForm) ∧
  (VectorResultsOf reduceForm)

/-- R211 to R213, R216, R210 (with R29, R30): predicate results and scalar results of vector slots, alone in their bundles: the
predicate logic, the moves to a predicate and `vcmp` write all w/8 bits of every selected element and keep the others; `pcnt`
counts the elements set and selected, or gives the lowest; `vext` writes its scalar only where its element is selected. Each is
in flight for two counts. -/
def Obligations.PredicateAndScalarResults : Prop :=
  (∀ i g d (bit : Nat → Bool) s,
    (∃ x, g = x.g ∧ d = x.d ∧
      (i = .pand x ∧ bit = (fun n => (s.me.rdP x.a).getLsbD n && (s.me.rdP x.b).getLsbD n) ∨
       i = .por x ∧ bit = (fun n => (s.me.rdP x.a).getLsbD n || (s.me.rdP x.b).getLsbD n) ∨
       i = .pxor x ∧ bit = (fun n => (s.me.rdP x.a).getLsbD n ^^ (s.me.rdP x.b).getLsbD n) ∨
       i = .pandn x ∧ bit = (fun n => (s.me.rdP x.a).getLsbD n && !(s.me.rdP x.b).getLsbD n))) ∨
    (∃ sl a, i = .pmov g sl d a ∧ bit = fun n => (s.me.rdP a).getLsbD n) →
    Issues i s → ∃ v, exec i s = .next (s.issue i s.ready
        (s.me.withEntry (result s i 2 (if d = 0 then .none else .pred (s.me.pphys d)) v)) none) ∧
      ∀ n, n < 256 → v.getLsbD n = if (selection s.me g).getLsbD n then bit n else (s.me.rdP d).getLsbD n) ∧
  (∀ g sl d a et s vs w1, let i := Instr.pmovV2P g sl d a et
    i.wf = true → Issues i s → (s.env i).srcsHits s.ready [] [a] = [] → (s.env i).latchWaits [a] = false →
    (s.env i).readSrcs [a] s.ready = some (vs, none, w1) →
    ∃ v, exec i s = .next (s.issue i w1
        ((w1.ctx s.cur).withEntry (result s i 2 (if d = 0 then .none else .pred (s.me.pphys d)) v)) none) ∧
      ∀ n, n < 256 → let m := n / (et.width / 8)
        v.getLsbD n = if (selection s.me g).getLsbD (et.width * m / 8) then elem (src vs 0) et.width m != 0
          else (s.me.rdP d).getLsbD n) ∧
  (∀ c g sl d a b et s vs w1, let i := Instr.vcmp c g sl d a b et
    i.wf = true → Issues i s → (s.env i).srcsHits s.ready [] [a, b] = [] → (s.env i).latchWaits [a, b] = false →
    (s.env i).readSrcs [a, b] s.ready = some (vs, none, w1) →
    let r (m : Nat) : Bool × Flags :=
      if et.isFl then cmpF c (valueOf et (elem (src vs 0) et.width m)) (valueOf et (elem (src vs 1) et.width m))
      else (cmpI c (intVal et (elem (src vs 0) et.width m)) (intVal et (elem (src vs 1) et.width m)), 0)
    let o : VecForm := ⟨g, sl, false, .p d, [a, b], et.width, 2, fun _ => false, fun _ => true, fun _ _ _ m => (0, (r m).2)⟩
    ∃ v, exec i s = .next (s.issue i w1
        ((w1.ctx s.cur).withEntry
          { result s i 2 (if d = 0 then .none else .pred (s.me.pphys d)) v with
            flags := raised s o 0 vs, fault := fpTrapOf s i o 0 vs }) none) ∧
      ∀ n, n < 256 → let m := n / (et.width / 8)
        v.getLsbD n = if (selection s.me g).getLsbD (et.width * m / 8) then (r m).1 else (s.me.rdP d).getLsbD n) ∧
  (∀ first g sl sd a et s, let i := Instr.pcnt first g sl sd a et
    i.wf = true → Issues i s →
    let hits := (List.range (2048 / et.width)).filter fun n =>
      (s.me.rdP a).getLsbD (et.width * n / 8) && (selection s.me g).getLsbD (et.width * n / 8)
    exec i s = .next (s.issue i s.ready (s.me.withEntry
      (result s i 2 (if sd = 0 then .none else .scalar (s.me.sphys sd.toNat))
        (BitVec.ofNat 2048 (if first then hits.head?.getD (2048 / et.width) else hits.length)))) none)) ∧
  (∀ sg g sl sd a (idx : BitVec 12) et s vs w1, let i := Instr.vext sg g sl sd a idx et
    i.wf = true → Issues i s → (s.env i).srcsHits s.ready [] [a] = [] → (s.env i).latchWaits [a] = false →
    (s.env i).readSrcs [a] s.ready = some (vs, none, w1) →
    let x := BitVec.ofNat et.width (elem (src vs 0) et.width idx.toNat)
    exec i s = .next (s.issue i w1 ((w1.ctx s.cur).withEntry
      (result s i 2
        (if (selection s.me g).getLsbD (et.width * idx.toNat / 8) && sd != 0 then .scalar (s.me.sphys sd.toNat) else .none)
        ((if sg then x.signExtend 64 else x.setWidth 64).setWidth 2048))) none))

/-- R213: `pcnt` in a vector slot, opcode 0x25: its fields, d and imm12 and WS zero, fn 0 for the count and 1 for the index. Alone in its
bundle it sends to sd, for two counts, the number of elements whose bit in the predicate is set and that the guard selects, or the
index of the lowest of them, which is the number of elements when there is none: whatever the guard selects, the scalar is written. -/
def Obligations.PredicateElementsAreCounted : Prop :=
  ∀ first g sl sd a et s, let i := Instr.pcnt first g sl sd a et
    i.wf = true →
    (let w := encode true i
     bits w 60 3 = (match sl with | .va => 1 | .vb => 2) ∧ bits w 52 8 = 0x25 ∧ bits w 32 7 = 80 + a.toNat ∧ bits w 26 6 = sd.toNat ∧
      bits w 0 10 = (if first then 1 else 0) ∧ bits w 40 7 = 0 ∧ bits w 39 1 = 0 ∧ bits w 14 12 = 0 ∧ ET.ofCode (bits w 10 4) = some et ∧
      et.isInt = true) ∧
    (Issues i s →
      let counted (n : Nat) : Bool := (s.me.rdP a).getLsbD (et.width * n / 8) && (selection s.me g).getLsbD (et.width * n / 8)
      ∃ v, exec i s = .next (s.issue i s.ready (s.me.withEntry
          (result s i 2 (if sd = 0 then .none else .scalar (s.me.sphys sd.toNat)) (BitVec.ofNat 2048 v))) none) ∧
        (first = false → v = (List.range (2048 / et.width)).countP counted) ∧
        (first = true → v ≤ 2048 / et.width ∧ (∀ n, n < v → counted n = false) ∧ (v < 2048 / et.width → counted v = true)))

namespace Sys2Proof.Claims

/-! ## Operands of vector instructions (R26 to R34, R142, R143) -/

/-- The tables of vector results together. -/
def vectorForm (i : Instr) : Option VecForm :=
  match integerForm i, moveForm i, floatForm i, convertForm i, reduceForm i with
  | some o, _, _, _, _ | _, some o, _, _, _ | _, _, some o, _, _ | _, _, _, some o, _ | _, _, _, _, some o => some o
  | none, none, none, none, none => none

/-- Where a vector register name lies in its core's pool (R27, R28). -/
def poolPlace (k : Ctx) (c n : Nat) : Nat :=
  let offset := (k.spr' 0x012).toNat % 16
  c % 2 ^ 17 * 128 + k.allot.vBase +
    (if n < 16 ∨ k.allot.vSize ≠ 32 then n else 16 + (n - 16 + offset) % 16)

/-- Where a predicate name lies (R27, R29). -/
def predPlace (k : Ctx) (n : Nat) : Nat :=
  let offset := (k.spr' 0x012).toNat / 256 % 8
  if n < 8 ∨ k.allot.vSize ≠ 32 then n else 8 + (n - 8 + offset) % 8

/-- The value of a register or latch operand (R31, R32). -/
def operandValue (d : Dev) (c : Nat) : VOp → Vec
  | .v n => d.vpool.get (poolPlace (d.ctx c) c n.toNat)
  | .y n =>
    let k := d.ctx c
    match n.toNat with
    | 0 => k.la.cur.getD 0
    | 1 => k.la.prev.getD 0
    | 2 => k.lb.cur.getD 0
    | 3 => k.lb.prev.getD 0
    | 4 => k.ll.cur.getD 0
    | 5 => k.ll.prev.getD 0
    | _ => 0
  | _ => 0

/-- An operand is a stream. -/
def isStream : VOp → Bool
  | .q _ => true
  | _ => false

/-- A stream may be popped by the next bundle, or pushed to (R142). -/
def mayPop (k : Ctx) (n : Nat) : Prop :=
  (k.streams.get n).bound = true ∧ (k.streams.get n).out = false ∧ (k.streams.get n).idx < (k.streams.get n).total
def mayPush (k : Ctx) (n : Nat) : Prop :=
  (k.streams.get n).bound = true ∧ (k.streams.get n).out = true ∧ (k.streams.get n).idx < (k.streams.get n).total

/-- The element that the next push to a stream is, as the destination of its entry, with the heap window as it stands (R74, R140,
R142). -/
def nextElement (k : Ctx) (n : Nat) : Dest :=
  let st := k.streams.get n
  .push n st.space (st.elemAddr st.idx).toNat st.idx st.ticket ⟨k.spr' 0x040, k.spr' 0x041, k.spr' 0x042⟩

/-- The device with the stream at its next element. -/
def streamOn (d : Dev) (c n : Nat) : Dev :=
  d.setCtx c
    { d.ctx c with
      streams := (d.ctx c).streams.set n { (d.ctx c).streams.get n with idx := ((d.ctx c).streams.get n).idx + 1 } }

/-- The bytes of the elements that count. -/
def countedBytes (s : State) (o : VecForm) (b : Nat) : Bool := counts s o (8 * b / o.w)

end Sys2Proof.Claims

/-- R27 to R29, R31 to R33, R54, R142, R203: what operands read. Vector registers and predicates are read at their rotated places,
which are distinct for distinct names, and latches as their pairs hold them; reading those changes nothing. A stream operand takes
the head of the stream's elements with its fault, and the stream goes on to the next. An instruction whose stream operand has no
element present waits, and nothing changes but that its context is then in an engine wait. -/
def Obligations.OperandsReadAsNamed : Prop :=
  (∀ (E : Env) w l, (∀ op ∈ l, (∃ n, op = .v n) ∨ ∃ n, op = .y n) →
    E.readSrcs l w = some (l.map (operandValue E.d0 E.c), none, w)) ∧
  (∀ (k : Ctx) (p : BitVec 4), k.rdP p = if p = 0 then BitVec.allOnes 256 else k.preg.get (predPlace k p.toNat)) ∧
  (∀ k c, k.allot.vSize = 32 → (∀ m n, m < 32 → n < 32 → poolPlace k c m = poolPlace k c n → m = n) ∧
    ∀ m n, m < 16 → n < 16 → predPlace k m = predPlace k n → m = n) ∧
  (∀ (E : Env) (w : Dev) n v f r, ((w.ctx E.c).streams.get n.toNat).buf = (v, f) :: r →
    E.readSrcs [.q n] w = some ([v], f, w.setCtx E.c
      { w.ctx E.c with
        streams := (w.ctx E.c).streams.set n.toNat
          { (w.ctx E.c).streams.get n.toNat with buf := r, idx := ((w.ctx E.c).streams.get n.toNat).idx + 1 } })) ∧
  (∀ i o s n, vectorForm i = some o → i.wf = true → Issues i s → o.srcs = [.q n] → mayPop s.me n.toNat →
    (s.me.streams.get n.toNat).buf = [] → (∃ r, o.d = .v r ∧ r.toNat < s.me.allot.vSize) →
    exec i s = .next (held s true))

/-- R30, R32, R34, R142: a vector result bound for a stream. Where the stream may be pushed and has room, and no pending node reads
what the element will write, the instruction issues with its result in flight to the stream's next element, the bytes of its
elements that count selected and every other element zero; no register is written, the latches take the result, and the stream
goes on to the element after. R26, R31, R33, R68, R142, R143: what stops a vector instruction at issue, in the order of R68: a
stream operand that may not be popped or pushed is ILLEGAL_OPERAND; a register that the allotment does not hold is ALLOT_RANGE; an
invalid latch is STALE_LATCH. What may be read but not yet lets the instruction wait: a bundle whose stream operand has no element
present, or whose outbound stream has DEPTH elements not performed, is held in an engine wait, and a secondary bundle that names a
latch is held. A popped element with a fault lets the instruction issue, and its result then carries that fault, UTINFO1 zero, and
raises no flag. -/
def Obligations.VectorStreamsAndOperandFaults : Prop :=
  (∀ i o s n vs w1 rw w2, vectorForm i = some o → i.wf = true → Issues i s → o.d = .q n → mayPush s.me n.toNat →
    (s.env i).srcsHits s.ready [] o.srcs = [] → (s.env i).latchWaits o.srcs = false →
    (s.env i).readSrcs o.srcs s.ready = some (vs, none, w1) → draws s o w1 = some (rw, w2) →
    pushFull w1 s.cur (.q n) = false → aliasStarts w2 s.cur (pushRange w2 s.cur n.toNat) = [] →
    ∃ v fl flt sel,
      let w3 := streamOn w2 s.cur n.toNat
      let e : Entry :=
        { result s i o.lat (nextElement (w2.ctx s.cur) n.toNat) v with
          flags := fl, fault := flt, latch := some (pairOf o.sl), gtag := s.me.nextTag, sel := sel }
      exec i s = .next (s.issue i w3 ((w3.ctx s.cur).withEntry e) none) ∧
      Carries s i o rw vs 0 e ∧ ∀ b, b < 256 → sel.getLsbD b = countedBytes s o b) ∧
  (∀ i o s, vectorForm i = some o → i.wf = true → Issues i s →
    ((∃ n, o.d = .q n ∧ ¬ mayPush s.me n.toNat) ∨ (∃ n, VOp.q n ∈ o.srcs ∧ ¬ mayPop s.me n.toNat) →
      exec i s = .next (s.trapped (trapOf s i 0x02))) ∧
    ((∀ op ∈ o.d :: o.srcs, isStream op = false) →
      ((∃ n, VOp.v n ∈ o.d :: o.srcs ∧ s.me.allot.vSize ≤ n.toNat) → exec i s = .next (s.trapped (trapOf s i 0x06))) ∧
      ((∀ n, VOp.v n ∈ o.d :: o.srcs → n.toNat < s.me.allot.vSize) →
        (s.dev.cores.get (s.cur % 2 ^ 17)).secondary ≠ s.cur / 2 ^ 17 % 4 + 1 →
        (∃ n : BitVec 3, VOp.y n ∈ o.srcs ∧ s.me.latch n.toNat = none) → exec i s = .next (s.trapped (trapOf s i 0x05)))) ∧
    (∀ n vs f w1 rw w2, o.d = .v n → n.toNat < s.me.allot.vSize →
      (s.env i).srcsHits s.ready [] o.srcs = [] → (s.env i).latchWaits o.srcs = false →
      (s.env i).readSrcs o.srcs s.ready = some (vs, some f, w1) → draws s o w1 = some (rw, w2) →
      ∃ v,
        let e : Entry :=
          { result s i o.lat (if o.ws then .none else .vec (s.me.vphys n.toNat)) v with
            latch := some (pairOf o.sl), gtag := s.me.nextTag
            fault := some
              { f with
                imp := false, slot := bits (encode true i) 60 3, opc := bits (encode true i) 52 8, info1 := 0 } }
        exec i s = .next (s.issue i w2 ((w2.ctx s.cur).withEntry e) none)) ∧
    ((∀ n, o.d = .v n → n.toNat < s.me.allot.vSize) → (∀ n, o.d = .q n → mayPush s.me n.toNat) →
      (s.env i).srcsHits s.ready [] o.srcs = [] →
      ((s.env i).latchWaits o.srcs = true → exec i s = .next (held s false)) ∧
      ((s.env i).latchWaits o.srcs = false →
        ((s.env i).readSrcs o.srcs s.ready = none → exec i s = .next (held s true)) ∧
        (∀ n vs flt w1, o.d = .q n → (s.env i).readSrcs o.srcs s.ready = some (vs, flt, w1) → pushFull w1 s.cur (.q n) = true →
          exec i s = .next (held s true)))))

namespace Sys2Proof.Claims

/-! ## The on-chip memories (R145 to R164) -/

/-- Space codes and due counts by space (R60, R158). -/
def codeOf : Space → Nat
  | .spad => 0
  | .lane => 1
  | .cluster => 2
  | .die => 3

def countOf : Space → Nat
  | .spad => 6
  | .lane => 4
  | .cluster => 14
  | .die => 24

/-- The address of the MS format (R59). -/
def addressOf (k : Ctx) (base : BitVec 6) (off : BitVec 20) : Word := k.rdS base + off.signExtend 64

/-- The issue checks of R149 and R151 pass. -/
def accepted (s : State) (space : Nat) (a : Word) (n align : Nat) : Prop :=
  a.toNat % align = 0 ∧
  (match space with
   | 0 => a.toNat + n ≤ s.me.allot.spLen
   | 1 => a.toNat + n ≤ s.me.allot.lsLen
   | 2 => a.toNat < 2 ^ 26 ∧ a.toNat % 2 ^ 20 + n ≤ 2 ^ 20
   | _ => a.toNat + n ≤ 2 ^ 26) ∧
  (space = 3 → ((s.dev.dies.get (s.cur / 2 ^ 8 % 2 ^ 9)).dsown).getLsbD 63 = true ∧
    (s.dev.dies.get (s.cur / 2 ^ 8 % 2 ^ 9)).dsown.toNat % 2 ^ 63 = s.me.task.job)

/-- The bytes of an access as places. -/
def span (d : Dev) (c space a n : Nat) : List (Nat × Nat) := [(placeOf d c space a, placeOf d c space a + n - 1)]

/-- No unfinished `tst` of the context writes there (R265), and for a write no pending node reads there (R157). -/
def unread (d : Dev) (c : Nat) (ranges : List (Nat × Nat)) : Prop := storesMeeting d c ranges = []
def unused (d : Dev) (c : Nat) (ranges : List (Nat × Nat)) : Prop :=
  storesMeeting d c ranges = [] ∧ aliasStarts d c ranges = []

/-- The byte of a space at an address, as a context reads it, and the little-endian number of `n` bytes (R6). -/
def byteAt (d : Dev) (c space a b : Nat) : Byte := rdPlace d (placeOf d c space a + b)
def numberAt (d : Dev) (c space a n : Nat) : Nat :=
  (List.range n).foldr (fun b t => (byteAt d c space a b).toNat + 256 * t) 0

/-- What R159 puts in the trap registers for a faulting word. -/
def onChipTrap (s : State) (i : Instr) (cause space lane access a : Nat) : TrapRec :=
  { (default : TrapRec) with
    cause := cause, info0 := BitVec.ofNat 64 a
    info1 := BitVec.ofNat 64 (bits (encode true i) 52 8 + bits (encode true i) 60 3 * 512)
    info2 := if space = 2 then BitVec.ofNat 64 (s.cur / 2 ^ 6 % 2 ^ 11 * 64 + a / 2 ^ 20 % 64) else 0
    info3 := BitVec.ofNat 64 lane, access := access, va := BitVec.ofNat 64 a, slot := bits (encode true i) 60 3
    opc := bits (encode true i) 52 8 }

/-- The target core of a cluster access does not answer: its index is 48 to 63, it is disabled, or its die is in reset (R150). -/
def unreachable (d : Dev) (c a : Nat) : Bool :=
  let core := c / 2 ^ 6 % 2 ^ 11 * 64 + a / 2 ^ 20 % 64
  decide (48 ≤ core % 64) || d.disabled.contains core || (d.dies.get (core / 2 ^ 8)).inReset

/-- Some byte of a word at the target core lies in no allotment of a resident or saved context of the job (R150). -/
def foreign (d : Dev) (c a : Nat) : Bool :=
  let core := c / 2 ^ 6 % 2 ^ 11 * 64 + a / 2 ^ 20 % 64
  !(List.range 4).all fun j => inAllotment d core (d.ctx c).task.job ((a + j) % 2 ^ 20)

/-- The fault of the first failing word of an access, its words in the order of lanes or addresses (R150, R154, R159): each word
with its lane, its address, and whether an uncorrectable error in it fails the access. -/
def firstFault (s : State) (i : Instr) (d : Dev) (space access : Nat) (ws : List (Nat × Nat × Bool)) : Option TrapRec :=
  ws.findSome? fun (lane, a, checked) =>
    if space = 2 ∧ unreachable d s.cur a = true then some (onChipTrap s i 0x0C space lane access a)
    else if space = 2 ∧ foreign d s.cur a = true then some (onChipTrap s i 0x0B space lane access a)
    else if checked = true ∧ badWord d (placeOf d s.cur space a) = true then some (onChipTrap s i 0x0C space lane access a)
    else none

/-- The words of a scalar access; a store of less than a word writes one in part (R154). -/
def scalarSpan (a n : Nat) (checked : Bool) : List (Nat × Nat × Bool) :=
  (List.range ((n + 3) / 4)).map fun j => (0, a / 4 * 4 + 4 * j, checked)

/-- A byte of the 256 is selected at a granule (R30, R161). -/
def byteSel (k : Ctx) (g : Guard) (gran b : Nat) : Bool := (selection k g).getLsbD (gran * (8 * b / gran) / 8)

def granule : Gran → Nat
  | .g32 => 32
  | .g16 => 16
  | .g8 => 8

/-- A load's result merged with what the register held: byte `b` of selected elements from `f`, the others as before (R30). -/
def MergedLoad (s : State) (g : Guard) (gran r : Nat) (f : Nat → Byte) (v : Vec) : Prop :=
  ∀ b, b < 256 → elem v 8 b = if byteSel s.me g gran b then (f b).toNat else elem (s.ready.rdV s.cur r) 8 b

/-- The entry of a vector load: bound for its register and for the latches y4 and y5. -/
def loadEntry (s : State) (i : Instr) (lat : Nat) (r : BitVec 5) (v : Vec) (f : Option TrapRec) : Entry :=
  { result s i lat (.vec (s.me.vphys r.toNat)) v with latch := some .lds, fault := f, gtag := s.me.nextTag }

/-- What a store of bytes leaves: the selected bytes from a place on are those of the store and every other byte of on-chip memory is
as before; exactly the words written whole have no error any more (R154); and nothing else of the device changes. -/
def Stored (d0 d : Dev) (c space a n : Nat) (sel : Nat → Bool) (byte : Nat → Byte) : Prop :=
  let whole (j : Nat) : Bool :=
    decide (4 * j + 4 ≤ n) && decide (a % 4 = 0) && sel (4 * j) && sel (4 * j + 1) && sel (4 * j + 2) && sel (4 * j + 3)
  d = { d0 with
    spad := d.spad, lanes := d.lanes, dspad := d.dspad, badSpad := d.badSpad, badLane := d.badLane, badDie := d.badDie } ∧
  (∀ p, rdPlace d p =
    if placeOf d0 c space a ≤ p ∧ p < placeOf d0 c space a + n ∧ sel (p - placeOf d0 c space a) = true then
      byte (p - placeOf d0 c space a)
    else rdPlace d0 p) ∧
  ∀ q, badWord d q =
    (badWord d0 q && !(List.range 64).any fun j => whole j && q / 4 == placeOf d0 c space (a + 4 * j) / 4)

/-- The due-count check of a store (R158). -/
def storeCheck (s : State) (i : Instr) (lat : Nat) (f : Option TrapRec) : Entry := { result s i lat .none 0 with fault := f }

/-- A fault of a store's words as its check carries it: it may be found only after the due count, as timing has it, and is then
delivered with [8] of UTINFO1 set (R159; log entry 85). -/
def foundAt (d : Dev) (r : TrapRec) : TrapRec :=
  if Config.storeFaultLate d.free then { r with imp := true, info1 := r.info1 ||| 0x100 } else r

/-- The state after a store has issued; where a word has failed it, the counter of the free values goes on. -/
def storeIssue (s : State) (i : Instr) (d : Dev) (lat : Nat) (f : Option TrapRec) : State :=
  let d1 := if f.isSome then { d with free := d.free + 1 } else d
  s.issue i d1 ((d1.ctx s.cur).withEntry (storeCheck s i lat (f.map (foundAt d)))) none

/-- A source of a vector store, read (R54, R142). -/
def readOne (s : State) (i : Instr) (a : VOp) (v : Vec) (d : Dev) : Prop :=
  (s.env i).srcsHits s.ready [] [a] = [] ∧ (s.env i).latchWaits [a] = false ∧
    (s.env i).readSrcs [a] s.ready = some ([v], none, d)

/-- An index operand that may be read: a register of the allotment or a valid latch of a primary's bundle. -/
def indexReadable (s : State) (op : VOp) : Prop :=
  (∃ n, op = .v n ∧ n.toNat < s.me.allot.vSize) ∨
  (∃ n : BitVec 3, op = .y n ∧ n.toNat < 6 ∧ (s.me.latch n.toNat).isSome = true ∧
    (s.dev.cores.get (s.cur % 2 ^ 17)).secondary ≠ s.cur / 2 ^ 17 % 4 + 1)

/-- The address of a lane of a gather or scatter (R163). -/
def laneAddress (s : State) (base : BitVec 6) (off : BitVec 20) (idx : VOp) (j : Nat) : Word :=
  addressOf s.me base off + BitVec.ofNat 64 (elem (operandValue s.ready s.cur idx) 32 j)

/-- The selected lanes of a gather or scatter with their addresses, ascending. -/
def lanesOf (s : State) (g : Guard) (base : BitVec 6) (off : BitVec 20) (idx : VOp) : List (Nat × Word) :=
  ((List.range 64).filter fun j => (selection s.me g).getLsbD (4 * j)).map fun j => (j, laneAddress s base off idx j)

/-- The new value of an atomic on 64-bit numbers, as the table of R116 gives it. -/
def atomicNew (op : AmoOp) (x b c : Nat) : Nat :=
  match op with
  | .add => (x + b) % 2 ^ 64
  | .and => x &&& b
  | .or => x ||| b
  | .xor => x ^^^ b
  | .min => if (BitVec.ofNat 64 b).toInt < (BitVec.ofNat 64 x).toInt then b else x
  | .max => if (BitVec.ofNat 64 x).toInt < (BitVec.ofNat 64 b).toInt then b else x
  | .minn => if b < x then b else x
  | .maxn => if x < b then b else x
  | .fadd => (addF .f32 .rne false 0 x (b % 2 ^ 32)).1
  | .swap => b
  | .cas => if x = c then b else x
  | .casw => if x = c % 2 ^ 32 then b % 2 ^ 32 else x

/-- Bytes of an atomic (R116). -/
def atomicBytes : AmoOp → Nat
  | .fadd | .casw => 4
  | _ => 8

end Sys2Proof.Claims

/-- R149, R158, R160 (with R59, R150, R154, R159): `lds` alone in its bundle, once its checks pass: where the guard selects it, the
value, zero- or sign-extended, is in flight to sd for the count of its space, with the fault of its first failing word; else
nothing. R157, R158, R160 (with R150, R154, R159): `sts` alone in its bundle, once its checks pass, and with no pending node that
reads what it writes: where the guard selects it, its bytes are written at sbase + off20 unless a word fails it, and then nothing
is written; its due-count check carries the fault. Where the guard does not select it, it does nothing. -/
def Obligations.ScalarLoadsAndStores : Prop :=
  (∀ zx g sd (m : MAddr) w s, let i := Instr.lds zx g sd m w
    let sp := codeOf m.space
    let a := addressOf s.me m.sbase m.off
    let n := w.bytes
    let x := numberAt s.ready s.cur sp a.toNat n
    let v := if zx then BitVec.ofNat 64 x else (BitVec.ofNat (8 * n) x).signExtend 64
    i.wf = true → Issues i s → accepted s sp a n n → unread s.ready s.cur (span s.ready s.cur sp a.toNat n) →
    exec i s = .next (s.issue i s.ready
      (if guardOn s.me g then s.me.withEntry
        { result s i (countOf m.space) (if sd = 0 then .none else .scalar (s.me.sphys sd.toNat)) (v.setWidth 2048) with
          fault := firstFault s i s.ready sp 1 (scalarSpan a.toNat n true) }
       else s.me) none)) ∧
  (∀ g sb (m : MAddr) w s, let i := Instr.sts g sb m w
    let sp := codeOf m.space
    let a := addressOf s.me m.sbase m.off
    let n := w.bytes
    let f := firstFault s i s.ready sp 2 (scalarSpan a.toNat n (decide (n < 4)))
    Issues i s → accepted s sp a n n → unused s.ready s.cur (span s.ready s.cur sp a.toNat n) →
    (guardOn s.me g = false → exec i s = .next (s.issue i s.ready s.me none)) ∧
    (guardOn s.me g = true → f ≠ none → exec i s = .next (storeIssue s i s.ready (countOf m.space) f)) ∧
    (guardOn s.me g = true → f = none → ∃ d, exec i s = .next (storeIssue s i d (countOf m.space) none) ∧
      Stored s.ready d s.cur sp a.toNat n (fun _ => true) fun b => (s.me.rdS sb).extractLsb' (8 * b) 8))

/-- R158, R161, R162 (with R30, R150, R154): `vld`, `vldl` and `vldb` alone in their bundles, once their checks pass: the register
receives the selected bytes of what memory held at the boundary, rotated for `vld` and replicated for `vldb`, with the fault of
the first failing word in order of address. A word fails where a selected element needs it and it has an uncorrectable error, and,
of a load that selects any element, where its core does not answer or the job has no allotment there (log entries 26 and 74).
R157, R158, R161, R162 (with R30, R54, R150, R154): `vst` and `vstl` alone in their bundles, once their checks pass and their
source is read, with no pending node that reads what they write: the selected bytes of the source, rotated for `vst`, are written,
unless a word fails the store, the first in order of address deciding, and then nothing is. -/
def Obligations.VectorLoadsAndStores : Prop :=
  ((∀ g r (m : MAddr) gran (rot : BitVec 6) s, let i := Instr.vld g (.v r) m gran rot
    let sp := codeOf m.space
    let a := addressOf s.me m.sbase m.off
    let word (j : Nat) : Nat × Nat × Bool :=
      (0, a.toNat + 4 * j, (List.range 4).any fun b => byteSel s.me g (granule gran) (4 * ((j + 64 - rot.toNat) % 64) + b))
    let none_ := (List.range 256).all fun b => !byteSel s.me g (granule gran) b
    i.wf = true → Issues i s → r.toNat < s.me.allot.vSize → accepted s sp a 256 4 →
    unread s.ready s.cur (span s.ready s.cur sp a.toNat 256) →
    ∃ v, exec i s = .next (s.issue i s.ready (s.me.withEntry (loadEntry s i (countOf m.space) r v
        (if none_ then none else firstFault s i s.ready sp 1 ((List.range 64).map word)))) none) ∧
      MergedLoad s g (granule gran) r.toNat
        (fun b => byteAt s.ready s.cur sp a.toNat (4 * ((b / 4 + rot.toNat) % 64) + b % 4)) v) ∧
  (∀ g r base off s, let i := Instr.vldl g (.v r) base off
    let a := addressOf s.me base off
    let word (j : Nat) : Nat × Nat × Bool := (0, a.toNat + 4 * j, byteSel s.me g 32 (4 * j))
    Issues i s → r.toNat < s.me.allot.vSize → accepted s 1 a 256 256 →
    unread s.ready s.cur (span s.ready s.cur 1 a.toNat 256) →
    ∃ v, exec i s = .next (s.issue i s.ready (s.me.withEntry (loadEntry s i 4 r v
        (firstFault s i s.ready 1 1 ((List.range 64).map word)))) none) ∧
      MergedLoad s g 32 r.toNat (fun b => byteAt s.ready s.cur 1 a.toNat b) v) ∧
  (∀ g r (m : MAddr) w s, let i := Instr.vldb g (.v r) m w
    let sp := codeOf m.space
    let a := addressOf s.me m.sbase m.off
    let n := w.bytes
    let none_ := (List.range 256).all fun b => !byteSel s.me g (8 * n) b
    i.wf = true → Issues i s → r.toNat < s.me.allot.vSize → accepted s sp a n n →
    unread s.ready s.cur (span s.ready s.cur sp a.toNat n) →
    ∃ v, exec i s = .next (s.issue i s.ready (s.me.withEntry (loadEntry s i (countOf m.space) r v
        (if none_ then none else firstFault s i s.ready sp 1 (scalarSpan a.toNat n true)))) none) ∧
      MergedLoad s g (8 * n) r.toNat (fun b => byteAt s.ready s.cur sp a.toNat (b % n)) v)) ∧
  ((∀ g a (m : MAddr) gran (rot : BitVec 6) s v w, let i := Instr.vst g a m gran rot
    let sp := codeOf m.space
    let ad := addressOf s.me m.sbase m.off
    let on (b : Nat) : Bool := byteSel s.me g (granule gran) b
    let word (j : Nat) : Nat × Nat × Bool :=
      let l := (List.range 4).map fun b => on (4 * ((j + 64 - rot.toNat) % 64) + b)
      (0, ad.toNat + 4 * j, l.any id && !l.all id)
    let any := (List.range 256).any on
    let f := if any then firstFault s i w sp 2 ((List.range 64).map word) else none
    let from_ (b : Nat) : Nat := 4 * ((b / 4 + 64 - rot.toNat) % 64) + b % 4
    i.wf = true → Issues i s → accepted s sp ad 256 4 → readOne s i a v w →
    (any = true → unused w s.cur (span w s.cur sp ad.toNat 256)) →
    (f ≠ none → exec i s = .next (storeIssue s i w (countOf m.space) f)) ∧
    (f = none → ∃ d, exec i s = .next (storeIssue s i d (countOf m.space) none) ∧
      Stored w d s.cur sp ad.toNat 256 (fun b => on (from_ b)) fun b => BitVec.ofNat 8 (elem v 8 (from_ b)))) ∧
  (∀ g a base off s v w, let i := Instr.vstl g a base off
    let ad := addressOf s.me base off
    i.wf = true → Issues i s → accepted s 1 ad 256 256 → readOne s i a v w →
    ((List.range 256).any (byteSel s.me g 32) = true → unused w s.cur (span w s.cur 1 ad.toNat 256)) →
    ∃ d, exec i s = .next (storeIssue s i d 4 none) ∧
      Stored w d s.cur 1 ad.toNat 256 (byteSel s.me g 32) fun b => BitVec.ofNat 8 (elem v 8 b)))

/-- R163 (with R157, R158): `vgth` and `vsct` alone in their bundles, every selected lane aligned and in the allotment: each selected
lane of the register receives the word at its address; each selected lane of the source is written to its address, the highest lane
that names a word standing, and every other byte of on-chip memory stays. -/
def Obligations.GatherAndScatter : Prop :=
  (∀ g r base off idx s, let i := Instr.vgth g (.v r) base off idx
    let ls := lanesOf s g base off idx
    Issues i s → r.toNat < s.me.allot.vSize → indexReadable s idx → (∀ x ∈ ls, accepted s 0 x.2 4 4) →
    unread s.ready s.cur (ls.flatMap fun x => span s.ready s.cur 0 x.2.toNat 4) →
    ∃ v, exec i s = .next (s.issue i s.ready (s.me.withEntry (loadEntry s i 8 r v
        (firstFault s i s.ready 0 1 (ls.map fun x => (x.1, x.2.toNat, true))))) none) ∧
      MergedLoad s g 32 r.toNat (fun b => byteAt s.ready s.cur 0 (laneAddress s base off idx (b / 4)).toNat (b % 4)) v) ∧
  (∀ g a base off idx s v w, let i := Instr.vsct g a base off idx
    let ls := lanesOf s g base off idx
    i.wf = true → Issues i s → readOne s i a v w → indexReadable s idx → (∀ x ∈ ls, accepted s 0 x.2 4 4) →
    unused w s.cur (ls.flatMap fun x => span w s.cur 0 x.2.toNat 4) →
    ∃ d, exec i s = .next (storeIssue s i d 8 none) ∧
      d = { w with
        spad := d.spad, lanes := d.lanes, dspad := d.dspad, badSpad := d.badSpad, badLane := d.badLane, badDie := d.badDie } ∧
      (∀ p, rdPlace d p =
        match (ls.filter fun x => decide (placeOf w s.cur 0 x.2.toNat ≤ p ∧ p < placeOf w s.cur 0 x.2.toNat + 4)).getLast? with
        | some x => BitVec.ofNat 8 (elem v 8 (4 * x.1 + (p - placeOf w s.cur 0 x.2.toNat)))
        | none => rdPlace w p) ∧
      ∀ q, badWord d q = (badWord w q && !ls.any fun x => q / 4 == placeOf w s.cur 0 x.2.toNat / 4))

/-- R116, R157, R164: `amol` alone in its bundle, once its checks pass, with no pending node that reads what it writes: where the
guard selects it, the old value, zero-extended, is in flight to sd for six counts, and the new value of the table is written; a word
with an uncorrectable error faults the result and nothing is written. -/
def Obligations.LocalAtomics : Prop :=
  ∀ (x : Amo) s, let i := Instr.amol x
    let a := s.me.rdS x.sa
    let n := atomicBytes x.op
    let old := numberAt s.ready s.cur 0 a.toNat n
    let new := atomicNew x.op old (s.me.rdS x.sb).toNat (s.me.rdS x.sc).toNat
    let f := firstFault s i s.ready 0 3 (scalarSpan a.toNat n true)
    let e : Entry :=
      { result s i 6 (if x.sd = 0 then .none else .scalar (s.me.sphys x.sd.toNat)) ((BitVec.ofNat 64 old).setWidth 2048) with
        fault := f }
    Issues i s → accepted s 0 a n n → unused s.ready s.cur (span s.ready s.cur 0 a.toNat n) →
    (guardOn s.me x.g = false → exec i s = .next (s.issue i s.ready s.me none)) ∧
    (guardOn s.me x.g = true → f ≠ none → exec i s = .next (s.issue i s.ready (s.me.withEntry e) none)) ∧
    (guardOn s.me x.g = true → f = none → ∃ d, exec i s = .next (s.issue i d ((d.ctx s.cur).withEntry e) none) ∧
      Stored s.ready d s.cur 0 a.toNat n (fun _ => true) fun b => (BitVec.ofNat 64 new).extractLsb' (8 * b) 8)

/-- R149, R151, R158, R163, R363: what stops an on-chip access at issue, whatever its guard. Of a scalar one, and of a vector one whose
operands may be read and whose destination may be written: a misaligned address traps MISALIGNED, and otherwise one that leaves the
space traps SPAD_RANGE, with the address in UTINFO2; the die scratchpad of another job traps ACCESS_VIOLATION where neither does. Of a
gather or scatter, the lanes that the guard selects are checked, and the lowest misaligned lane decides, or where there is none the
lowest that leaves the allotment. -/
def Obligations.OnChipIssueTraps : Prop :=
  (∀ i s k sp a n al,
      (∃ zx g sd m w, i = Instr.lds zx g sd m w ∧ sp = codeOf m.space ∧ a = addressOf s.me m.sbase m.off ∧ n = w.bytes ∧ al = n ∧ k = 1) ∨
      (∃ g sb m w, i = Instr.sts g sb m w ∧ sp = codeOf m.space ∧ a = addressOf s.me m.sbase m.off ∧ n = w.bytes ∧ al = n ∧ k = 2) ∨
      (∃ x : Amo, i = Instr.amol x ∧ sp = 0 ∧ a = s.me.rdS x.sa ∧ n = atomicBytes x.op ∧ al = n ∧ k = 3) ∨
      (∃ g d m gran rot, i = Instr.vld g d m gran rot ∧ (s.env i).dstHits s.ready d = [] ∧ sp = codeOf m.space ∧
        a = addressOf s.me m.sbase m.off ∧ n = 256 ∧ al = 4 ∧ k = 1) ∨
      (∃ g d m w, i = Instr.vldb g d m w ∧ (s.env i).dstHits s.ready d = [] ∧ sp = codeOf m.space ∧
        a = addressOf s.me m.sbase m.off ∧ n = w.bytes ∧ al = n ∧ k = 1) ∨
      (∃ g d base off, i = Instr.vldl g d base off ∧ (s.env i).dstHits s.ready d = [] ∧ sp = 1 ∧ a = addressOf s.me base off ∧
        n = 256 ∧ al = 256 ∧ k = 1) ∨
      (∃ g v m gran rot, i = Instr.vst g v m gran rot ∧ (s.env i).srcsHits s.ready [] [v] = [] ∧ sp = codeOf m.space ∧
        a = addressOf s.me m.sbase m.off ∧ n = 256 ∧ al = 4 ∧ k = 2) ∨
      (∃ g v base off, i = Instr.vstl g v base off ∧ (s.env i).srcsHits s.ready [] [v] = [] ∧ sp = 1 ∧ a = addressOf s.me base off ∧
        n = 256 ∧ al = 256 ∧ k = 2) →
    Issues i s →
    (a.toNat % al ≠ 0 → exec i s = .next (s.trapped { trapOf s i 0x08 with info2 := a, va := a, access := k })) ∧
    (a.toNat % al = 0 → outOfSpace s.me sp a.toNat n = true →
      exec i s = .next (s.trapped { trapOf s i 0x09 with info2 := a, va := a, access := k })) ∧
    (a.toNat % al = 0 → outOfSpace s.me sp a.toNat n = false → sp = 3 → ¬ accepted s sp a n al →
      exec i s = .next (s.trapped { trapOf s i 0x0B with va := a, access := k }))) ∧
  ∀ i s k g base off idx,
    (∃ d, i = Instr.vgth g d base off idx ∧ (s.env i).dstHits s.ready d = [] ∧ k = 1) ∨
      (∃ v, i = Instr.vsct g v base off idx ∧ (s.env i).srcsHits s.ready [] [v] = [] ∧ k = 2) →
    Issues i s → indexReadable s idx →
    let ls := lanesOf s g base off idx
    (∀ x, ls.find? (fun x => x.2.toNat % 4 != 0) = some x →
      exec i s = .next (s.trapped { trapOf s i 0x08 with info2 := x.2, va := x.2, access := k })) ∧
    (∀ x, (∀ y ∈ ls, y.2.toNat % 4 = 0) → ls.find? (fun x => outOfSpace s.me 0 x.2.toNat 4) = some x →
      exec i s = .next (s.trapped { trapOf s i 0x09 with info2 := x.2, va := x.2, access := k }))

namespace Sys2Proof.Claims

/-! ## Scalar accesses to global memory (R70, R74, R80, R93, R96 to R98, R104, R109, R112 to R117, R188) -/

/-- A scalar global access: guard, operation, scope, destination, address, width, operand and compare value. -/
structure GlobalForm where
  g : Guard
  op : GOp
  sc : Scope
  sd : BitVec 6
  va : Word
  n : Nat
  data : Word
  cmp : Word
  deriving DecidableEq, Repr

/-- Bytes of a `red` (R117). -/
def redWide : RedOp → Nat
  | .addI64 => 8
  | _ => 4

/-- Bytes of an `ldg` (R114). -/
def loadWide : LdgOp → Nat
  | .b | .bu => 1
  | .h | .hu => 2
  | .w | .wu => 4
  | .d => 8

/-- The table of R114 to R117. -/
def globalForm (k : Ctx) : Instr → Option GlobalForm
  | .ldg op g sc sd sa => some ⟨g, .ldg op, sc, sd, k.rdS sa, loadWide op, 0, 0⟩
  | .stg w g sc sa sb => some ⟨g, .stg w, sc, 0, k.rdS sa, w.bytes, k.rdS sb, 0⟩
  | .amo x sc => some ⟨x.g, .amo x.op, sc, x.sd, k.rdS x.sa, atomicBytes x.op, k.rdS x.sb, k.rdS x.sc⟩
  | .red op g sc sa sb => some ⟨g, .red op, sc, 0, k.rdS sa, redWide op, k.rdS sb, 0⟩
  | _ => none

/-- The kind of access for permissions (R80), and the ACCESS bits of its record (R403). -/
def kindOf : GOp → Access
  | .ldg _ => .read
  | .stg _ => .write
  | .amo _ => .amo
  | .red _ => .red
def accessBits : GOp → Nat
  | .ldg _ => 1
  | .stg _ | .red _ => 2
  | .amo _ => 3

/-- An operation whose checks are all that its due count waits for (R113, R115, R117). -/
def checksAlone : GOp → Bool
  | .stg _ | .red _ => true
  | _ => false

/-- The access that an instruction makes, with its translation. -/
def accessOf (s : State) (i : Instr) (f : GlobalForm) (pa : Nat) (cmpAttr : Bool) : GAcc :=
  { tag := s.me.nextTag + 1, op := f.op, va := f.va, pa := pa, bytes := f.n, data := f.data, cmp := f.cmp
    scope := if s.me.spr' 0x0D0 = 0 then .dom else f.sc
    cmpAttr := cmpAttr, slot := bits (encode true i) 60 3, opc := bits (encode true i) 52 8, pc := s.me.pc
    priv := s.me.privNow, win := ⟨s.me.spr' 0x040, s.me.spr' 0x041, s.me.spr' 0x042⟩, asked := false, susp := false }

/-- The context with the entry of an access, which has no value yet, due after 64 counts. -/
def accessed (s : State) (i : Instr) (f : GlobalForm) : Ctx :=
  { s.me.withEntry
      { result s i 64 (if f.sd = 0 then .none else .scalar (s.me.sphys f.sd.toNat)) 0 with
        ready := false, acc := s.me.nextTag + 1 } with
    nextTag := s.me.nextTag + 1 }

/-- The device in which the access is translated: its entry is in flight, and where its address lies outside the heap window and
no translation of it is cached, a walk has read the tables and cached what it found (R76, R82, R92). -/
def translated (s : State) (i : Instr) (f : GlobalForm) : Dev :=
  walkedIn (s.ready.setCtx s.cur (accessed s i f)) s.cur s.me.win f.va

/-- The translation of the access, by the window and at the privilege of its issue (R70, R74). -/
def translation (s : State) (i : Instr) (f : GlobalForm) : Xlate := accXlate (translated s i f) s.cur (accessOf s i f 0 false)

/-- The entries that carry the access's tag receive a value. -/
def supplied (s : State) (k : Ctx) (v : Word) : Ctx :=
  k.updAcc (s.me.nextTag + 1) fun e => { e with ready := true, val := v.setWidth 2048 }

/-- The trap of a failed access (R112). -/
def accessTrap (s : State) (i : Instr) (f : GlobalForm) (cause : Nat) : TrapRec :=
  { (default : TrapRec) with
    cause := cause, info0 := f.va, access := accessBits f.op, va := f.va, slot := bits (encode true i) 60 3
    opc := bits (encode true i) 52 8, acc := s.me.nextTag + 1
    info1 := BitVec.ofNat 64 (bits (encode true i) 52 8 + bits (encode true i) 60 3 * 512) }

/-- The access may issue: its address is aligned and is translated at all, no pending node reads what it writes, and its entry
has room (R70, R74, R112, R255, R365). -/
def mayAccess (s : State) (f : GlobalForm) : Prop :=
  f.va.toNat % f.n = 0 ∧ issueViolation s.me f.va (kindOf f.op) = false ∧ s.me.outstanding ≤ 31 ∧
  ((∃ op, f.op = .ldg op) ∨ aliasStarts s.ready s.cur [(2 ^ 62 + f.va.toNat, 2 ^ 62 + f.va.toNat + f.n - 1)] = [])

/-- The extension of a loaded number (R114). -/
def loaded (op : LdgOp) (x : Nat) : Word :=
  match op with
  | .b => (BitVec.ofNat 8 x).signExtend 64
  | .h => (BitVec.ofNat 16 x).signExtend 64
  | .w => (BitVec.ofNat 32 x).signExtend 64
  | _ => BitVec.ofNat 64 x

/-- Bytes of a line, and a line with some of its bytes replaced by those of a number. -/
def lineByte (v : Line) (o : Nat) : Byte := v.extractLsb' (8 * o) 8
def Replaced (v w : Line) (off n x : Nat) : Prop :=
  ∀ o, o < 128 → lineByte w o = if off ≤ o ∧ o < off + n then BitVec.ofNat 8 (x / 2 ^ (8 * (o - off))) else lineByte v o

/-- The access's line, its offset there, and the state its holder, the L2 of the context's die, has of it (R92). -/
def holderHere (s : State) : Nat := 16 * (s.cur / 2 ^ 11 % 64) + s.cur / 2 ^ 8 % 8

end Sys2Proof.Claims

/-- R112, R113 (with R24, R30, R70, R74, R98): an `ldg`, `stg`, `amo` or `red` alone in its bundle. Where the guard does not select
it, it has no effect. Where it does, it issues with its entry in flight for 64 counts, and: behind an access that a page fault
suspends it waits its turn; with a failed translation its entry carries the trap, kept for firmware unless it is a page fault, which
suspends it in place; and with no tokens for its line, and no request outstanding, its holder asks the home. The translation uses
the heap window of the issue, and what it reads of the page tables it reads before (log entry 86). -/
def Obligations.GlobalAccessesIssue : Prop :=
  ∀ i s f, globalForm s.me i = some f → i.wf = true → Issues i s → mayAccess s f →
    let D := translated s i f
    let k := D.ctx s.cur
    (guardOn s.me f.g = false → exec i s = .next (s.issue i s.ready s.me none)) ∧
    (guardOn s.me f.g = true →
      (∀ b r pa cmp, s.me.gq = b :: r → b.susp = true → translation s i f = .ok pa cmp →
        exec i s = .next (s.issue i D
          { (if checksAlone f.op then supplied s k 0 else k) with gq := s.me.gq ++ [accessOf s i f pa cmp] } none)) ∧
      (∀ cause, s.me.gq = [] → translation s i f = .fault cause →
        let k := k.updAcc (s.me.nextTag + 1) fun e => { e with fault := some (accessTrap s i f cause) }
        exec i s = .next (s.issue i D
          (if cause = 0x0A then { k with gq := [{ accessOf s i f 0 false with susp := true }] }
           else { k with failed := k.failed ++ [accessOf s i f 0 false] }) none)) ∧
      (∀ pa cmp, s.me.gq = [] → translation s i f = .ok pa cmp → paKind pa ≠ .system → (∀ op, f.op ≠ .red op) →
        (D.hl (pa / 128) (holderHere s)).tokens = 0 → (D.hl (pa / 128) (holderHere s)).req = none →
        let write := kindOf f.op != .read
        let x := D.hl (pa / 128) (holderHere s)
        exec i s = .next (s.issue i
          ((D.setHl (pa / 128) (holderHere s)
              { x with req := some { write := write, attempt := 1, first := D.cycle, sent := D.cycle, belay := false } }).send
            (if write then .twrite (pa / 128) (holderHere s) 1 else .tread (pa / 128) (holderHere s) 1))
          { (if checksAlone f.op then supplied s k 0 else k) with gq := [{ accessOf s i f pa cmp with asked := true }] } none)))

/-- R93, R109, R113 to R117: an `ldg`, `stg` or `amo` of domain scope alone in its bundle, with no access before it, to a line that
the L2 of its die holds with its data and with the tokens it needs, once the access is translated: it performs. The load's value is that of the line; the store's
bytes replace the line's; the atomic's sd is the old value, and the new value of the table replaces it; no other byte of the line
changes, and no other line. A `red` whose die has the line's entry adds its operand to the entry. -/
def Obligations.GlobalAccessesPerform : Prop :=
  ∀ i s f pa cmp, globalForm s.me i = some f → i.wf = true → Issues i s → mayAccess s f → guardOn s.me f.g = true →
    s.me.gq = [] → translation s i f = .ok pa cmp → paKind pa ≠ .system → pa % 128 + f.n ≤ 128 →
    (accessOf s i f pa cmp).scope = .dom → (translated s i f).dataBad (pa / 128) = false →
    let D := translated s i f
    let k := D.ctx s.cur
    let h := holderHere s
    let x := D.hl (pa / 128) h
    let off := pa % 128
    (∀ op v, f.op = .ldg op → 1 ≤ x.tokens → x.data = some v →
      exec i s = .next (s.issue i D (supplied s k (loaded op (v.toNat / 2 ^ (8 * off) % 2 ^ (8 * f.n)))) none)) ∧
    (∀ w v, f.op = .stg w → x.tokens = 1024 → x.data = some v →
      ∃ v', Replaced v v' off f.n f.data.toNat ∧
        exec i s = .next (s.issue i (D.setHl (pa / 128) h { x with dirty := true, cmp := cmp, data := some v' })
          (supplied s k 0) none)) ∧
    (∀ op v, f.op = .amo op → x.tokens = 1024 → x.data = some v →
      let old := v.toNat / 2 ^ (8 * off) % 2 ^ (8 * f.n)
      ∃ v', Replaced v v' off f.n (atomicNew op old f.data.toNat f.cmp.toNat) ∧
        exec i s = .next (s.issue i (D.setHl (pa / 128) h { x with dirty := true, cmp := cmp, data := some v' })
          (supplied s k (BitVec.ofNat 64 old)) none)) ∧
    (∀ op u, f.op = .red op → (D.dies.get (s.cur / 2 ^ 8 % 2 ^ 9)).upd.find? (fun y => y.line == pa / 128) = some u →
      u.op = op → (D.home (pa / 128)).upd = some op →
      exec i s = .next (s.issue i
        { D with
          dies := D.dies.update (s.cur / 2 ^ 8 % 2 ^ 9) fun y =>
            { y with upd := y.upd.filter (fun z => z.line != pa / 128) ++ [{ u with ops := u.ops ++ [(off / f.n, f.data)] }] }
          homes := D.homes.update (pa / 128) fun y => { y with reds := y.reds + 1 } }
        (supplied s k 0) none))

namespace Sys2Proof.Claims

/-! ## Tile instructions (R190, R191, R238 to R246, R255, R259 to R267, R277, R281 to R283, R287) -/

/-- The node that a tile name is bound to (R35). -/
def tileOf (k : Ctx) (z : BitVec 6) : Option Node := (k.names.get z.toNat).map fun n => k.nodes.get n

/-- A tile of a floating-point type without scales (R238, R261). -/
def plainFloat (n : Node) : Prop :=
  n.sblk = 0 ∧ (n.tscale = 0 ∨ n.tscale = 0x3F800000) ∧ (n.ety = .f32 ∨ n.ety = .bf16 ∨ n.ety = .f16)

/-- A node as its append records it: pending in every panel, with the state of the generator, the heap window and its place in the
program (R74, R240, R241). -/
def freshNode (s : State) (op : NOp) (a b : Option Nat) (et : ET) : Node :=
  { (default : Node) with
    used := true, op := op, a := a, b := b, seq := (sweep s.me).seq, ety := et, pc := s.me.pc, bclk := s.me.bclk
    rngctr := s.me.spr' 0x032, key0 := s.me.spr' 0x030, key1 := s.me.spr' 0x031, gtag := s.me.nextTag
    win := ⟨s.me.spr' 0x040, s.me.spr' 0x041, s.me.spr' 0x042⟩, ps := List.replicate 8 .pending }

/-- A tile instruction that appends a node and binds a name: guard, name, rounding mode, node, tile operands, and its checks. -/
structure TileForm where
  g : Guard
  zd : BitVec 6
  rm : RM
  node : Node
  srcs : List (BitVec 6)
  ok : Prop

/-- The table of R260 to R264. -/
def tileForm (s : State) : Instr → Option TileForm
  | .tld g zd tid r =>
    let t := (s.me.tids.get tid.toNat).getD 0
    let R := (s.me.rdS r).toNat % 2 ^ 16
    let C := (s.me.rdS r).toNat / 2 ^ 16 % 2 ^ 16
    some ⟨g, zd, .rne,
      { freshNode s (.tld t R C) none none (tdType t) with
        tscale := tdScale t, sblk := tdBlock t, kdim := t.getLsbD 68, cbs := if tdType t = .cb16 then [tdCb t] else [] },
      [], (s.me.tids.get tid.toNat).isSome = true ∧ (tileType (tdEt t)).isSome = true ∧ R < tdRows t ∧ C < tdCols t⟩
  | .tew op g rm zd a b => some ⟨g, zd, modeOf s.me rm,
      freshNode s (.tew op (modeOf s.me rm)) (s.me.names.get a.toNat) (s.me.names.get b.toNat)
        ((tileOf s.me a).elim .f32 Node.ety), [a, b],
      ∃ m n, tileOf s.me a = some m ∧ tileOf s.me b = some n ∧ plainFloat m ∧ plainFloat n ∧ m.ety = n.ety⟩
  | .tews op g rm zd a r => some ⟨g, zd, modeOf s.me rm,
      freshNode s (.tews op (modeOf s.me rm) ((s.me.rdS r).setWidth 32)) (s.me.names.get a.toNat) none
        ((tileOf s.me a).elim .f32 Node.ety), [a], ∃ m, tileOf s.me a = some m ∧ plainFloat m⟩
  | .tfn op g zd a => some ⟨g, zd, .rne,
      freshNode s (.tfn op) (s.me.names.get a.toNat) none ((tileOf s.me a).elim .f32 Node.ety), [a],
      ∃ m, tileOf s.me a = some m ∧ plainFloat m⟩
  | .tmap g zd a r => some ⟨g, zd, .rne,
      freshNode s (.tmap (s.me.rdS r)) (s.me.names.get a.toNat) none ((tileOf s.me a).elim .f32 Node.ety), [a],
      ∃ m, tileOf s.me a = some m ∧ m.sblk = 0 ∧ (m.tscale = 0 ∨ m.tscale = 0x3F800000) ∧ m.ety ≠ .cb16 ∧ m.ety ≠ .e2m1 ∧
        (s.me.rdS r &&& 0xFFFFFFFFC0C0FE00) = 0⟩
  | .tcvt dst g rm sat zd a => some ⟨g, zd, modeOf s.me rm,
      { freshNode s (.tcvt dst (modeOf s.me rm) sat) (s.me.names.get a.toNat) none
          (match dst with | .f32 => .f32 | .bf16 => .bf16 | .f16 => .f16 | .e4m3 => .e4m3 | .e5m2 => .e5m2 | .e2m1 => .e2m1) with
        cbs := (tileOf s.me a).elim [] fun m => if m.ety = .cb16 then m.cbs else [] }, [a], (tileOf s.me a).isSome = true⟩
  | _ => none

/-- The lowest free entry of the thunk table after what can go has gone (R242). -/
def freeAt (s : State) (n : Nat) : Prop :=
  n < 256 ∧ ((sweep s.me).nodes.get n).used = false ∧ ∀ j, j < n → ((sweep s.me).nodes.get j).used = true

/-- The context with a node in entry `n`, and a name bound to it where one is given. -/
def withNode (s : State) (n : Nat) (x : Node) (zd : Option (BitVec 6)) : Ctx :=
  let k := sweep s.me
  sweep { k with
    nodes := k.nodes.set n x, seq := k.seq + 1
    names := match zd with | some z => k.names.set z.toNat (some n) | none => k.names }

/-- A node after others have gone: it is what it was, but for operands that it needs no longer (R242). -/
def nodeKept (x y : Node) : Prop :=
  ∃ a b w, y = { x with a := a, b := b, waits := w } ∧ (a = x.a ∨ a = none) ∧ (b = x.b ∨ b = none) ∧ w.all x.waits.contains = true

/-- An append that rounds with SR advances RNGCTR by 1024 and discards the random queue (R191). -/
def afterDraw (rm : RM) (k : Ctx) : Ctx :=
  if rm = .sr then { k with rq := [] }.setSpr 0x032 (k.spr' 0x032 + 1024) else k

/-- CHAIN_PROTOCOL with its reason (R287). -/
def protocolTrap (s : State) (i : Instr) (reason : Nat) (h : Word) (pos : Nat) : TrapRec :=
  { trapOf s i 0x13 with
    info0 := BitVec.ofNat 64 reason, info2 := h, info3 := BitVec.ofNat 64 pos
    info1 := BitVec.ofNat 64 (bits (encode true i) 52 8 + bits (encode true i) 60 3 * 512) }

/-- A demand that an instruction leaves in force (R247). -/
def demandOf (s : State) (i : Instr) (n : Nat) (mask : BitVec 8) : Demand :=
  { node := n, mask := mask, pc := s.me.pc, slot := bits (encode true i) 60 3, opc := bits (encode true i) 52 8 }

/-- A link that the issuing context owns and that is bound (R274, R277). -/
def ownLink (s : State) (x : Chain) (h : Word) (pos : Nat) (t : Slot) : Prop :=
  let l := x.link pos
  pos < x.links.length ∧ l.bound = 1 ∧ l.core = s.cur % 2 ^ 17 ∧ l.ctx = s.cur / 2 ^ 17 % 4 ∧
  boundSlot s.ready x h pos = some t ∧ t.state ≠ .splicedOut

/-- What a demand writes in a chain: links and slots, and nothing else of the device. -/
def onlyLinks (d0 d : Dev) : Prop := d = { d0 with chains := d.chains, slots := d.slots }

end Sys2Proof.Claims

/-- R240, R242, R259 to R264 (with R30, R191): `tld`, `tew`, `tews`, `tfn`, `tmap` and `tcvt` alone in their bundles, their checks
passed and an entry of the table free: where the guard selects them, the node of the table is in the lowest free entry, pending in
all its panels, the name is bound to it, and nothing is computed or read. With the guard off they do nothing. A tile operand whose
name is unbound traps ILLEGAL_OPERAND, whatever the guard. A node that a name is bound to is never reclaimed; a node that stays
keeps its panels and values. -/
def Obligations.TileNodesAreAppended : Prop :=
  (∀ i f s n, tileForm s i = some f → Issues i s →
    ((∃ z ∈ f.srcs, s.me.names.get z.toNat = none) → exec i s = .next (s.trapped (trapOf s i 0x02))) ∧
    (f.ok → guardOn s.me f.g = false → exec i s = .next (s.issue i s.ready s.me none)) ∧
    (f.ok → guardOn s.me f.g = true → freeAt s n →
      exec i s = .next (s.issue i s.ready (afterDraw f.rm (withNode s n f.node (some f.zd))) none))) ∧
  (∀ k z n, k.names.get z = some n → nodeKept (k.nodes.get n) ((sweep k).nodes.get n)) ∧
  ∀ k, sweep k = { k with nodes := (sweep k).nodes, holds := (sweep k).holds } ∧
    ∀ n, nodeKept (k.nodes.get n) ((sweep k).nodes.get n) ∨ (sweep k).nodes.get n = default

/-- R247, R253, R265 to R267: `tdrop` and `tmov` change the binding of a name; `tforce` leaves a demand for the panels of its mask in
force once the arena has room for them, and traps THUNK_OVERFLOW with UTINFO0 = 2 where it has none; `tst` appends the store node,
which takes with it the pending panels whose source its rows overwrite (R255), demands its panels, and, of a global identifier, is
the last operation of queue Q2. Their checks passed, alone in their bundles; with the guard off none of them does anything. -/
def Obligations.TileNamesAndDemands : Prop :=
  (∀ g a s, Issues (.tdrop g a) s → (tileOf s.me a).isSome = true →
    exec (.tdrop g a) s = .next (s.issue (.tdrop g a) s.ready
      (if guardOn s.me g then sweep { s.me with names := s.me.names.set a.toNat none } else s.me) none)) ∧
  (∀ g zd a s, Issues (.tmov g zd a) s → (tileOf s.me a).isSome = true →
    exec (.tmov g zd a) s = .next (s.issue (.tmov g zd a) s.ready
      (if guardOn s.me g then sweep { s.me with names := s.me.names.set zd.toNat (s.me.names.get a.toNat) } else s.me) none)) ∧
  (∀ g a mask s n, let i := Instr.tforce g a mask
    Issues i s → s.me.names.get a.toNat = some n →
    (guardOn s.me g = false → exec i s = .next (s.issue i s.ready s.me none)) ∧
    (guardOn s.me g = true →
      (∀ d, reserve s.ready s.cur [(n, mask)] = some d →
        exec i s = .next (s.issue i s.ready
          { d.ctx s.cur with demands := (d.ctx s.cur).demands ++ [demandOf s i n mask] } none)) ∧
      (reserve s.ready s.cur [(n, mask)] = none →
        exec i s = .next (s.trapped { trapOf s i 0x11 with info0 := 2, info1 := 0 })))) ∧
  (∀ g tid r a mask s t m n, let i := Instr.tst g tid r a mask
    let R := (s.me.rdS r).toNat % 2 ^ 16
    let C := (s.me.rdS r).toNat / 2 ^ 16 % 2 ^ 16
    let x : Node :=
      { freshNode s (.store t R C mask) (s.me.names.get a.toNat) none m.ety with
        ps := (List.range 8).map fun p => if mask.getLsbD p then .pending else .done }
    let k := withNode s n x none
    Issues i s → s.me.tids.get tid.toNat = some t → tileOf s.me a = some m → m.sblk = 0 →
    (m.tscale = 0 ∨ m.tscale = 0x3F800000) → tdBlock t = 0 → tileType (tdEt t) = some m.ety → R < tdRows t → C < tdCols t →
    (guardOn s.me g = false → exec i s = .next (s.issue i s.ready s.me none)) ∧
    (∀ d, guardOn s.me g = true → (tdLoc t = 0 → (s.me.queues.get 2).length < 16) → freeAt s n →
      let al := storeAliases (s.ready.setCtx s.cur k) s.cur (k.nodes.get n) t R C mask
      reserve (s.ready.setCtx s.cur { k.setSpr 0x0C0 (k.spr' 0x0C0 + BitVec.ofNat 64 al.length) with
        nodes := k.nodes.update n fun y => { y with waits := y.waits ++ al } }) s.cur [(n, mask)] = some d →
      let k1 := d.ctx s.cur
      let k2 := { k1 with demands := k1.demands ++ [demandOf s i n mask] }
      let ticket := if (k1.tickets.get 2 + 1) % 2 ^ 32 = 0 then 1 else (k1.tickets.get 2 + 1) % 2 ^ 32
      let o : EngOp :=
        { kind := .tst n, ticket := ticket, cue := false, done := none, phase := .queued, result := 0, seq := k1.seq
          gtag := s.me.nextTag, pc := s.me.pc, pos := 0, fault := none
          win := ⟨s.me.spr' 0x040, s.me.spr' 0x041, s.me.spr' 0x042⟩, paid := default }
      exec i s = .next (s.issue i s.ready
        (if tdLoc t ≠ 0 then k2
         else { k2 with queues := k1.queues.set 2 (k1.queues.get 2 ++ [o]), seq := k1.seq + 1, tickets := k1.tickets.set 2 ticket })
        none)))

/-- R277, R279, R281 to R283, R287: the instructions of chains, alone in their bundles. A `tmma` to a bound link of the issuing
context that has room for it appends its contribution with the next ordinal and computes nothing; one too many traps CHAIN_PROTOCOL
with reason 4 and freezes the chain at the link. `chclose` by the owner of the tail of a live chain without a live close node
appends the close node and binds its name. `tforce.link` demands a link of a chain of its job that is not frozen, with at least its
task's priority, and demands nothing of a frozen one. A dead handle is CHAIN_PROTOCOL with reason 1, and a `tforce.link` beyond the
last link with reason 2. -/
def Obligations.ChainInstructions : Prop :=
  (∀ g ta tb a b r pos s A B x t, let i := Instr.tmma g ta tb a b r pos
    let h := s.me.rdS r
    let p := pos.toNat
    Issues i s → tileOf s.me a = some A → tileOf s.me b = some B → pairOk A B ta tb = true →
    (liveChain s.ready h = none → exec i s = .next (s.trapped (protocolTrap s i 1 h p))) ∧
    (liveChain s.ready h = some x → ownLink s x h p t →
      (t.count ≤ t.appended → exec i s = .next { s with
        dev := takeTrap (freezeAt s.dev h p 0x13 true) s.cur (protocolTrap s i 4 h p), bundle := none }) ∧
      (t.appended < t.count → guardOn s.me g = false → exec i s = .next (s.issue i s.ready s.me none)) ∧
      (∀ n, t.appended < t.count → guardOn s.me g = true → freeAt s n →
        let y : Node :=
          { freshNode s (.contrib h p t.appended ta tb) (s.me.names.get a.toNat) (s.me.names.get b.toNat) .f32 with
            ps := .pending :: List.replicate 7 .done, cbs := A.cbs ++ B.cbs }
        exec i s = .next (s.issue i
          { s.ready with slots := s.dev.slots.update (8 * (x.link p).core + (x.link p).slot) fun u =>
              { u with appended := u.appended + 1, held := u.demanded } }
          (withNode s n y none) none)))) ∧
  (∀ g zd r s, let i := Instr.chclose g zd r
    let h := s.me.rdS r
    Issues i s →
    (liveChain s.ready h = none → exec i s = .next (s.trapped (protocolTrap s i 1 h 0))) ∧
    (∀ x, liveChain s.ready h = some x → (x.link (x.links.length - 1)).core = s.cur % 2 ^ 17 →
      (x.link (x.links.length - 1)).ctx = s.cur / 2 ^ 17 % 4 → closeLives s.ready x = false →
      (guardOn s.me g = false → exec i s = .next (s.issue i s.ready s.me none)) ∧
      (∀ n, guardOn s.me g = true → freeAt s n →
        let et : ET := match x.outET with
          | .f32 => .f32 | .bf16 => .bf16 | .f16 => .f16 | .e4m3 => .e4m3 | .e5m2 => .e5m2 | .e2m1 => .e2m1
        exec i s = .next (s.issue i
          { s.ready with chains := s.dev.chains.update (h.toNat / 2 ^ 12 % 64 * 4096 + h.toNat % 4096) fun y =>
              { y with closed := some (s.cur, n), closer := s.me.serial, filled := none, latched := false } }
          (afterDraw (modeOf s.me x.rm) (withNode s n (freshNode s (.close h (modeOf s.me x.rm)) none none et) (some zd)))
          none)))) ∧
  (∀ g r pos s x, let i := Instr.tforceLink g r pos
    let h := s.me.rdS r
    Issues i s →
    (liveChain s.ready h = none → exec i s = .next (s.trapped (protocolTrap s i 1 h pos.toNat))) ∧
    (liveChain s.ready h = some x → x.job ≠ s.me.task.job → exec i s = .next (s.trapped (protocolTrap s i 1 h pos.toNat))) ∧
    (liveChain s.ready h = some x → x.job = s.me.task.job → x.links.length ≤ pos.toNat →
      exec i s = .next (s.trapped (protocolTrap s i 2 h pos.toNat))) ∧
    (liveChain s.ready h = some x → x.job = s.me.task.job → pos.toNat < x.links.length →
      (guardOn s.me g = false ∨ x.frozen = true → exec i s = .next (s.issue i s.ready s.me none)) ∧
      (guardOn s.me g = true → x.frozen = false → ∃ d, exec i s = .next (s.issue i d s.me none) ∧ onlyLinks s.ready d ∧
        ∃ y, liveChain d h = some y ∧ (y.link pos.toNat).demanded = true ∧ s.me.task.prio ≤ (y.link pos.toNat).prio)))

namespace Sys2Proof.Claims

/-! ## Engine instructions (R118 to R144, R275, R289 to R291, R305, R314 to R318) -/

/-- An engine instruction: its guard and status register, its queue, the operation with its completion word and starting point, the
refusals that R120 orders, with their codes, the record it captures (address, alignment, size), the places it forces first (R123),
what its issue does at once, the chain handle it returns, and whether a chain number is free for that. -/
structure EngineForm where
  g : Guard
  cue : Bool
  sd : BitVec 6
  q : Nat
  kind : EOp
  done : Option Nat := none
  pos : Nat := 0
  codes : List (Bool × Nat) := []
  record : Option (Word × Nat × Nat) := none
  places : List (Nat × Nat) := []
  act : Dev → Dev := id
  handle : Option (BitVec 6 × Word) := none
  room : Bool := true

/-- The bytes at an offset of a record in SPACE 0 (R121). -/
def field (s : State) (a off n : Nat) : Nat := numberAt s.ready s.cur 0 (a + off) n

/-- The completion word that a descriptor names (R121). -/
def doneOf (s : State) (a : Nat) : Option Nat := if field s a 0 4 = 2 ^ 32 - 1 then none else some (field s a 0 4)

/-- The slots of SPACE 0 that `rrel` gives back, and the block of a grammar session, as places. -/
def block (s : State) (a n : Nat) : List (Nat × Nat) := span s.ready s.cur 0 a n

/-- The code that an instruction is refused with: CANCELLED first, then the first of its refusals that applies, 0 for none (R120). -/
def refusalOf (s : State) (codes : List (Bool × Nat)) : Nat :=
  if (s.dev.job (s.cur / 2 ^ 11 % 64) s.me.task.job).cancelled then 6
  else (((codes.find? fun p => p.1).map Prod.snd).getD 0)

/-- The table of the engine instructions, but for `qfence` and `cttrdy.q`, which take no place in a queue, and for a `cttset` with a tile
source, which demands its panels as well. -/
def engineForm (s : State) (i : Instr) : Option EngineForm :=
  let E := s.env i
  let k := s.me
  match i with
  | .cpy x =>
    let a := (k.rdS x.sa).toNat
    let d := E.cpyDesc a
    some { g := x.g, cue := x.cue, sd := x.sd, q := 0, kind := .cpy d, done := doneOf s a, codes := E.cpyCodes a
           record := some (k.rdS x.sa, 32, 64), places := cpyPlaces s.ready s.cur d.dsp d.dstRange }
  | .subs x n =>
    let a := (k.rdS x.sa).toNat
    some { g := x.g, cue := x.cue, sd := x.sd, q := 1, kind := .subs n.toNat, done := doneOf s a, codes := E.subCodes a n.toNat
           record := some (k.rdS x.sa, 32, 64), act := fun w => updSub w s.cur n.toNat fun _ => E.subDesc a }
  | .unsub g cue sd n =>
    some { g := g, cue := cue, sd := sd, q := 1, kind := .unsub n.toNat (k.subs.get n.toNat).fin
           codes := [((k.subs.get n.toNat).state != 1, 5)]
           act := fun w => updSub w s.cur n.toNat fun u => { u with state := 2 } }
  | .rrel g cue sd n m =>
    let u := k.subs.get n.toNat
    some { g := g, cue := cue, sd := sd, q := 1, kind := .rrel n.toNat (u.rel + m.toNat)
           places := (List.range m.toNat).flatMap fun j => block s (u.ring + 256 * u.slotsz * ((u.rel + j) % u.nslot)) (256 * u.slotsz)
           act := fun w => updSub w s.cur n.toNat fun v => { v with rel := u.rel + m.toNat } }
  | .rfin g cue sd n m =>
    let u := k.subs.get n.toNat
    some { g := g, cue := cue, sd := sd, q := 1, kind := .rfin n.toNat (u.fin + m.toNat)
           places := (List.range m.toNat).flatMap fun j =>
             tilePlaces u.dst (u.coord (u.fin + j)).1.toNat (u.coord (u.fin + j)).2.toNat
           act := fun w => updSub w s.cur n.toNat fun v => { v with fin := u.fin + m.toNat } }
  | .strb x n =>
    let a := (k.rdS x.sa).toNat
    let t := if (k.tickets.get 0 + 1) % 2 ^ 32 = 0 then 1 else (k.tickets.get 0 + 1) % 2 ^ 32
    some { g := x.g, cue := x.cue, sd := x.sd, q := 0, kind := .strb n.toNat, done := doneOf s a, codes := E.strCodes a n.toNat
           record := some (k.rdS x.sa, 32, 64)
           act := fun w => w.updCtx s.cur fun k => { k with
             streams := k.streams.set n.toNat
               { E.strDesc a with
                 ticket := t, pushed := (k.streams.get n.toNat).pushed, susp := (k.streams.get n.toNat).susp
                 paidOut := (k.streams.get n.toNat).paidOut } } }
  | .stru g cue sd n =>
    let st := k.streams.get n.toNat
    some { g := g, cue := cue, sd := sd, q := 0, kind := .stru n.toNat, pos := if st.out then st.ticket else 0
           codes := [(!st.bound, 5)]
           act := fun w => w.updCtx s.cur fun k => { k with
             streams := k.streams.update n.toNat fun u => { u with bound := false, buf := [], susp := u.susp && u.out } } }
  | .cttrdy g cue sd n =>
    some { g := g, cue := cue, sd := sd, q := 3, kind := .cttrdy n.toNat
           act := fun w => w.updCtx s.cur fun x => { x with
             ctt := x.ctt.update n.toNat fun e => { e with ready := true, gtag := Nat.max e.gtag k.nextTag } } }
  | .cttset x clr n =>
    let a := (k.rdS x.sa).toNat
    match E.cttSrc a, refusalOf s (E.cttCodes a n.toNat), decide ((k.queues.get 3).length < 16) with
    | some (.node _), 0, true => none
    | _, _, _ => some { g := x.g, cue := x.cue, sd := x.sd, q := 3, kind := .cttset n.toNat, codes := E.cttCodes a n.toNat
                        record := some (k.rdS x.sa, 32, 64)
                        act := fun w =>
                          notify (w.updCtx s.cur fun k => { k with ctt := k.ctt.set n.toNat (E.armed w a n.toNat clr) }) s.cur n.toNat }
  | .chbuild x sb =>
    let a := (k.rdS x.sa).toNat
    let num := (freeChain s.ready (s.cur / 2 ^ 11 % 64)).getD 0
    let key := s.cur / 2 ^ 11 % 64 * 4096 + num
    let ch := E.newChain s.ready a num
    let h := BitVec.ofNat 64 (num + s.cur / 2 ^ 11 % 64 * 2 ^ 12 + ch.gen * 2 ^ 18)
    some { g := x.g, cue := x.cue, sd := x.sd, q := 5, kind := .chbuild h, done := doneOf s a, codes := E.chCodes a
           record := some (k.rdS x.sa, 16, 16 + 8 * E.chLinks a), handle := some (sb, h)
           room := (freeChain s.ready (s.cur / 2 ^ 11 % 64)).isSome
           act := fun w => { w with chains := w.chains.set key ch, gens := w.gens.set key ch.gen } }
  | .chsplice x sb pos =>
    let e := field s (k.rdS x.sa).toNat 0 8
    some { g := x.g, cue := x.cue, sd := x.sd, q := 5, kind := .chsplice (k.rdS sb) pos.toNat (BitVec.ofNat 64 e)
           codes := E.spliceCodes s.ready (k.rdS sb) e pos.toNat, record := some (k.rdS x.sa, 8, 8) }
  | .chresume x =>
    let h := k.rdS x.sb
    let ch := (liveChain s.ready h).getD default
    some { g := x.g, cue := x.cue, sd := x.sd, q := 5, kind := .chresume h
           codes := [((liveChain s.ready h).isNone, 5), ((liveChain s.ready h).any fun y => y.job != k.task.job, 7),
             (!ch.frozen || hardSite s.ready h ch, 5)] }
  | .chfree x =>
    let h := k.rdS x.sb
    some { g := x.g, cue := x.cue, sd := x.sd, q := 5, kind := .chfree h
           codes := [((liveChain s.ready h).isNone, 5), ((liveChain s.ready h).any fun y => y.job != k.task.job, 7)]
           act := fun w => { w with
             chains := w.chains.update (h.toNat / 2 ^ 12 % 64 * 4096 + h.toNat % 4096) fun y => { y with live := false } } }
  | .gload x sb cap =>
    let a := (k.rdS x.sa).toNat
    let t := k.rdS sb
    some { g := x.g, cue := x.cue, sd := x.sd, q := 4, kind := .gload a t cap.toNat, places := block s a blockSize
           codes := [(decide (2 ^ 48 ≤ t.toNat), 2), (t.toNat % 64 != 0, 3)]
           act := fun w => w.updCtx s.cur fun y => y.setSpr 0x070 (k.rdS x.sa) }
  | .gstep x =>
    let b := k.spr' 0x070
    some { g := x.g, cue := x.cue, sd := x.sd, q := 4, kind := .gstep b.toNat (k.rdS x.sb), codes := [(b == 0, 5)]
           places := block s b.toNat blockSize }
  | .gmask words x sb n =>
    let b := k.spr' 0x070
    let size := if words then 8192 * n.toNat else 256 * n.toNat
    some { g := x.g, cue := x.cue, sd := x.sd, q := 4
           kind := .gmask b.toNat (k.rdS x.sa).toNat (k.rdS sb).toNat n.toNat words, codes := [(b == 0, 5)]
           places := block s (b.toNat + 24) 1 ++ block s (k.rdS x.sa).toNat size }
  | _ => none

/-- The record that an instruction captures lies in SPACE 0, aligned, without an uncorrectable error, and no unfinished `tst` writes
it (R121). -/
def recordReadable (s : State) (r : Option (Word × Nat × Nat)) : Prop :=
  match r with
  | none => True
  | some (a, align, n) =>
    accepted s 0 a n align ∧ (∀ j, 4 * j < n → badWord s.ready (placeOf s.ready s.cur 0 (a.toNat + 4 * j)) = false) ∧
    unread s.ready s.cur (block s a.toNat n)

/-- The other checks at issue of the instructions that have some (R138, R274, R305, R315, R318). -/
def engineChecks (s : State) (i : Instr) : Prop :=
  let k := s.me
  let inSpad (a : Word) (align n : Nat) : Prop := a.toNat % align = 0 ∧ a.toNat + n ≤ k.allot.spLen
  let session := k.spr' 0x070 ≠ 0 → inSpad (k.spr' 0x070) 64 blockSize
  match i with
  | .rrel _ _ _ n m =>
    let u := k.subs.get n.toNat
    u.state = 1 ∧ u.mode = 1 ∧ u.rel + m.toNat ≤ u.fill
  | .rfin _ _ _ n m =>
    let u := k.subs.get n.toNat
    u.state = 1 ∧ (u.mode = 2 ∨ u.mode = 3) ∧ u.fin + m.toNat ≤ u.cnt1 * u.cnt2 ∧
      (if u.mode = 3 then u.fin + m.toNat ≤ u.fill else u.fin + m.toNat ≤ u.nslot + u.stored)
  | .cttset x _ _ =>
    let a := (k.rdS x.sa).toNat
    let b := (s.env i).rec_ a 32 4
    let m := (s.env i).peerCount a
    guardOn s.me x.g = true →
      badRecord s.ready s.cur b (16 * m) = none ∧ (m = 0 ∨ unread s.ready s.cur (block s b (16 * m)))
  | .chbuild x _ =>
    guardOn s.me x.g = true → (s.ready.feat 4).isSome = true ∨
      ∀ e ∈ (s.env i).chEntries (k.rdS x.sa).toNat, e / 2 ^ 11 % 64 = s.cur / 2 ^ 11 % 64
  | .gload x _ _ => inSpad (k.rdS x.sa) 64 blockSize
  | .gstep _ => session
  | .gmask words x sb n =>
    session ∧ inSpad (k.rdS x.sa) 256 (if words then 8192 * n.toNat else 256 * n.toNat) ∧ (k.rdS sb).toNat % 2048 = 0 ∧
      (k.rdS sb).toNat + 2048 * n.toNat ≤ 262144
  | _ => True

/-- The status that an engine instruction returns (R120). -/
def status (ticket q code : Nat) : Word := BitVec.ofNat 64 (code % 256 + q * 2 ^ 8 + ticket * 2 ^ 32)

/-- The entry of a scalar that an engine instruction returns. -/
def returned (s : State) (i : Instr) (sd : BitVec 6) (v : Word) : Entry :=
  result s i 2 (if sd = 0 then .none else .scalar (s.me.sphys sd.toNat)) (v.setWidth 2048)

/-- The ticket of the next operation of a queue: tickets count from 1 and skip 0 (R120). -/
def ticketOf (k : Ctx) (q : Nat) : Nat :=
  if (k.tickets.get q + 1) % 2 ^ 32 = 0 then 1 else (k.tickets.get q + 1) % 2 ^ 32

/-- A context with one more operation, queued last, in a queue. -/
def enqueued (s : State) (k : Ctx) (q : Nat) (cue : Bool) (kind : EOp) (done : Option Nat) (pos : Nat) : Ctx :=
  let o : EngOp :=
    { kind := kind, ticket := ticketOf k q, cue := cue, done := done, phase := .queued, result := 0, seq := k.seq
      gtag := s.me.nextTag, pc := s.me.pc, pos := pos, fault := none
      win := ⟨s.me.spr' 0x040, s.me.spr' 0x041, s.me.spr' 0x042⟩, paid := default }
  { k with
    queues := k.queues.set q (k.queues.get q ++ [o]), seq := k.seq + 1, tickets := k.tickets.set q (ticketOf k q) }

end Sys2Proof.Claims

/-- R118, R120 to R123 (with R30 and the entry of each instruction): an engine instruction alone in its bundle, its issue checks passed
and its record readable. Where the guard selects it: with its queue full, or, of a `chbuild`, with no chain number free for the
handle it is to return, it waits, and nothing changes but that its context is then in an engine wait; refused, it has no effect but its status, ticket 0 and the code of the first refusal that applies; otherwise,
nothing pending reading what it will write, it is accepted: its operation is last in its queue under the next ticket, and sd receives
the ticket, the queue and code 0. With the guard off it does nothing. -/
def Obligations.EngineInstructions : Prop :=
  ∀ i f s, engineForm s i = some f → i.wf = true → Issues i s → engineChecks s i →
    (guardOn s.me f.g = false → (f.record = none ∨ ∃ r, f.record = some r ∧ accepted s 0 r.1 r.2.2 r.2.1) →
      exec i s = .next (s.issue i s.ready s.me none)) ∧
    (guardOn s.me f.g = true → recordReadable s f.record →
      ((16 ≤ (s.me.queues.get f.q).length ∨ refusalOf s f.codes = 0 ∧ f.room = false) → exec i s = .next (held s true)) ∧
      ((s.me.queues.get f.q).length < 16 → refusalOf s f.codes ≠ 0 →
        let k := s.me.withEntry (returned s i f.sd (status 0 f.q (refusalOf s f.codes)))
        exec i s = .next (s.issue i s.ready
          (match f.handle with | some (sb, _) => k.withEntry (returned s i sb 0) | none => k) none)) ∧
      ((s.me.queues.get f.q).length < 16 → refusalOf s f.codes = 0 → f.room = true → aliasStarts s.ready s.cur f.places = [] →
        let w := f.act s.ready
        let k := (enqueued s (w.ctx s.cur) f.q f.cue f.kind f.done f.pos).withEntry
          (returned s i f.sd (status (ticketOf (w.ctx s.cur) f.q) f.q 0))
        exec i s = .next (s.issue i w
          (match f.handle with | some (sb, h) => k.withEntry (returned s i sb h) | none => k) none)))

/-- R144, R305 (with R120): `qfence`, `cttrdy.q` and a `cttset` with a tile source, alone in their bundles and selected. `qfence` takes no
place in a queue: it is the last of the context's fences, and those with nothing left to wait for complete; a cancelled job's is
refused. `cttrdy.q` gives the entry's word: its state, its latch, its notice and its stall in ticks. `cttset`, accepted, arms the
entry, sends the notices of a deadline that has passed, and leaves a demand for its source's panels in force, their units reserved;
where they find no room it traps THUNK_OVERFLOW with UTINFO0 = 2. With the guard off none of them does anything. -/
def Obligations.FencesAndEntries : Prop :=
  (∀ g cue sd mask s, let i := Instr.qfence g cue sd mask
    Issues i s →
    (guardOn s.me g = false → exec i s = .next (s.issue i s.ready s.me none)) ∧
    (guardOn s.me g = true → refusalOf s [] = 6 →
      exec i s = .next (s.issue i s.ready (s.me.withEntry (returned s i sd (status 0 0xFF 6))) none)) ∧
    (guardOn s.me g = true → refusalOf s [] = 0 →
      let k := { s.me with fences := s.me.fences ++ [⟨mask, s.me.seq, cue⟩], seq := s.me.seq + 1 }
      exec i s = .next (s.issue i s.ready ((settleFences k).withEntry (returned s i sd (status 0 0xFF 0))) none))) ∧
  (∀ g sd n s, let i := Instr.cttrdyQ g sd n
    let e := s.me.ctt.get n.toNat
    let now := (s.dev.pkg (s.cur / 2 ^ 11 % 64)).frame.toNat
    let stall := if e.state = 1 then min (2 ^ 32 - 1) (now - e.armTick) else e.stall
    let word := BitVec.ofNat 64 (e.state + (if e.ready then 4 else 0) + (if e.dlp then 8 else 0) + stall * 2 ^ 32)
    Issues i s → exec i s = .next (s.issue i s.ready
      (if guardOn s.me g then s.me.withEntry (returned s i sd word) else s.me) none)) ∧
  (∀ x clr (n : BitVec 5) s j d, let i := Instr.cttset x clr n
    let a := (s.me.rdS x.sa).toNat
    let E := s.env i
    let mask := BitVec.ofNat 8 (field s a 12 1)
    Issues i s → engineChecks s i →
    (guardOn s.me x.g = false → accepted s 0 (s.me.rdS x.sa) 64 32 → exec i s = .next (s.issue i s.ready s.me none)) ∧
    (guardOn s.me x.g = true → recordReadable s (some (s.me.rdS x.sa, 32, 64)) → E.cttSrc a = some (.node j) →
      (s.me.queues.get 3).length < 16 → refusalOf s (E.cttCodes a n.toNat) = 0 →
      (reserve s.ready s.cur [(j, mask)] = none → exec i s = .next (s.trapped { trapOf s i 0x11 with info0 := 2, info1 := 0 })) ∧
      (reserve s.ready s.cur [(j, mask)] = some d →
        let D := notify (d.setCtx s.cur
          { d.ctx s.cur with ctt := (d.ctx s.cur).ctt.set n.toNat (E.armed d a n.toNat clr) }) s.cur n.toNat
        let k2 := { D.ctx s.cur with demands := (D.ctx s.cur).demands ++ [demandOf s i j mask] }
        exec i s = .next (s.issue i D
          ((enqueued s k2 3 x.cue (.cttset n.toNat) none 0).withEntry
            (returned s i x.sd (status (ticketOf k2 3) 3 0))) none))))

namespace Sys2Proof.Claims

/-! ## Waiting, barriers, tasks and inspection (R199, R288, R325 to R331, R344 to R353) -/

/-- The bundle waits as an engine wait and nothing else changes. -/
def waits (s : State) : Out := .next (held s true)

/-- A scope is narrower than another (R325). -/
def narrowerScope : Scope → Scope → Bool
  | .die, .pkg | .die, .dom | .pkg, .dom => true
  | _, _ => false

/-- The pins of the context are the ones its holders know, one to a line, made by accesses of earlier bundles, and none has refused a
request. -/
def quietPins (s : State) : Prop :=
  (∀ p ∈ s.me.pins, let x := s.ready.hl p.line p.holder
    x.pinned = s.cur + 1 ∧ x.deferred = none ∧ p.refused = none ∧ p.tag ≤ s.me.nextTag) ∧
  s.me.pins.Pairwise fun a b => ¬ (a.line = b.line ∧ a.holder = b.holder)

/-- Nothing is left in the queues that a fence names: no operation, and no queue fence that belongs to one of them (R118, R330). -/
def emptied (k : Ctx) (q : Option (BitVec 6)) : Prop :=
  ∀ m, q = some m → (∀ j, j < 6 → m.getLsbD j = true → k.queues.get j = []) ∧ ∀ f ∈ k.fences, f.mask &&& m = 0#6

/-- The barrier that a context of a cluster names. -/
def barrierAt (s : State) (b : Nat) : Nat := s.cur / 2 ^ 6 % 2 ^ 11 * 16 + b

/-- A barrier after one arrival (R351). -/
def arrivedOnce (x : Barrier) : Barrier :=
  if x.arrived + 1 = x.expect then { x with arrived := 0, gen := (x.gen + 1) % 2 ^ 16 } else { x with arrived := x.arrived + 1 }

/-- A barrier after `bar.set` (R352). -/
def setBarrier (x : Barrier) (job k : Nat) : Barrier :=
  if k = 0 then ⟨0, 0, 0, (x.gen + 1) % 2 ^ 16⟩
  else if k ≤ x.arrived then ⟨job, k, 0, (x.gen + 1) % 2 ^ 16⟩
  else ⟨job, k, x.arrived, x.gen⟩

/-- A scalar result of a SYN instruction where its guard selects it. -/
def synResult (s : State) (i : Instr) (sd : BitVec 6) (v : Word) : Entry :=
  result s i 2 (if sd = 0 then .none else .scalar (s.me.sphys sd.toNat)) (v.setWidth 2048)

/-- The next holder of a role after context number `n` among the resident contexts that `ok` admits: the first in cyclic order that
is not in an engine wait, or else the first (R335, R347). A role code is a number plus one. -/
def roleAfter (d : Dev) (core n : Nat) (ok : Nat → Bool) : Nat :=
  let ns := [(n + 1) % 4, (n + 2) % 4, (n + 3) % 4, n % 4].filter fun m =>
    ok m && (d.ctx (m * 2 ^ 17 + core)).cond == .resident
  let free := ns.filter fun m =>
    let k := d.ctx (m * 2 ^ 17 + core)
    !k.waiting && decide (k.dueStall < 17) && k.susp.isNone
  match free, ns with
  | m :: _, _ => m + 1
  | [], m :: _ => m + 1
  | [], [] => 0

/-- A task with nothing left that `halt` waits for: no queue fence, no node, no operation, no ring, no entry, no stream, no access. -/
def idle (k : Ctx) : Prop :=
  k.fences = [] ∧ k.nodes = [] ∧ (∀ q, k.queues.get q = []) ∧ k.subs = [] ∧ k.ctt = [] ∧ k.streams = [] ∧ k.gq = []

/-- What a context whose task has ended still holds: registers, latches and BCLK (R23, R33, R395). -/
def ended (k : Ctx) : Ctx :=
  { (default : Ctx) with bclk := k.bclk, sreg := k.sreg, preg := k.preg, spr := k.spr, la := k.la, lb := k.lb, ll := k.ll }

/-- The word of R288 for a bound link. -/
def linkWord (core slot cause : Nat) (frozen : Bool) (t : Slot) : Word :=
  let state := match t.state with
    | .free => 0 | .opened => 1 | .ready => 2 | .advanced => 3 | .closed => 4 | .frozen => 5 | .splicedOut => 6
  BitVec.ofNat 64 (t.done % 256 + t.count % 256 * 2 ^ 8 + t.appended % 256 * 2 ^ 16 + state * 2 ^ 24 +
    (if t.inboxGot then 2 ^ 28 else 0) + (if t.retained then 2 ^ 29 else 0) + (if frozen then 2 ^ 30 else 0) +
    cause % 256 * 2 ^ 32 + slot * 2 ^ 44 + core * 2 ^ 47)

/-- The task that a spawn record describes (R345). -/
def spawned (s : State) (a : Nat) : QTask :=
  { job := s.me.task.job, type := field s a 8 1, prio := field s a 9 1 % 16, arg := BitVec.ofNat 64 (field s a 0 8)
    key0 := BitVec.ofNat 64 (field s a 16 8), key1 := BitVec.ofNat 64 (field s a 24 8)
    any := (field s a 12 4).testBit 31, target := field s a 12 4 % 2 ^ 17, sheet := none }

/-- The status of a `spawn` (R346). -/
def spawnStatus (s : State) (a : Nat) : Nat :=
  let q := spawned s a
  let j := s.dev.job (s.cur / 2 ^ 11 % 64) q.job
  if j.cancelled then 6
  else if field s a 9 1 / 16 ≠ 0 ∨ field s a 10 2 ≠ 0 ∨ field s a 12 4 / 2 ^ 17 % 2 ^ 14 ≠ 0 ∨ q.type ∉ j.types.map Prod.fst ∨
      ((j.types.get q.type).priv = true ∧ s.me.privNow = false) then 1
  else if j.gang.getLsbD (q.target / 2 ^ 11) = false ∨ (q.any = false ∧ 48 ≤ q.target % 64) then 2
  else 0

end Sys2Proof.Claims

/-- R325, R329, R330, R350, R353: `fence`, `wait` and `frwait` alone in their bundles. Unselected they do nothing. A `fence` with nothing
left to wait for issues: a `.die` or `.pkg` fence widens the narrower pins, a `.dom` fence releases them, and any other changes
nothing; with an operation or a queue fence in a queue of its mask, or an access not performed, it waits. `wait.t` waits while the ticket is in the
queue; `wait.ge` until the word has reached the bound, and gives the word; `frwait` until FRAME has reached its value, or the frame
of the job's sheet has started. -/
def Obligations.FencesAndWaits : Prop :=
  (∀ g sc q n s, let i := Instr.fence g sc q n
    i.wf = true → Issues i s →
    (guardOn s.me g = false → exec i s = .next (s.issue i s.ready s.me none)) ∧
    (guardOn s.me g = true → (n = true → fenceStarts s.dev s.cur = []) →
      emptied s.me q → s.me.gq = [] →
      (sc = none → exec i s = .next (s.issue i s.ready s.me none)) ∧
      (∀ x, sc = some x → x ≠ .dom → quietPins s → exec i s = .next (s.issue i s.ready
        { s.me with pins := s.me.pins.map fun p => if narrowerScope p.scope x then { p with scope := x } else p } none)) ∧
      (sc = some .dom → quietPins s → ∃ d,
        exec i s = .next (s.issue i d { s.me with pins := s.me.pins.filter fun p => !narrowerScope p.scope .dom } none) ∧
        (∀ p ∈ s.me.pins, narrowerScope p.scope .dom = true → (d.hl p.line p.holder).pinned = 0) ∧
        d = { s.ready with ctxs := d.ctxs, spilled := d.spilled, holders := d.holders })) ∧
    (guardOn s.me g = true → n = false → ¬ emptied s.me q → exec i s = waits s) ∧
    (guardOn s.me g = true → n = false → emptied s.me q →
      (∃ a r, s.me.gq = a :: r ∧ (s.dev.ctx s.cur).gq = a :: r ∧ a.susp = false) → exec i s = waits s)) ∧
  (∀ g sa (n : BitVec 3) s, let i := Instr.waitT g sa n
    let pending := ∃ o ∈ s.me.queues.get n.toNat, o.ticket = (s.me.rdS sa).toNat % 2 ^ 32
    i.wf = true → Issues i s →
    (guardOn s.me g = true ∧ pending → exec i s = waits s) ∧
    (¬ (guardOn s.me g = true ∧ pending) → exec i s = .next (s.issue i s.ready s.me none))) ∧
  (∀ g sd sa sb s, let i := Instr.waitGe g sd sa sb
    let v := field s (s.me.rdS sa).toNat 0 8
    Issues i s → accepted s 0 (s.me.rdS sa) 8 8 →
    (guardOn s.me g = false → exec i s = .next (s.issue i s.ready s.me none)) ∧
    (guardOn s.me g = true → recordReadable s (some (s.me.rdS sa, 8, 8)) →
      ((s.me.rdS sb).toNat ≤ v →
        exec i s = .next (s.issue i s.ready (s.me.withEntry (synResult s i sd (BitVec.ofNat 64 v))) none)) ∧
      (v < (s.me.rdS sb).toNat → exec i s = waits s))) ∧
  (∀ g sa s, let i := Instr.frwait g sa
    Issues i s →
    (guardOn s.me g = true ∧ (s.dev.pkg (s.cur / 2 ^ 11 % 64)).frame.toNat < (s.me.rdS sa).toNat → exec i s = waits s) ∧
    (¬ (guardOn s.me g = true ∧ (s.dev.pkg (s.cur / 2 ^ 11 % 64)).frame.toNat < (s.me.rdS sa).toNat) →
      exec i s = .next (s.issue i s.ready s.me none))) ∧
  (∀ g sa s, let i := Instr.frwaitFrame g sa
    let before := ∃ sh, (s.dev.job (s.cur / 2 ^ 11 % 64) s.me.task.job).sheet = some sh ∧ sh.started = true ∧ sh.ended = false ∧
      sh.frame < (s.me.rdS sa).toNat
    Issues i s → (guardOn s.me g = true ∧ before → exec i s = waits s) ∧
      (¬ (guardOn s.me g = true ∧ before) → exec i s = .next (s.issue i s.ready s.me none)))

/-- R351, R352: `signal`, `bar` and `bar.set` alone in their bundles. An arrival counts once, and the last one expected starts the next
generation. `signal` gives GEN before its arrival. `bar` issues at once where its arrival completes the phase; otherwise its arrival
is recorded, and it waits until GEN has changed and then gives the GEN recorded. `bar.set` claims or releases. An arrival at a barrier
that is unclaimed or another job's traps ACCESS_VIOLATION with the barrier in UTINFO0, and so does a `bar.set` of another job's; a
count above 192 traps ILLEGAL_OPERAND. -/
def Obligations.BarriersCountArrivals : Prop :=
  (∀ g sd (b : BitVec 4) s, let x := s.ready.barriers.get (barrierAt s b.toNat)
    let mine := x.expect ≠ 0 ∧ x.job = s.me.task.job
    let after := { s.ready with barriers := s.dev.barriers.set (barrierAt s b.toNat) (arrivedOnce x) }
    (Issues (.signal g sd b) s →
      (guardOn s.me g = false → exec (.signal g sd b) s = .next (s.issue (.signal g sd b) s.ready s.me none)) ∧
      (guardOn s.me g = true → mine → exec (.signal g sd b) s = .next (s.issue (.signal g sd b) after
        (s.me.withEntry (synResult s (.signal g sd b) sd (BitVec.ofNat 64 x.gen))) none)) ∧
      (guardOn s.me g = true → ¬ mine → exec (.signal g sd b) s =
        .next (s.trapped { trapOf s (.signal g sd b) 0x0B with info0 := b.setWidth 64, info1 := 0 }))) ∧
    (Issues (.bar g sd b) s →
      (guardOn s.me g = false → exec (.bar g sd b) s = .next (s.issue (.bar g sd b) s.ready s.me none)) ∧
      (guardOn s.me g = true → (s.me.barrier.get s.me.hs.code = none) →
        (mine → x.arrived + 1 = x.expect → exec (.bar g sd b) s = .next (s.issue (.bar g sd b) after
          (s.me.withEntry (synResult s (.bar g sd b) sd (BitVec.ofNat 64 x.gen))) none)) ∧
        (mine → x.arrived + 1 ≠ x.expect → exec (.bar g sd b) s = .next (s.onDev
          ({ s.dev with barriers := after.barriers }.updCtx s.cur fun k =>
            { k with barrier := k.barrier.set k.hs.code (some (s.me.pc, b.toNat, x.gen)), waiting := true, dueStall := 0 }))) ∧
        (¬ mine → exec (.bar g sd b) s =
          .next (s.trapped { trapOf s (.bar g sd b) 0x0B with info0 := b.setWidth 64, info1 := 0 }))) ∧
      (∀ gen, guardOn s.me g = true → s.me.barrier.get s.me.hs.code = some (s.me.pc, b.toNat, gen) →
        (x.gen = gen → exec (.bar g sd b) s = waits s) ∧
        (x.gen ≠ gen → exec (.bar g sd b) s = .next (s.issue (.bar g sd b) s.ready
          (s.me.withEntry (synResult s (.bar g sd b) sd (BitVec.ofNat 64 gen))) none))))) ∧
  (∀ g sa (b : BitVec 4) s, let i := Instr.barSet g sa b
    let x := s.ready.barriers.get (barrierAt s b.toNat)
    let k := (s.me.rdS sa).toNat
    Issues i s →
    (192 < k → exec i s = .next (s.trapped (trapOf s i 0x02))) ∧
    (k ≤ 192 → x.expect ≠ 0 → x.job ≠ s.me.task.job → exec i s = .next (s.trapped (trapOf s i 0x0B))) ∧
    (k ≤ 192 → (x.expect = 0 ∨ x.job = s.me.task.job) →
      exec i s = .next (s.issue i
        (if guardOn s.me g then { s.ready with barriers := s.dev.barriers.set (barrierAt s b.toNat) (setBarrier x s.me.task.job k) }
         else s.ready) s.me none)))

/-- R345 to R349 (with R343): `spawn`, `yield`, `halt` and `cancel` alone in their bundles. A sent task leaves with its packet and counts
as in flight; one that is not sent changes nothing but sd. `yield` of the primary hands its role to the secondary; of a secondary,
its role to the next context. `halt` of a task with nothing under way frees the context and the save area and counts one task
less; the context keeps its registers, latches and BCLK (R23, R33, R395), and no task. `cancel` of a live job marks it cancelled, empties its queues on the package and sends a packet to every other member, and a task of
that job is discarded; cancelling another job at user privilege traps PRIV. -/
def Obligations.TaskControl : Prop :=
  (∀ g sd sa s, let i := Instr.spawn g sd sa
    let a := (s.me.rdS sa).toNat
    let code := spawnStatus s a
    let k := s.me.withEntry (synResult s i sd (BitVec.ofNat 64 code))
    let pkg := s.cur / 2 ^ 11 % 64
    Issues i s → accepted s 0 (s.me.rdS sa) 32 32 →
    (guardOn s.me g = false → exec i s = .next (s.issue i s.ready s.me none)) ∧
    (guardOn s.me g = true → recordReadable s (some (s.me.rdS sa, 32, 32)) → code ≠ 0 →
      exec i s = .next (s.issue i s.ready k none)) ∧
    (guardOn s.me g = true → recordReadable s (some (s.me.rdS sa, 32, 32)) → code = 0 →
      exec i s = .next (s.issue i
        ((s.ready.updJob pkg s.me.task.job fun j => { j with infl := j.infl + 1 }).send
          (.spawn ⟨s.cur, s.me.serial, s.me.nextTag, (spawned s a).target / 2 ^ 11, spawned s a⟩)) k none))) ∧
  (∀ g s, let i := Instr.yield g
    let core := s.cur % 2 ^ 17
    let n := s.cur / 2 ^ 17 % 4
    let x := s.dev.cores.get core
    let k := s.me.setSpr 0x0C2 (s.me.spr' 0x0C2 + 1)
    Issues i s →
    (guardOn s.me g = false ∨ (x.primary ≠ n + 1 ∧ x.secondary ≠ n + 1) ∨ (x.primary = n + 1 ∧ x.secondary = 0) →
      exec i s = .next (s.issue i s.ready s.me none)) ∧
    (∀ m, guardOn s.me g = true → s.cur < 2 ^ 19 → x.primary = n + 1 → x.secondary = m + 1 → m < 4 → m ≠ n →
      (s.dev.ctx (m * 2 ^ 17 + core)).cond = .resident →
      exec i s = .next (s.issue i
        { (s.ready.setCtx s.cur k).updCtx (m * 2 ^ 17 + core) fun y =>
            { y with la := ⟨none, none⟩, lb := ⟨none, none⟩, ll := ⟨none, none⟩ } with
          cores := s.dev.cores.set core
            { x with primary := m + 1, secondary := roleAfter s.ready core n (fun j => j != m), idle := s.dev.cycle } }
        k none)) ∧
    (∀ p, guardOn s.me g = true → s.cur < 2 ^ 19 → x.primary = p + 1 → p < 4 → p ≠ n → x.secondary = n + 1 →
      let r := roleAfter s.ready core n (fun j => j != n && j != p)
      exec i s = .next (s.issue i
        (if r = 0 then s.ready else { s.ready with cores := s.dev.cores.set core { x with secondary := r, idle := s.dev.cycle } })
        s.me none))) ∧
  (∀ g s, let i := Instr.halt g
    let k := s.me
    let pkg := s.cur / 2 ^ 11 % 64
    Issues i s →
    (guardOn k g = false → exec i s = .next (s.issue i s.ready k none)) ∧
    (guardOn k g = true → idle (s.dev.ctx s.cur) → idle k → k.pins = [] → k.allot.links = 0 → k.task.sheet = none →
      (s.dev.job pkg k.task.job).live = true →
      let gone := (s.ready.setCtx s.cur (ended k)).updJob pkg k.task.job fun j =>
        { j with out := j.out - 1, areas := j.areas.erase k.saveArea }
      exec i s = .next { s with dev := settleRoles gone (s.cur % 2 ^ 17), bundle := none }) ∧
    (∀ q, guardOn k g = true → (s.dev.ctx s.cur).nodes = [] → q < 6 → k.queues.get q ≠ [] → (s.dev.ctx s.cur).gq = [] →
      (s.dev.ctx s.cur).queues = k.queues → k.gq = [] → exec i s = waits s)) ∧
  (∀ g sa s, let i := Instr.cancel g sa
    let pkg := s.cur / 2 ^ 11 % 64
    let job := if s.me.rdS sa = 0 then s.me.task.job else (s.me.rdS sa).toNat
    let j := s.dev.job pkg job
    Issues i s →
    (job ≠ s.me.task.job → s.me.privNow = false → exec i s = .next (s.trapped (trapOf s i 0x07))) ∧
    (job = s.me.task.job ∨ s.me.privNow = true →
      (guardOn s.me g = false ∨ j.live = false ∨ j.cancelled = true → exec i s = .next (s.issue i s.ready s.me none)) ∧
      (guardOn s.me g = true → j.live = true → j.cancelled = false →
        ∃ t, exec i s = .next t ∧ (t.dev.job pkg job).cancelled = true ∧ (t.dev.job pkg job).queues = [] ∧
          (job = s.me.task.job → (t.dev.ctx s.cur).cond = .free) ∧
          ∀ p, p < s.dev.npkg → p ≠ pkg → j.gang.getLsbD p = true → Msg.cancel p job ∈ t.dev.msgs)))

/-- R199, R288: `chstat`, `chstat.slot`, `tidset`, `tidset.inv` and `tidset.cb` alone in their bundles. `chstat` of a bound link gives
its word, and zero for a dead handle, another job's chain or a position beyond the chain; a slot of the core gives its word.
`tidset` binds the identifier to the 32 bytes of a descriptor without fault, and traps ILLEGAL_OPERAND with the address in UTINFO0
and the offset of the first fault in UTINFO1; `tidset.inv` makes it invalid; `tidset.cb` loads the 256 words of a table that no
pending node has captured. Unselected they do nothing. -/
def Obligations.TablesAndInspection : Prop :=
  (∀ g sd sa (pos : BitVec 6) s, let i := Instr.chstat g sd sa pos
    let h := s.me.rdS sa
    let give (v : Word) := Host.Outcome.next (ρ := Refusal) (φ := Fault)
      (s.issue i s.ready (if guardOn s.me g then s.me.withEntry (synResult s i sd v) else s.me) none)
    Issues i s →
    (liveChain s.ready h = none → exec i s = give 0) ∧
    (∀ x, liveChain s.ready h = some x →
      (x.job ≠ s.me.task.job ∨ x.links.length ≤ pos.toNat → exec i s = give 0) ∧
      (∀ t, x.job = s.me.task.job → pos.toNat < x.links.length → boundSlot s.ready x h pos.toNat = some t →
        exec i s = give (linkWord (x.link pos.toNat).core (x.link pos.toNat).slot
          (if t.state = .frozen then t.cause else (x.link pos.toNat).cause) x.frozen t)))) ∧
  (∀ g sd (n : BitVec 3) s, let i := Instr.chstatSlot g sd n
    let core := s.cur % 2 ^ 17
    let t := s.ready.slots.get (core * 8 + n.toNat)
    Issues i s → exec i s = .next (s.issue i s.ready (if guardOn s.me g then s.me.withEntry (synResult s i sd
      (if t.state = .free then BitVec.ofNat 64 (core * 2 ^ 47 + n.toNat * 2 ^ 44)
       else linkWord core n.toNat t.cause ((liveChain s.ready t.handle).any fun x => x.frozen) t)) else s.me) none)) ∧
  (∀ g (n : BitVec 6) sa s, let i := Instr.tidset g n sa
    let a := s.me.rdS sa
    let t : BitVec 256 := BitVec.ofNat 256 (field s a.toNat 0 32)
    Issues i s → accepted s 0 a 32 32 →
    (guardOn s.me g = false → exec i s = .next (s.issue i s.ready s.me none)) ∧
    (guardOn s.me g = true → recordReadable s (some (a, 32, 32)) →
      (descFault s.ready s.me t = none →
        exec i s = .next (s.issue i s.ready { s.me with tids := s.me.tids.set n.toNat (some t) } none)) ∧
      (∀ off, descFault s.ready s.me t = some off →
        exec i s = .next (s.trapped { trapOf s i 0x02 with info0 := a, info1 := BitVec.ofNat 64 off })))) ∧
  (∀ g (n : BitVec 6) s, let i := Instr.tidsetInv g n
    Issues i s → exec i s = .next (s.issue i s.ready
      (if guardOn s.me g then { s.me with tids := s.me.tids.set n.toNat none } else s.me) none)) ∧
  (∀ g (t : BitVec 2) sa s, let i := Instr.tidsetCb g t sa
    let a := s.me.rdS sa
    let key (e : Nat) : Nat := s.cur % 2 ^ 17 * 1024 + t.toNat * 256 + e
    Issues i s → accepted s 0 a 1024 32 →
    (guardOn s.me g = false → exec i s = .next (s.issue i s.ready s.me none)) ∧
    (guardOn s.me g = true → recordReadable s (some (a, 32, 1024)) → codebookStarts s.me t.toNat = [] →
      ∃ m, exec i s = .next (s.issue i { s.ready with cbt := m } s.me none) ∧
        (∀ e, e < 256 → m.get (key e) = BitVec.ofNat 32 (field s a.toNat (4 * e) 4)) ∧
        ∀ x, (∀ e, e < 256 → x ≠ key e) → m.get x = s.ready.cbt.get x))

namespace Sys2Proof.Claims

/-! ## Steps of the machine that no instruction issues: what their statements share -/

/-- The state with another device, as a next state. -/
def goes (s : State) (d : Dev) : Out := .next (s.onDev d)

/-- No spilled task holds this context number. -/
def lone (d : Dev) (c : Nat) : Prop := ∀ x ∈ d.spilled, x.1 ≠ c

/-- The device with a message taken out of flight. -/
def without (s : State) (m : Nat) : Dev := { s.dev with msgs := s.dev.msgs.eraseIdx m }

/-- The context stands at a bundle boundary. -/
def atRest (s : State) (c : Nat) : Prop := s.bundle = none ∨ s.cur ≠ c

/-- The latches of a context are invalid (R33). -/
def unlatched (k : Ctx) : Ctx := { k with la := ⟨none, none⟩, lb := ⟨none, none⟩, ll := ⟨none, none⟩ }

/-- A context that ceases to be primary (R336). -/
def switched (k : Ctx) : Ctx := k.setSpr 0x0C2 (k.spr' 0x0C2 + 1)

/-- A context is in an engine wait or suspended for firmware (R334). -/
def engineWaits (k : Ctx) : Prop := k.waiting = true ∨ 17 ≤ k.dueStall ∨ k.susp ≠ none

/-- A bucket after one cycle: RATE/1024 bytes more, in units of 1/1024 byte, up to BURST, which is at least one line (R125, R126). -/
def refilled (r : Word) (level : Nat) : Nat :=
  min (max (r.toNat / 2 ^ 32 % 2 ^ 24) 128 * 1024) (level + r.toNat % 2 ^ 32)

/-- Philox-4x32-10 as R190 writes it: the round, the keys of the rounds, the counter in two words and the key's high words in the
other two. -/
def philoxOf (key0 key1 : Word) (n : Nat) : List Nat :=
  let mul (a b : Nat) : Nat × Nat := (a * b / 2 ^ 32, a * b % 2 ^ 32)
  let step (r : Nat) (c : Nat × Nat × Nat × Nat) : Nat × Nat × Nat × Nat :=
    let k0 := (key0.toNat % 2 ^ 32 + r * 0x9E3779B9) % 2 ^ 32
    let k1 := (key1.toNat % 2 ^ 32 + r * 0xBB67AE85) % 2 ^ 32
    let p := mul 0xD2511F53 c.1
    let q := mul 0xCD9E8D57 c.2.2.1
    (q.1 ^^^ c.2.1 ^^^ k0, q.2, p.1 ^^^ c.2.2.2 ^^^ k1, p.2)
  let x := (List.range 10).foldl (fun c r => step r c)
    (n % 2 ^ 32, n / 2 ^ 32 % 2 ^ 32, key0.toNat / 2 ^ 32, key1.toNat / 2 ^ 32)
  [x.1, x.2.1, x.2.2.1, x.2.2.2]

end Sys2Proof.Claims

/-- R333 to R336, R401 (with R33): roles. A primary in an engine wait with a resident secondary hands over: the secondary becomes
primary with invalid latches, SWCNT of the old primary counts, and the next secondary is the one that R335 names. A primary that
may issue keeps its role. A secondary that has issued nothing for 1024 whole cycles changes places with the primary, and one that
has does not. A stall at a due count counts its cycles. R105, R106, R126, R190: what time brings to a context. A pin whose first
refusal lies the context's PINLIM cycles back is released, and its owner traps PIN_EXPIRED at its next boundary, UTINFO0 the
address that pinned the line, UTINFO1 0x100, UTINFO2 the scope; one that has not refused, or not for so long, stays. The token
buckets gain RATE/1024 bytes up to BURST. The random queue of a resident context takes its next word: 16 Philox outputs at the
counters that follow those queued, up to 16 words. -/
def Obligations.RolesAndTimers : Prop :=
  ((∀ core p q s, let x := s.dev.cores.get core
    let id (n : Nat) : Nat := n * 2 ^ 17 + core
    x.primary = p + 1 → x.secondary = q + 1 → p < 4 → q < 4 → p ≠ q → (s.dev.ctx (id p)).cond = .resident →
    (s.dev.ctx (id q)).cond = .resident →
    (engineWaits (s.dev.ctx (id p)) → exec (.primarySwitch core) s = goes s
      { (s.dev.updCtx (id p) switched).updCtx (id q) unlatched with
        cores := s.dev.cores.set core
          { x with primary := q + 1, secondary := roleAfter s.dev core p (fun n => n != q), idle := s.dev.cycle } }) ∧
    (¬ engineWaits (s.dev.ctx (id p)) → exec (.primarySwitch core) s = .next s)) ∧
  (∀ core p q s, let x := s.dev.cores.get core
    let id (n : Nat) : Nat := n * 2 ^ 17 + core
    x.primary = p + 1 → x.secondary = q + 1 → (s.dev.ctx (id p)).cond = .resident →
    (x.idle + 1024 < s.dev.cycle → exec (.secondaryPromotion core) s = goes s
      { (s.dev.updCtx (id p) switched).updCtx (id q) unlatched with
        cores := s.dev.cores.set core { x with primary := q + 1, secondary := p + 1, idle := s.dev.cycle } }) ∧
    (s.dev.cycle ≤ x.idle + 1024 → exec (.secondaryPromotion core) s = .next s)) ∧
  (∀ c s, s.bundle = none → (s.dev.ctx c).cond = .resident →
    exec (.dueCountEngineWait c) s =
      if (s.dev.ctx c).infl.any (fun e => decide (e.rem = 0) && !e.ready && e.fault.isNone) = true then
        goes s (s.dev.updCtx c fun k => { k with dueStall := k.dueStall + 1 })
      else .next s)) ∧
  ((∀ c line p t s, (s.dev.ctx c).cond = .resident → lone s.dev c →
    (s.dev.ctx c).pins.find? (fun x => x.line == line) = some p →
    (∀ x ∈ (s.dev.ctx c).pins, x.line = line → x.holder = p.holder) → p.refused = some t →
    (s.dev.hl line p.holder).pinned = c + 1 → (s.dev.hl line p.holder).deferred = none →
    let trap : TrapRec :=
      { (default : TrapRec) with
        cause := 0x15, info0 := p.va, info1 := 0x100, imp := true, va := p.va
        info2 := match p.scope with | .dom => 0 | .pkg => 1 | .die => 2 }
    (t + ((s.dev.ctx c).spr' 0x0D0).toNat ≤ s.dev.cycle →
      exec (.pinExpiry c line) s = goes s
        ((s.dev.updCtx c fun k => { k with pins := k.pins.filter fun x => x.line != line, asyncs := k.asyncs ++ [trap] }).setHl line p.holder
          { s.dev.hl line p.holder with pinned := 0, deferred := none })) ∧
    (s.dev.cycle < t + ((s.dev.ctx c).spr' 0x0D0).toNat → exec (.pinExpiry c line) s = .next s)) ∧
  (∀ c s, (s.dev.ctx c).cond ≠ .free →
    exec (.tokenBucketRefill c) s = goes s (s.dev.updCtx c fun k =>
      { k with bktL2 := refilled (k.spr' 0x090) k.bktL2, bktHbm := refilled (k.spr' 0x091) k.bktHbm })) ∧
  (∀ c s, (s.dev.ctx c).cond = .resident →
    (16 ≤ (s.dev.ctx c).rq.length → exec (.randomWordGeneration c) s = .next s) ∧
    ((s.dev.ctx c).rq.length < 16 → ∃ w, exec (.randomWordGeneration c) s = goes s
        (s.dev.updCtx c fun k => { k with rq := k.rq ++ [w] }) ∧
      ∀ m, m < 16 →
        let n := ((s.dev.ctx c).spr' 0x032).toNat + 16 * (s.dev.ctx c).rq.length + m
        (List.range 4).map (fun j => elem w 32 (4 * m + j)) =
          philoxOf ((s.dev.ctx c).spr' 0x030) ((s.dev.ctx c).spr' 0x031) (n % 2 ^ 64))))

namespace Sys2Proof.Claims

/-! ## Firmware (R83, R90, R376 to R383) -/

/-- The bytes of a fault-ring record (R378). -/
def recordText (r : FRec) (tail phase : Nat) : List Byte :=
  let le (n x : Nat) : List Byte := (List.range n).map fun i => BitVec.ofNat 8 (x / 2 ^ (8 * i))
  le 1 r.cause ++ le 1 r.kind ++ le 1 r.access ++ le 1 r.source ++ le 4 r.ctx ++ le 8 r.job ++ le 8 r.va.toNat ++ le 8 r.pc.toNat ++
    le 8 r.count.toNat ++ le 8 r.info0.toNat ++ le 8 r.info1.toNat ++ le 4 tail ++ le 4 phase

/-- The home has a line to itself: all its tokens, with no pin, no request that stands before others, no token on its way, no holder
in update state (R93, R97, R100, R104, R109). -/
def homeFree (d : Dev) (line : Nat) : Prop :=
  (d.home line).away = 0 ∧ (d.home line).ownerAway = false ∧ (d.home line).active = 0 ∧ (d.home line).upd = none ∧
    (∀ h, let x := d.hl line h
      x.tokens = 0 ∧ x.owner = false ∧ x.pinned = 0 ∧ x.forwarding = false) ∧
    d.msgs.all (fun m => !m.isToks line) = true

/-- The line that results from 64 or fewer bytes written at an offset. -/
def overlaid (old new : Line) (off : Nat) (bs : List Byte) : Prop :=
  ∀ o, o < 128 → lineByte new o = if off ≤ o ∧ o < off + bs.length then bs.getD (o - off) 0 else lineByte old o

/-- A holder has a line whole after a write (R93, R97). -/
def wroteAt (d : Dev) (line h : Nat) (v : Line) : Dev :=
  (d.updHome line fun x =>
    { x with hints := if x.hints.contains h then x.hints else x.hints ++ [h], away := 1024, ownerAway := true }).updHl line h fun x =>
      { x with tokens := 1024, owner := true, dirty := true, cmp := false, data := some v }

/-- A request of the system cache is counted in its region (R89, R91). -/
def counted (d : Dev) (line : Nat) : Dev :=
  { d with regions := d.regions.update (line / 2 ^ 14) fun g => { g with count := min (g.count + 1) 0xFFFF, who := g.who ||| 256#9 } }

/-- What a resume sets going again besides the context itself (R376). -/
def enginesGoOn (k : Ctx) : Ctx :=
  { k with
    queues := k.queues.map fun x => (x.1, x.2.map fun o =>
      if o.phase = .suspended then { o with phase := if o.pos = 0 then .queued else .started } else o)
    subs := k.subs.map fun x => (x.1, { x.2 with suspL := false, suspS := false })
    streams := k.streams.map fun x => (x.1, { x.2 with susp := false })
    nodes := k.nodes.map fun x => (x.1, { x.2 with susp := false }) }

/-- A write of CTXCMD in flight (R376). -/
def command (action cause c : Nat) : Word := BitVec.ofNat 64 (action * 2 ^ 56 + cause * 2 ^ 48 + c)

/-- The state after a CTXCMD write has arrived: its message is gone. -/
def commanded (s : State) (action c : Nat) : Dev :=
  match s.dev.msgs.findIdx? fun m => match m with
      | .ctxcmd _ v => v.toNat / 2 ^ 56 == action && v.toNat % 2 ^ 19 == c
      | _ => false with
  | some i => without s i
  | none => s.dev

/-- A context that firmware ends: nothing under way that outlives it, no pin, no link and no hop in its Q5. -/
def endsAlone (s : State) (c : Nat) : Prop :=
  (s.dev.ctx c).pins = [] ∧ (s.dev.ctx c).allot.links = 0 ∧ (s.dev.ctx c).task.sheet = none ∧
    (s.dev.job (c / 2 ^ 11 % 64) (s.dev.ctx c).task.job).live = true ∧ (s.dev.ctx c).queues.get 5 = []

/-- One task less on a package (R343, R386). -/
def oneLess (d : Dev) (c : Nat) (k : Ctx) : Dev :=
  d.updJob (c / 2 ^ 11 % 64) k.task.job fun j => { j with out := j.out - 1, areas := j.areas.erase k.saveArea }

/-- A write to a register of the package's own (R90, R377), by its offset in the system region: the value its fields take. -/
def packageWrite (p : Pkg) (off : Nat) (v : Word) : Option Pkg :=
  match off with
  | 0x10000 => some { p with migBase := v &&& 0x000FFFFFFFFF0000#64 }
  | 0x10008 => some { p with migHead := v.toNat % 2 ^ 13 }
  | 0x10018 => some { p with migThresh := v.toNat % 2 ^ 16 }
  | 0x10020 => some { p with migOvf := p.migOvf && !v.getLsbD 0 }
  | 0x10300 => some { p with fringBase := v &&& 0x000FFFFFFFFFF000#64 }
  | 0x10308 => some { p with fringSize := v.toNat % 2 ^ 5 }
  | 0x10310 => some { p with fringHead := v.toNat % 2 ^ 17 }
  | 0x10320 => some { p with fringWaited := p.fringWaited && !v.getLsbD 0 }
  | _ => none

end Sys2Proof.Claims

/-- R376, R380 (with R363, R367, R401): CTXCMD. Resume re-injects the frozen group, with invalid latches, and what is suspended of the
context's engines and nodes goes on. Deliver enters the user handler with the cause and the recorded UTINFO0 and UTINFO1, UTINFO2 and
UTINFO3 zero; where UTVEC is 0, or in the trap handler, it discards. Discard ends the task: its context, which keeps registers,
latches and BCLK, and its save area are free, and one task less counts. Roles are settled after each. A command that names nothing suspended has no effect. The statements are about a task
without accesses under way, pins and links, and a fault that is not an access's. -/
def Obligations.FirmwareCommands : Prop :=
  ∀ c s, let k := s.dev.ctx c
    atRest s c → lone s.dev c → (s.dev.pkg (c / 2 ^ 11 % 64)).machineCheck = false →
    (∀ r, k.cond = .resident → k.susp = some r → r.acc = 0 → k.gq = [] →
      exec (.ctxcmdResume c) s = goes s (settleRoles ((commanded s 1 c).setCtx c
        (enginesGoOn { unlatched k with susp := none, gSave := [], infl := k.gSave ++ k.infl })) (c % 2 ^ 17))) ∧
    (∀ r cause, k.susp = some r → r.acc = 0 → k.gq = [] → k.spr' 0x050 ≠ 0 → (k.hs = .stream ∨ k.hs = .cue) →
      ∃ m, exec (.ctxcmdDeliver c cause) s = goes s (settleRoles ((commanded s 2 c).setCtx c
          { frozen k with
            gTrap := k.gSave, gSave := [], susp := none, spr := m, hs := if k.hs = .cue then .trapInCue else .trap
            pc := k.spr' 0x050, xfer := some (0, k.spr' 0x050) }) (c % 2 ^ 17)) ∧
        ∀ n, m.get n = trapRegister { k with infl := k.gSave } { r with cause := cause, info2 := 0, info3 := 0 } n) ∧
    (∀ r cause, k.susp = some r → endsAlone s c → (k.spr' 0x050 = 0 ∨ k.hs = .trap ∨ k.hs = .trapInCue) →
      exec (.ctxcmdDeliver c cause) s = goes s
        (settleRoles (oneLess ((commanded s 2 c).setCtx c (ended k)) c k) (c % 2 ^ 17))) ∧
    (∀ r, k.susp = some r → endsAlone s c →
      exec (.ctxcmdDiscard c) s = goes s (settleRoles (oneLess ((commanded s 3 c).setCtx c (ended k)) c k) (c % 2 ^ 17))) ∧
    (k.susp = none → (∀ x ∈ k.queues, ∀ o ∈ x.2, o.phase ≠ .suspended) → (∀ x ∈ k.subs, x.2.suspL = false ∧ x.2.suspS = false) →
      (∀ x ∈ k.streams, x.2.susp = false) → (∀ x ∈ k.nodes, x.2.susp = false) →
      exec (.ctxcmdResume c) s = goes s (commanded s 1 c) ∧ (∀ cause, exec (.ctxcmdDeliver c cause) s = goes s (commanded s 2 c)) ∧
      exec (.ctxcmdDiscard c) s = goes s (commanded s 3 c))

/-- R377, R378 (with R89, R92, R93): the oldest record that waits is written at BASE + 64 × (TAIL mod 2^LOG2N) in the 64 bytes that
R378 lays out, and TAIL advances modulo 2^(LOG2N+1). The system cache of the package makes the write: into the line that it has
whole, or having taken a line that the home has to itself, a counted request. While the ring is full the record waits and
FRING_STATUS shows it; while the writer is disabled, or nothing waits, nothing changes. R8, R9, R90, R108, R151, R376, R377, R384,
R388: a firmware write of 64 bits to a described register changes the fields that the register has; DSOWN of a die takes the
value, a write to ADMIT is an admission, and CTXCMD sends its command; a write anywhere else has no effect here. MIG_CLEAR resets
the counter of the region that its address lies in. A write of a whole line of memory leaves the line readable with its data.
Runtime firmware extends MR3 to MR7, and nothing else is extended so. -/
def Obligations.FirmwareRegistersAndFaultRing : Prop :=
  (∀ pkg s, let p := s.dev.pkg pkg
    let n := 2 ^ p.fringSize
    let a := p.fringBase.toNat + 64 * (p.fringTail % n)
    (p.frecs = [] ∨ p.fringSize < 6 ∨ 16 < p.fringSize → exec (.faultRingRecord pkg) s = .next s) ∧
    (∀ r l, p.frecs = r :: l → 6 ≤ p.fringSize → p.fringSize ≤ 16 →
      ((p.fringTail + 2 * n - p.fringHead % (2 * n)) % (2 * n) = n →
        exec (.faultRingRecord pkg) s = goes s (s.dev.updPkg pkg fun p => { p with fringWaited := true })) ∧
      ((p.fringTail + 2 * n - p.fringHead % (2 * n)) % (2 * n) ≠ n → isMemory a = true → p.fringBase.toNat % 4096 = 0 →
        let line := a / 128
        let h := 16 * pkg + 8
        let text := recordText r p.fringTail (p.fringTail / n % 2)
        let after (d : Dev) := goes s (d.updPkg pkg fun p => { p with frecs := l, fringTail := (p.fringTail + 1) % (2 * n) })
        (∀ v, (s.dev.hl line h).tokens = 1024 → (s.dev.hl line h).data = some v → s.dev.dataBad line = false →
          ∃ v', overlaid v v' (a % 128) text ∧ exec (.faultRingRecord pkg) s =
            after (s.dev.setHl line h { s.dev.hl line h with dirty := true, cmp := false, data := some v' })) ∧
        (homeFree s.dev line → s.dev.lineBad line = false → (s.dev.pkg (a / 2 ^ 46)).migThresh = 0 →
          ∃ v', overlaid (memLine s.dev line) v' (a % 128) text ∧
            exec (.faultRingRecord pkg) s = after (wroteAt (counted s.dev line) line h v'))))) ∧
  ((∀ pkg off x p s, let v := x.setWidth 64
    packageWrite (s.dev.pkg pkg) off v = some p →
    exec (.firmwareRegisterWrite pkg (.reg off) x) s = goes s (s.dev.updPkg pkg fun _ => p)) ∧
  (∀ pkg i x s, i < 8 → exec (.firmwareRegisterWrite pkg (.reg (0x10200 + 8 * i)) x) s = goes s
    { s.dev with dies := s.dev.dies.update (8 * pkg + i) fun y => { y with dsown := x.setWidth 64 } }) ∧
  (∀ pkg x s, exec (.firmwareRegisterWrite pkg (.reg 0x20000) x) s = exec (.admitJob pkg 8 (x.setWidth 64) true) s) ∧
  (∀ pkg x s, let v : Word := x.setWidth 64
    (1 ≤ v.toNat / 2 ^ 56 ∧ v.toNat / 2 ^ 56 ≤ 3 ∧ v.toNat / 2 ^ 11 % 64 = pkg →
      exec (.firmwareRegisterWrite pkg (.reg 0x10400) x) s = goes s { s.dev with msgs := s.dev.msgs ++ [.ctxcmd pkg v] }) ∧
    (¬ (1 ≤ v.toNat / 2 ^ 56 ∧ v.toNat / 2 ^ 56 ≤ 3 ∧ v.toNat / 2 ^ 11 % 64 = pkg) →
      exec (.firmwareRegisterWrite pkg (.reg 0x10400) x) s = .next s)) ∧
  (∀ pkg off x s, packageWrite (s.dev.pkg pkg) off (x.setWidth 64) = none → off ≠ 0x10028 → off ≠ 0x10400 → off ≠ 0x20000 →
    ¬ (0x10200 ≤ off ∧ off < 0x10240 ∧ off % 8 = 0) → exec (.firmwareRegisterWrite pkg (.reg off) x) s = .next s) ∧
  (∀ pkg pa v s, isMemory pa = true → pa % 128 = 0 → pkg < s.dev.npkg → homeFree s.dev (pa / 128) →
    ∃ d, exec (.firmwareRegisterWrite pkg (.line pa) v) s = goes s d ∧ d.dataBad (pa / 128) = false ∧
      ∀ b, b < 128 → peekByte d (pa + b) = lineByte v b) ∧
  (∀ pkg (i : Nat) v s, (3 ≤ i ∧ i ≤ 7 ∧ (s.dev.pkg pkg).admitState = 1 →
      exec (.firmwareRegisterWrite pkg (.mr i) v) s = goes s (s.dev.updPkg pkg fun p =>
        { p with mr := p.mr.set i (Config.sha384 (bytesOf 48 (p.mr.get i).toNat ++ bytesOf 48 (v.toNat % 2 ^ 384))) })) ∧
    (¬ (3 ≤ i ∧ i ≤ 7 ∧ (s.dev.pkg pkg).admitState = 1) → exec (.firmwareRegisterWrite pkg (.mr i) v) s = .next s)) ∧
  (∀ pkg (v : Word) s,
    let region := v.toNat % 2 ^ 52 / 2 ^ 21
    exec (.migClear pkg v) s = goes s { s.dev with regions := s.dev.regions.set region default } ∧
    exec (.firmwareRegisterWrite pkg (.reg 0x10028) (v.setWidth 1024)) s = exec (.migClear pkg v) s))

/-- R342, R361, R373, R374, R381 (with R33, R366, R367): what becomes of a task in place. Pre-empted, at a boundary at which no other
diversion could be taken, it is saved with its entries frozen and its latches invalid, and roles are settled; resumed, it is resident with its entries in flight again. With MACHINE_CHECK it is lost: its
record waits for the fault ring, and the context number is free. The statements are about a task that is not spilled and has no
access under way, and for the loss none of its pins, links and hops. -/
def Obligations.TasksComeAndGo : Prop :=
  (∀ c s, let d := reportDemands s.dev c
    let k := d.ctx c
    (atRest s c → dispatch d (c / 2 ^ 11 % 64) = some (.preempt c) → nextDivert d c = .none →
      exec (.preEmption c) s = goes s (settleRoles (d.setCtx c
        { frozen k with cond := .saved, gSave := k.gSave ++ k.infl }) (c % 2 ^ 17))) ∧
    (¬ atRest s c ∨ dispatch d (c / 2 ^ 11 % 64) ≠ some (.preempt c) ∨ nextDivert d c ≠ .none →
      exec (.preEmption c) s = goes s d)) ∧
  (∀ c base s, let k := s.dev.ctx c
    dispatch s.dev (c / 2 ^ 11 % 64) = some (.resume c none base) → k.cond = .saved → k.spilled = false → k.gq = [] → k.susp = none →
    exec (.taskResume c) s = goes s (fillRoles (s.dev.setCtx c
      { unlatched k with cond := .resident, gSave := [], infl := k.gSave ++ k.infl }) (c % 2 ^ 17))) ∧
  (∀ c s, let k := s.dev.ctx c
    let pkg := c / 2 ^ 11 % 64
    let record : FRec := ⟨0x1A, 3, if k.priv then 8 else 0, 0, c % 2 ^ 19, k.task.job, 0, k.pc, k.bclk, 0, 0⟩
    let left : Ctx :=
      { (default : Ctx) with
        cond := .lost, task := k.task, bclk := k.bclk, pc := k.pc, priv := k.priv, saveArea := k.saveArea }
    atRest s c → k.cond ≠ .free → k.pins = [] → k.allot.links = 0 → k.queues.get 5 = [] →
    exec (.contextStateError c) s = goes s (settleRoles
      { (s.dev.updPkg pkg fun p => { p with frecs := p.frecs ++ [record] }).setCtx c default with
        spilled := s.dev.spilled ++ [(c, left)] } (c % 2 ^ 17)))

namespace Sys2Proof.Claims

/-! ## Jobs, tasks and call sheets (R338 to R346, R348, R354 to R357, R384 to R387, R404) -/

/-- Little-endian bytes of a number. -/
def littleEndian (n x : Nat) : List Byte := (List.range n).map fun i => BitVec.ofNat 8 (x / 2 ^ (8 * i))

/-- A completion record (R387). -/
def completionText (job status refusal : Nat) (absent : Word) (dropped slips bad : Nat) : List Byte :=
  littleEndian 8 job ++ [BitVec.ofNat 8 status, BitVec.ofNat 8 refusal] ++ littleEndian 6 0 ++ littleEndian 8 absent.toNat ++
    littleEndian 8 dropped ++ littleEndian 4 slips ++ littleEndian 4 bad ++ littleEndian 24 0

/-- A slip record (R356). -/
def slipText (frame nlate late first start : Nat) : List Byte :=
  littleEndian 4 frame ++ littleEndian 4 nlate ++ littleEndian 8 late ++ littleEndian 4 first ++ littleEndian 4 0 ++ littleEndian 8 start

/-- A stretch of one line of main memory that a control die can reach, where the home has the line to itself and no notification is
due (R89, R90, R93). -/
def storable (d : Dev) (pkg a n : Nat) : Prop :=
  pkg < d.npkg ∧ physFault d pkg a n = none ∧ a % 128 + n ≤ 128 ∧ homeFree d (a / 128) ∧ (d.pkg (a / 2 ^ 46)).migThresh = 0

/-- What a coherent read of memory gives from an address on. -/
def reads (d : Dev) (a : Nat) (bs : List Byte) : Prop := ∀ b, b < bs.length → peekByte d (a + b) = bs.getD b 0

/-- The members of a gang. -/
def members (d : Dev) (gang : Word) : List Nat := (List.range d.npkg).filter fun p => gang.getLsbD p

/-- What a package holds of a job after its capture (R386): the job with its initial tasks of that package in the queues of their
priorities, in order and counted, and the dies of DSMASK owned. -/
def keeps (d : Dev) (pkg job : Nat) (j : Job) (tasks : List QTask) : Prop :=
  let mine := tasks.filter fun q => q.target / 2 ^ 11 == pkg
  let k := d.job pkg job
  k = { j with
    live := true, tentative := false, queues := k.queues, sheet := k.sheet, out := j.out + mine.length
    epoch := j.epoch + mine.length } ∧
  (∀ p, k.queues.get p = mine.filter fun q => q.prio == p) ∧ (j.sheet = none → k.sheet = none) ∧
  ∀ i, i < 8 → j.dsmask.getLsbD i = true → (d.dies.get (8 * pkg + i)).dsown = BitVec.ofNat 64 (2 ^ 63 + job)

/-- The special registers of a new task (R37, R73, R125, R338, R345, R385, R386). -/
def startValue (pinlim : Word) (j : Job) (q : QTask) (area n : Nat) : Word :=
  let t := j.types.get q.type
  let win (i : Nat) : Word := (j.wins[3 * t.win + i]?).getD 0
  match n with
  | 0x030 => q.key0
  | 0x031 => q.key1
  | 0x040 => win 0 &&& 0x0000FFFFFFE00000#64
  | 0x041 => win 1 &&& 0x0001FFFFFFE00000#64
  | 0x042 => win 2 &&& 0xFFFFFFFFFFE00000#64
  | 0x090 => t.tbl2 &&& 0x00FFFFFFFFFFFFFF#64
  | 0x091 => t.tbhbm &&& 0x00FFFFFFFFFFFFFF#64
  | 0x0D0 => pinlim
  | 0x0E0 => j.savepool + BitVec.ofNat 64 (0x20000 * area)
  | _ => 0

/-- The allotment record (R147). -/
def allotText (a : Allot) : List Byte :=
  littleEndian 4 a.spBase ++ littleEndian 4 a.spLen ++ littleEndian 4 (if a.arLen = 0 then 0 else a.arBase) ++ littleEndian 4 a.arLen ++
    littleEndian 4 (if a.lsLen = 0 then 0 else a.lsBase) ++ littleEndian 4 a.lsLen ++ littleEndian 8 a.links.toNat

/-- Address in physical memory of a virtual address that WIN0 of a job covers (R73, R75). -/
def winPa (j : Job) (va pa : Nat) : Prop :=
  let lo := ((j.wins[0]?).getD 0 &&& 0x0000FFFFFFE00000#64).toNat
  let len := ((j.wins[1]?).getD 0 &&& 0x0001FFFFFFE00000#64).toNat
  lo ≤ va ∧ va < lo + len ∧ (lo + len ≤ 2 ^ 48 ∨ va < 2 ^ 48) ∧ pa = (va + ((j.wins[2]?).getD 0 &&& 0xFFFFFFFFFFE00000#64).toNat) % 2 ^ 52

/-- The sheet of a job at its next frame, which starts at tick `s` (R356). -/
def nextSheet (sh : Sheet) (s : Nat) : Sheet :=
  { sh with
    frame := sh.frame + 1, start := s, lastRetire := s, live := [], nlate := 0, firstLate := 0, reported := false, due := none }

/-- The job of a package with another sheet. -/
def withSheet (d : Dev) (pkg job : Nat) (sh : Sheet) : Dev := d.updJob pkg job fun j => { j with sheet := some sh }

/-- The lowest of a list of numbers, 0 for none. -/
def lowest : List Nat → Nat
  | [] => 0
  | [x] => x
  | x :: r => min x (lowest r)

/-- The start of the next frame as a leader sends it at a tick (R357). -/
def nextStart (sh : Sheet) (reports : List FrameRep) (now : Nat) : FrameDue :=
  ⟨max (sh.start + sh.fticks) (now + 200), (reports.map FrameRep.nlate).sum, lowest ((reports.filter fun r => r.nlate ≠ 0).map FrameRep.first)⟩

/-- A task that a member would have to keep names itself (R386 step 2): the lowest failing offset of what a member checks. -/
def memberRefuses (d : Dev) (pkg job table : Nat) (j : Job) (off : Option Nat) : Prop :=
  let held := (d.job pkg job).live = true ∨ (d.job pkg job).tentative = true
  let unread := physFault d pkg table 4096 ≠ none
  let owned := ∃ i, i < 8 ∧ j.dsmask.getLsbD i = true ∧ ((d.dies.get (8 * pkg + i)).dsown).getLsbD 63 = true
  (held → off = some 0) ∧ (¬ held → unread → off = some 24) ∧ (¬ held → ¬ unread → owned → off = some 176) ∧
    (¬ held → ¬ unread → ¬ owned → off = none)

/-- A job or the decision about it is on its way to a member. -/
def onItsWay (d : Dev) (pkg job : Nat) : Prop :=
  (∃ t j, Msg.capture pkg job t j ∈ d.msgs) ∨ ∃ a j, Msg.keep pkg job a j ∈ d.msgs

/-- Every entry of the frame is released and has retired. -/
def frameOver (d : Dev) (pkg : Nat) (j : Job) (sh : Sheet) : Prop :=
  sh.live = [] ∧ (sh.nent ≤ sh.next ∨ ∃ e, sheetEntry d pkg j sh sh.next = some e ∧ e % 2 ^ 32 ≠ sh.frame)

end Sys2Proof.Claims

/-- R384, R386, R387, R404: admission and capture. A 64-bit write with no reserved bit, while FREE is not 0 and STATE is 1, takes one of
FREE and queues the record; any other counts DROPS. The oldest admission is captured once no other waits for its members: its record
and tables are read; a record that cannot be read is dropped, with DROPS, FREE and a record of KIND 5; one with a failing check is
refused, with FREE, the interrupt, and at DONE a completion record of STATUS 2 with the offset; one that passes is kept where the gang
is the package alone, else the other members are asked. A member that is asked checks JOBID, its table and DSMASK, keeps a place for the job
where none fails, and answers. The last answer decides: with none failing the admitting package keeps the job and tells the others to;
else it tells them not to, and refuses the job with the lowest offset. The last member to keep the job restores FREE. The clauses about
sheets are in another statement. -/
def Obligations.JobsAreAdmittedAndCaptured : Prop :=
  (∀ pkg bytes (v : Word) fw s, (fw = true ∨ pkg = s.dev.bridge) →
    let p := s.dev.pkg pkg
    let good := bytes = 8 ∧ v.toNat / 2 ^ 52 = 0 ∧ v.toNat % 2 ^ 8 = 0 ∧ p.admitUsed < 64 ∧ p.admitState = 1
    (good → exec (.admitJob pkg bytes v fw) s = goes s (s.dev.updPkg pkg fun p =>
      { p with admitUsed := p.admitUsed + 1, admissions := p.admissions ++ [(v.toNat, fw)] })) ∧
    (¬ good → exec (.admitJob pkg bytes v fw) s = goes s (s.dev.updPkg pkg fun p =>
      { p with admitDrop := (p.admitDrop + 1) % 2 ^ 32 }))) ∧
  (∀ pkg s, ((s.dev.pkg pkg).admissions = [] ∨ (s.dev.pkg pkg).capturing ≠ none) → exec (.jobCapture pkg) s = .next s) ∧
  (∀ pkg s addr fw rest, (s.dev.pkg pkg).capturing = none → (s.dev.pkg pkg).admissions = (addr, fw) :: rest →
    let D := captureTouch (s.dev.updPkg pkg fun p => { p with admissions := rest }) pkg addr
    let p := D.pkg pkg
    (∀ cause, physFault D pkg addr 256 = some cause → ∃ t, exec (.jobCapture pkg) s = .next t ∧ t.dev = { D with pkgs := t.dev.pkgs } ∧
      t.dev.pkg pkg = { p with
        admitUsed := p.admitUsed - 1, admitDrop := (p.admitDrop + 1) % 2 ^ 32
        frecs := p.frecs ++ [⟨cause, 5, 1, 0, 0, 0, 0, 0, 0, BitVec.ofNat 64 addr, 0⟩] }) ∧
    (∀ x off, readCapture D pkg addr fw = some x → ((captureChecks D pkg x).find? fun y => y.1) = some (true, off) →
      storable D pkg x.doneAddr 64 →
      ∃ t, exec (.jobCapture pkg) s = .next t ∧ reads t.dev x.doneAddr (completionText x.id 2 off x.types.2 0 0 0) ∧
        t.dev.pkg pkg = { p with
          admitUsed := p.admitUsed - 1
          msi := if x.rec_ / 2 ^ (8 * 177) % 2 ^ 8 ≤ 63 then p.msi ++ [x.rec_ / 2 ^ (8 * 177) % 2 ^ 8] else p.msi }) ∧
    (∀ x, readCapture D pkg addr fw = some x → (∀ y ∈ captureChecks D pkg x, y.1 = false) →
      (members s.dev x.gang = [pkg] → x.rec_ / 2 ^ (8 * 152) % 2 ^ 64 = 0 →
        ∃ t, exec (.jobCapture pkg) s = .next t ∧ keeps t.dev pkg x.id (jobOf pkg x) (x.inits.map (initTask x.id)) ∧
          (t.dev.pkg pkg).admitUsed = p.admitUsed - 1) ∧
      (∀ others, ((members s.dev x.gang).filter fun m => m ≠ pkg) = others → others ≠ [] →
        let j := captureJob pkg x
        exec (.jobCapture pkg) s = goes s
          { (D.updJob pkg x.id fun _ => { (default : Job) with tentative := true }).updPkg pkg fun p =>
              { p with capturing := some ⟨x.id, j, others, none⟩ } with
            msgs := D.msgs ++ others.map fun m => .capture m x.id (x.rec_ / 2 ^ (8 * 24) % 2 ^ 64) j }))) ∧
  (∀ m pkg job table j s, s.dev.msgs[m]? = some (.capture pkg job table j) →
    let D := ctlRead (without s m) pkg table 4096
    ∃ off, memberRefuses D pkg job table j off ∧ exec (.memberCapture m) s = goes s
      ((if off = none then D.updJob pkg job fun _ => { (default : Job) with tentative := true } else D).send
        (.captured j.admitPkg job pkg off))) ∧
  (∀ m pkg job member off x s, s.dev.msgs[m]? = some (.captured pkg job member off) → (s.dev.pkg pkg).capturing = some x → x.id = job →
    let left := x.waiting.erase member
    let bad := match x.bad, off with | some a, some b => some (min a b) | some a, none => some a | none, y => y
    let others := (members s.dev x.job.gang).filter fun p => p ≠ pkg
    (left ≠ [] → exec (.memberCapture m) s = goes s ((without s m).updPkg pkg fun p =>
      { p with capturing := some { x with waiting := left, bad := bad } })) ∧
    (left = [] → bad = none → x.job.sheet = none → (∀ y ∈ x.job.queues, ∀ q ∈ y.2, q.job = job) →
      ∃ t, exec (.memberCapture m) s = .next t ∧ keeps t.dev pkg job x.job (x.job.queues.flatMap Prod.snd) ∧
        (t.dev.pkg pkg).capturing = none ∧ t.dev.msgs = (without s m).msgs ++ others.map fun p => .keep p job true x.job) ∧
    (∀ o, left = [] → bad = some o → ∃ t, exec (.memberCapture m) s = .next t ∧ t.dev.job pkg job = default ∧
      (t.dev.pkg pkg).capturing = none ∧ (t.dev.pkg pkg).admitUsed = (s.dev.pkg pkg).admitUsed - 1 ∧
      (storable s.dev pkg x.job.doneAddr 64 →
        reads t.dev x.job.doneAddr (completionText job 2 o x.job.absent 0 0 0)) ∧
      ∀ p ∈ others, Msg.keep p job false x.job ∈ t.dev.msgs)) ∧
  (∀ m pkg job ok j s, s.dev.msgs[m]? = some (.keep pkg job ok j) →
    (ok = true → j.sheet = none → (∀ x ∈ j.queues, ∀ q ∈ x.2, q.job = job) →
      ∃ t, exec (.memberCapture m) s = .next t ∧ keeps t.dev pkg job j (j.queues.flatMap Prod.snd) ∧
        t.dev.msgs = (without s m).msgs ∧
        ((∃ p a k, Msg.keep p job a k ∈ (without s m).msgs) → t.dev.pkgs = s.dev.pkgs) ∧
        ((∀ p a k, Msg.keep p job a k ∉ (without s m).msgs) →
          (t.dev.pkg j.admitPkg).admitUsed = (s.dev.pkg j.admitPkg).admitUsed - 1)) ∧
    (ok = false → (s.dev.job pkg job).tentative = true →
      exec (.memberCapture m) s = goes s ((without s m).updJob pkg job fun _ => default)))

/-- R23, R37, R146, R147, R338, R339, R341, R386: placement of the head of a queue on the context number and the allotments that the
dispatcher has found, on a core with no saved task. The queue loses the task, the job takes its save area, the context is resident
and at ENTRY with the task, its privilege and its special registers, every other register 0, buckets full; its vector registers and
lane slices and the rest of its scratchpad and arena read 0, and the allotment record stands at the start of its scratchpad. -/
def Obligations.TasksArePlaced : Prop :=
  ∀ pkg job prio core n al q l area s,
    let j := s.dev.job pkg job
    let ty := j.types.get q.type
    let c := n * 2 ^ 17 + core
    let full (w : Word) : Nat := max (w.toNat / 2 ^ 32 % 2 ^ 24) 128 * 1024
    dispatch s.dev pkg = some (.place job prio core n al) → j.queues.get prio = q :: l → freeArea s.dev pkg job = some area → core < 2 ^ 17 → n < 4 →
    (∀ m, m < 4 → (s.dev.ctx (m * 2 ^ 17 + core)).cond ≠ .saved) →
    32 ≤ al.spLen → al.spBase + al.spLen ≤ 2 ^ 20 → al.arBase + al.arLen ≤ 2 ^ 20 → al.lsBase + al.lsLen ≤ 2 ^ 18 →
    al.vBase + al.vSize ≤ 128 →
    ∃ t, exec (.taskPlacement pkg) s = .next t ∧
      (∃ clock, t.dev.job pkg job = { j with queues := j.queues.set prio l, areas := j.areas ++ [area], lastPlaced := clock }) ∧
      (let k := t.dev.ctx c
       k = { (default : Ctx) with
        cond := .resident, pc := ty.entry, xfer := some (0, ty.entry), task := q, allot := al, priv := ty.priv, saveArea := area
        serial := k.serial, spr := k.spr, bktL2 := full ty.tbl2, bktHbm := full ty.tbhbm } ∧
       ∀ r, k.spr' r = startValue (s.dev.pkg pkg).pinlim j q area r) ∧
      (∀ r, r < al.vSize → t.dev.vpool.get (core * 128 + al.vBase + r) = 0) ∧
      (∀ a, al.lsBase ≤ a → a < al.lsBase + al.lsLen → rdByte t.dev.lanes (core * 2 ^ 18 + a) = 0) ∧
      (∀ o, o < 32 → rdByte t.dev.spad (core * 2 ^ 20 + al.spBase + o) = ((allotText al)[o]?).getD 0) ∧
      (∀ a, (al.spBase + 32 ≤ a ∧ a < al.spBase + al.spLen ∨ al.arBase ≤ a ∧ a < al.arBase + al.arLen ∧
          (a < al.spBase ∨ al.spBase + 32 ≤ a)) → rdByte t.dev.spad (core * 2 ^ 20 + a) = 0) ∧
      (∀ m, m < 4 → m ≠ n → (t.dev.ctx (m * 2 ^ 17 + core)).cond = (s.dev.ctx (m * 2 ^ 17 + core)).cond)

/-- R306, R343 to R346, R348 (with R386): spawn packets, cancellation and completion. A packet that may leave its core is enqueued and
acknowledged; at a cancelled job it is dropped, counted and acknowledged; for a specific target that is down, or at a package that is
out of reach, it is refused; one that may not leave yet, or whose job the package does not hold yet, waits. The acknowledgement takes
one off INFL, and a refusal traps REMOTE_ERROR in the issuing task while that runs. A cancel packet marks the job, empties its queues
and ends its tasks; one that overtakes the job itself waits for it. Completion takes two rounds with zero counts everywhere and equal EPOCHs: then the job is gone at every member, its die
scratchpads are zeroed and released, its barriers are released, and the completion record is written and the interrupt sent. -/
def Obligations.SpawnsAndCompletion : Prop :=
  (∀ m p s, let j := s.dev.job p.pkg p.task.job
    s.dev.msgs[m]? = some (.spawn p) → (spawnReady s.dev p = false → exec (.spawnReceive m) s = .next s) ∧
    (spawnReady s.dev p = true → (s.dev.pkg p.pkg).unreachable = true → exec (.spawnReceive m) s = goes s
      { s.dev with msgs := s.dev.msgs.eraseIdx m ++ [.spawnAck p true] }) ∧
    (spawnReady s.dev p = true → (s.dev.pkg p.pkg).unreachable = false → j.live = false → exec (.spawnReceive m) s = .next s) ∧
    (spawnReady s.dev p = true → (s.dev.pkg p.pkg).unreachable = false → j.live = true →
    (j.cancelled = true → exec (.spawnReceive m) s = goes s
      { (s.dev.updJob p.pkg p.task.job fun j => { j with dropped := j.dropped + 1 }) with
        msgs := s.dev.msgs.eraseIdx m ++ [.spawnAck p false] }) ∧
    (j.cancelled = false → p.task.any = false → coreDown s.dev p.task.target = true →
      exec (.spawnReceive m) s = goes s { s.dev with msgs := s.dev.msgs.eraseIdx m ++ [.spawnAck p true] }) ∧
    (j.cancelled = false → (p.task.any = true ∨ coreDown s.dev p.task.target = false) → exec (.spawnReceive m) s = goes s
      { (s.dev.updJob p.pkg p.task.job fun j =>
          { j with
            queues := j.queues.set p.task.prio (j.queues.get p.task.prio ++ [p.task]), out := j.out + 1, epoch := j.epoch + 1 }) with
        msgs := s.dev.msgs.eraseIdx m ++ [.spawnAck p false] }))) ∧
  (∀ m p s, let home := p.ctx / 2 ^ 11 % 64
    let told := (without s m).updJob home p.task.job fun j => { j with infl := j.infl - 1 }
    let trap : TrapRec := { (default : TrapRec) with
      cause := 0x0C, info0 := BitVec.ofNat 64 p.task.target, info1 := 0xF05, imp := true, slot := 7, opc := 5 }
    (s.dev.msgs[m]? = some (.spawnAck p false) → exec (.spawnAck m) s = goes s told) ∧
    (s.dev.msgs[m]? = some (.spawnAck p true) → lone s.dev p.ctx → (s.dev.ctx p.ctx).serial = p.serial →
      (s.dev.ctx p.ctx).cond = .resident →
      exec (.spawnAck m) s = goes s (told.updCtx p.ctx fun k => { k with asyncs := k.asyncs ++ [trap] })) ∧
    (s.dev.msgs[m]? = some (.spawnAck p true) → lone s.dev p.ctx → (s.dev.ctx p.ctx).serial ≠ p.serial →
      exec (.spawnAck m) s = goes s told)) ∧
  (∀ m pkg job s, let j := s.dev.job pkg job
    s.dev.msgs[m]? = some (.cancel pkg job) →
    (onItsWay s.dev pkg job → exec (.cancelPacket m) s = .next s) ∧
    (¬ onItsWay s.dev pkg job → (j.live = false ∨ j.cancelled = true) → exec (.cancelPacket m) s = goes s (without s m)) ∧
    (¬ onItsWay s.dev pkg job → j.live = true → j.cancelled = false → ∃ t, exec (.cancelPacket m) s = .next t ∧
      (t.dev.job pkg job).cancelled = true ∧ (t.dev.job pkg job).queues = [] ∧
      ∀ c, c / 2 ^ 11 % 64 = pkg → (s.dev.ctx c).task.job = job → (t.dev.ctx c).cond = .free)) ∧
  (∀ pkg job s, let j := s.dev.job pkg job
    let all := (members s.dev j.gang).map fun p => s.dev.job p job
    let counts := (all.map fun x => x.out + x.infl).sum
    j.live = true → j.admitPkg = pkg → (∀ x ∈ all, x.live = true) →
    (counts ≠ 0 → exec (.jobCompletionRound pkg job) s = goes s (s.dev.updJob pkg job fun x => { x with round := none })) ∧
    (counts = 0 → j.round ≠ some (all.map Job.epoch) →
      exec (.jobCompletionRound pkg job) s = goes s (s.dev.updJob pkg job fun x => { x with round := some (all.map Job.epoch) })) ∧
    (counts = 0 → j.round = some (all.map Job.epoch) → storable s.dev pkg j.doneAddr 64 →
      ∃ t, exec (.jobCompletionRound pkg job) s = .next t ∧
        reads t.dev j.doneAddr (completionText job (if j.cancelled then 1 else 0) 0 j.absent
          ((all.map Job.dropped).sum) ((all.map fun x => (x.sheet.map Sheet.slipw).getD 0).sum)
          ((all.map fun x => (x.sheet.map Sheet.badent).getD 0).sum)) ∧
        (t.dev.pkg pkg).msi = (if j.msiv ≤ 63 then (s.dev.pkg pkg).msi ++ [j.msiv] else (s.dev.pkg pkg).msi) ∧
        ∀ p ∈ members s.dev j.gang, t.dev.job p job = default ∧
          (∀ b, b / 512 = p → (s.dev.barriers.get b).job = job → (t.dev.barriers.get b).expect = 0) ∧
          ∀ i, i < 8 → (s.dev.dies.get (8 * p + i)).dsown.toNat = 2 ^ 63 + job →
            (t.dev.dies.get (8 * p + i)).dsown.toNat = job ∧
            ∀ a, a < 2 ^ 26 → rdByte t.dev.dspad ((8 * p + i) * 2 ^ 26 + a) = 0))

/-- R354 to R357: call sheets. An entry of the current frame that names a type and a core of the package is enqueued at its tick at
priority 15, counted, and live; not before; one that names none of them retires at that tick, and BADENT counts it (the clauses
are about the last entry of a sheet, which is the only one that is then released). A sheet starts at T0. A frame that is not over goes
on; after the last the sheet ends; else, standalone, the next starts at max(S + F, t), t the tick of its last retirement, and where
that is later than S + F the slip record is written, SLIPW counts it, and SLIPW and BADENT are written. In a gang, a member reports its
last retirement and its late entries to the leader, the leader answers the last report with max(S + F, FRAME + 200) and the late
entries of all to every member, and a member starts there, or at once where that has passed. -/
def Obligations.CallSheetsRun : Prop :=
  (∀ pkg job sh e e0 s, let j := s.dev.job pkg job
    let now := (s.dev.pkg pkg).frame.toNat
    let core := e / 2 ^ 96 % 2 ^ 17
    let due := sh.start + e / 2 ^ 32 % 2 ^ 32
    let D := jobTouch s.dev pkg j (sh.addr.toNat + 32 + 32 * sh.next) 32
    j.sheet = some sh → sh.started = true → sh.ended = false → sh.next + 1 = sh.nent → sheetEntry s.dev pkg j sh sh.next = some e0 →
    e0 % 2 ^ 32 = sh.frame → sheetEntry D pkg j sh sh.next = some e →
    (now < due → exec (.callSheetRelease pkg job) s = goes s D) ∧
    (due ≤ now → e / 2 ^ 72 % 2 ^ 24 = 0 → e / 2 ^ 113 % 2 ^ 15 = 0 → e / 2 ^ 192 % 2 ^ 64 = 0 → e / 2 ^ 64 % 2 ^ 8 ∈ j.types.map Prod.fst →
      core / 2 ^ 11 = pkg → core ∉ s.dev.disabled → core % 64 < 48 →
      exec (.callSheetRelease pkg job) s = goes s (D.updJob pkg job fun j =>
        { j with
          queues := j.queues.set 15 (j.queues.get 15 ++ [⟨job, e / 2 ^ 64 % 2 ^ 8, 15, BitVec.ofNat 64 (e / 2 ^ 128 % 2 ^ 64), 0, 0, false, core,
            some (sh.frame, sh.next)⟩])
          out := j.out + 1, epoch := j.epoch + 1
          sheet := some { sh with next := sh.next + 1, live := sh.live ++ [sh.next] } })) ∧
    (due ≤ now → (e / 2 ^ 72 % 2 ^ 24 ≠ 0 ∨ e / 2 ^ 113 % 2 ^ 15 ≠ 0 ∨ e / 2 ^ 192 % 2 ^ 64 ≠ 0 ∨ e / 2 ^ 64 % 2 ^ 8 ∉ j.types.map Prod.fst ∨
        core / 2 ^ 11 ≠ pkg ∨ core ∈ s.dev.disabled ∨ 48 ≤ core % 64) →
      ∃ t, exec (.callSheetRelease pkg job) s = .next t ∧ (t.dev.job pkg job) = { j with
        sheet := some { sh with next := sh.next + 1, badent := sh.badent + 1, lastRetire := max sh.lastRetire due } })) ∧
  (∀ pkg job sh s, let j := s.dev.job pkg job
    let now := (s.dev.pkg pkg).frame.toNat
    let s0 := sh.start + sh.fticks
    j.sheet = some sh → sh.ended = false →
    (sh.started = false → sh.t0 ≤ now → exec (.frameStart pkg job) s = goes s (withSheet s.dev pkg job
      { sh with started := true, frame := 0, start := sh.t0, lastRetire := sh.t0, live := [], next := 0, nlate := 0, firstLate := 0 })) ∧
    (sh.started = false → now < sh.t0 → exec (.frameStart pkg job) s = .next s) ∧
    (sh.started = true → sh.live ≠ [] → exec (.frameStart pkg job) s = .next s) ∧
    (sh.started = true → frameOver s.dev pkg j sh → sh.nframe ≤ sh.frame + 1 →
      exec (.frameStart pkg job) s = goes s (withSheet s.dev pkg job { sh with ended := true })) ∧
    (sh.started = true → frameOver s.dev pkg j sh → sh.frame + 1 < sh.nframe → (members s.dev j.gang).length = 1 →
      (now < max s0 sh.lastRetire → exec (.frameStart pkg job) s = .next s) ∧
      (s0 ≤ now → sh.lastRetire ≤ s0 → exec (.frameStart pkg job) s = goes s (withSheet s.dev pkg job (nextSheet sh s0))) ∧
      (∀ pa ph, s0 < sh.lastRetire → sh.lastRetire ≤ now → sh.slipn ≠ 0 →
        winPa j (sh.slipAddr.toNat + 32 * (sh.slipw % sh.slipn)) pa → storable s.dev pkg pa 32 →
        winPa j (sh.addr.toNat + 24) ph → storable s.dev pkg ph 8 → (pa + 32 ≤ ph ∨ ph + 8 ≤ pa) →
        ∃ t, exec (.frameStart pkg job) s = .next t ∧
          reads t.dev pa (slipText sh.frame sh.nlate (sh.lastRetire - s0) sh.firstLate sh.lastRetire) ∧
          reads t.dev ph (littleEndian 4 (sh.slipw + 1) ++ littleEndian 4 sh.badent) ∧
          t.dev.job pkg job = { j with sheet := some (nextSheet { sh with slipw := sh.slipw + 1 } sh.lastRetire) })) ∧
    (∀ lead more, sh.started = true → frameOver s.dev pkg j sh → sh.frame + 1 < sh.nframe → members s.dev j.gang = lead :: more →
      more ≠ [] → lead ≠ pkg → sh.due = none → sh.reported = false →
      exec (.frameStart pkg job) s = goes s { (withSheet s.dev pkg job { sh with reported := true }) with
        msgs := s.dev.msgs ++ [.report lead job ⟨pkg, sh.lastRetire, sh.nlate, sh.firstLate⟩] })) ∧
  (∀ m pkg job r sh s, let j := s.dev.job pkg job
    let reports := sh.reports ++ [r]
    let x := nextStart sh reports (s.dev.pkg pkg).frame.toNat
    s.dev.msgs[m]? = some (.report pkg job r) → j.sheet = some sh →
    ((∃ p ∈ members s.dev j.gang, ∀ r ∈ reports, r.member ≠ p) →
      exec (.retirementReport m) s = goes s (withSheet (without s m) pkg job { sh with reports := reports })) ∧
    ((∀ p ∈ members s.dev j.gang, ∃ r ∈ reports, r.member = p) →
      exec (.retirementReport m) s = goes s { (withSheet s.dev pkg job { sh with reports := [], due := some x }) with
        msgs := (without s m).msgs ++ ((members s.dev j.gang).filter fun p => p != pkg).map fun p => .frame p job (sh.frame + 1) x })) ∧
  (∀ m pkg job f x sh s, let j := s.dev.job pkg job
    let now := (s.dev.pkg pkg).frame.toNat
    s.dev.msgs[m]? = some (.frame pkg job f x) → j.sheet = some sh → sh.ended = false →
    (f ≠ sh.frame + 1 → exec (.frameStartMessage m) s = goes s (without s m)) ∧
    (f = sh.frame + 1 → now ≤ x.tick →
      exec (.frameStartMessage m) s = goes s (withSheet (without s m) pkg job { sh with due := some x })) ∧
    (f = sh.frame + 1 → x.tick < now → ∃ t slips, exec (.frameStartMessage m) s = .next t ∧
      (t.dev.job pkg job).sheet = some (nextSheet { sh with slipw := sh.slipw + slips } now) ∧
      slips = if sh.start + sh.fticks < x.tick then 2 else 1))

namespace Sys2Proof.Claims

/-! ## Engines at work: queues, copies, rings and streams (R118 to R144) -/

/-- The head operation of a queue is replaced. -/
def withHead (k : Ctx) (q : Nat) (o : EngOp) (r : List EngOp) : Ctx := { k with queues := k.queues.set q (o :: r) }

/-- An operation may go on: it has started, or earlier scalar accesses have performed and no fence of its queue is before it (R119,
R144). -/
def mayGo (k : Ctx) (q : Nat) (o : EngOp) : Prop :=
  o.phase = .started ∨
    o.phase = .queued ∧ (∀ a ∈ k.gq, o.gtag < a.tag) ∧ ∀ f ∈ k.fences, f.mask.getLsbD q = true → o.seq ≤ f.seq

/-- Operations that have nothing left to do once they start, with their queues (R119, R136, R141, R305). -/
def quickQueue : EOp → Option Nat
  | .strb _ => some 0
  | .subs _ => some 1
  | .cttset _ | .cttrdy _ => some 3
  | _ => none

/-- CUEPEND with a bit set (R122, R144). -/
def cued (k : Ctx) (bit : Nat) : Ctx := { k with spr := k.spr.set 0x062 (k.spr.get 0x062 ||| BitVec.ofNat 64 (2 ^ bit)) }

/-- Place of an address of a context's SPACE 0, for an address inside the allotment (R145, R147). -/
def spadAt (c : Nat) (k : Ctx) (a : Nat) : Nat := c % 2 ^ 17 * 2 ^ 20 + k.allot.spBase + a

/-- The allotment of SPACE 0 lies in the scratchpad, which has no erroneous word. -/
def soundSpad (d : Dev) (k : Ctx) : Prop := k.allot.spBase + k.allot.spLen ≤ 2 ^ 20 ∧ d.badSpad = []

/-- A record of KIND 1 (R403): an engine's page fault, with what UTINFO0 and UTINFO1 would have held. -/
def pageRecord (c : Nat) (k : Ctx) (q access : Nat) (a pc info0 info1 : Word) : FRec :=
  ⟨0x0A, 1, access + (if k.priv then 8 else 0), q, c % 2 ^ 19, k.task.job, a, pc, k.bclk, info0, info1⟩

/-- A device with a page fault's record at the package of its context. -/
def withRecord (d : Dev) (c q access : Nat) (a pc info0 info1 : Word) : Dev :=
  d.updPkg (c / 2 ^ 11 % 64) fun p => { p with frecs := p.frecs ++ [pageRecord c (d.ctx c) q access a pc info0 info1] }

/-- A ring control block (R133). -/
def ringText (u : Sub) : List Byte :=
  littleEndian 4 u.ring ++ littleEndian 2 u.slotsz ++ littleEndian 2 u.nslot ++ littleEndian 4 u.fill ++ littleEndian 4 u.rel ++
    littleEndian 4 u.fin ++ littleEndian 4 u.stored ++ littleEndian 1 u.state ++ littleEndian 1 u.ecause ++ littleEndian 2 0 ++
    littleEndian 4 u.etile

/-- A subscription with its control block after a change (R133). -/
def withRing (d : Dev) (c n : Nat) (u : Sub) : Dev :=
  let k := d.ctx c
  { (d.setCtx c { k with subs := k.subs.set n u }) with spad := wrMem d.spad (spadAt c k u.rcb) (ringText u) }

/-- A stream of a context after a change. -/
def withStream (k : Ctx) (n : Nat) (st : Stream) : Ctx := { k with streams := k.streams.set n st }

/-- A context as a transfer issued with a window begins: that window is in force, and it has made no line request (R74, R126). -/
def transferring (w : Win) (k : Ctx) : Ctx :=
  { k with spr := ((k.spr.set 0x040 w.base).set 0x041 w.len).set 0x042 w.off, reqs := ⟨0, 0⟩ }

/-- RATE of a token bucket's register is 0: it regulates nothing (R125). -/
def unregulated (k : Ctx) (r : Nat) : Prop := k.spr.get r % 2 ^ 32 = 0

end Sys2Proof.Claims

/-- R83, R119, R122, R131, R137 to R141, R144, R276: the head operation of a queue. It starts once earlier scalar accesses have
performed and no fence of its queue is before it, and not sooner. `strb`, `subs`, `cttset` and `cttrdy` are finished as they start;
`rrel` and `rfin` hand their counts over; `unsub` waits for its stores, `stru` for its pushes, `chbuild` for its links. A copy makes
some progress: the bytes copied are the source's, and no other byte changes. A finished operation leaves its queue, writes ticket
and result to its completion word and raises its cue; a fence that has nothing left to wait for goes, with its cue. A copy that
meets a fault is finished with its cause and traps; one that meets a page fault is suspended with a record. -/
def Obligations.EnginesCarryOn : Prop :=
  (∀ c q o r s, let k := s.dev.ctx c
    let head (o : EngOp) : Out := goes s (s.dev.updCtx c fun k => withHead k q o r)
    lone s.dev c → k.queues.get q = o :: r →
    (¬ mayGo k q o → exec (.engineOperationStart c q) s = .next s) ∧
    (mayGo k q o →
      (quickQueue o.kind = some q → exec (.engineOperationStart c q) s = head { o with phase := .finished, result := 0 }) ∧
      (∀ n m, o.kind = .rrel n m → q = 1 → exec (.engineOperationStart c q) s = goes s (s.dev.updCtx c fun k =>
        { withHead k q { o with phase := .finished, result := 0 } r with
          subs := k.subs.set n { k.subs.get n with relOk := m } })) ∧
      (∀ n m, o.kind = .rfin n m → q = 1 → exec (.engineOperationStart c q) s = goes s (s.dev.updCtx c fun k =>
        { withHead k q { o with phase := .finished, result := 0 } r with
          subs := k.subs.set n { k.subs.get n with finOk := m } })) ∧
      (∀ n fin, o.kind = .unsub n fin → q = 1 → let u := k.subs.get n
        (u.state = 4 → exec (.engineOperationStart c q) s = head { o with phase := .finished, result := u.ecause }) ∧
        (u.state ≠ 4 → (u.filling = true ∨ (u.mode = 2 ∨ u.mode = 3) ∧ u.stored < fin) →
          exec (.engineOperationStart c q) s = head { o with phase := .started }) ∧
        (u.state ≠ 4 → u.filling = false → (u.mode = 1 ∨ fin ≤ u.stored) → soundSpad s.dev k → u.rcb + 32 ≤ k.allot.spLen →
          exec (.engineOperationStart c q) s = goes s ((withRing s.dev c n { u with state := 3 }).updCtx c fun k =>
            withHead k q { o with phase := .finished, result := 0 } r))) ∧
      (∀ n, o.kind = .stru n → q = 0 →
        (o.pos = 0 ∨ k.unperformed n o.pos = 0 → exec (.engineOperationStart c q) s = head { o with phase := .finished, result := 0 }) ∧
        (o.pos ≠ 0 → k.unperformed n o.pos ≠ 0 → exec (.engineOperationStart c q) s = head { o with phase := .started })) ∧
      (∀ h, o.kind = .chbuild h → q = 5 →
        (liveChain s.dev h = none → exec (.engineOperationStart c q) s = head { o with phase := .finished, result := 0x13 }) ∧
        (liveChain s.dev h ≠ none → exec (.engineOperationStart c q) s = head { o with phase := .started })) ∧
      (∀ core slot data, o.kind = .hop core slot data → q = 5 → let m : Msg := .hop core slot data
        (o.phase = .queued → exec (.engineOperationStart c q) s =
          goes s ({ s.dev with msgs := s.dev.msgs ++ [m] }.updCtx c fun k => withHead k q { o with phase := .started } r)) ∧
        (o.phase = .started → m ∈ s.dev.msgs → exec (.engineOperationStart c q) s = .next s) ∧
        (o.phase = .started → m ∉ s.dev.msgs →
          exec (.engineOperationStart c q) s = head { o with phase := .finished, result := 0 })) ∧
      (∀ x, o.kind = .cpy x → q = 0 → x.ssp = 0 → x.dsp = 0 → k.nodes = [] → soundSpad s.dev k → o.pos < x.bytes →
        (∀ j, j < x.bytes → (x.at j).1 < k.allot.spLen ∧ (x.at j).2.1 < k.allot.spLen) →
        (∀ i1 i2 i3 : Nat, i1 < x.n1 → i2 < x.n2 → i3 < x.n3 → 0 ≤ (x.da : Int) + i1 * x.ds1 + i2 * x.ds2 + i3 * x.ds3) →
        ∃ p m, exec (.engineOperationStart c q) s = goes s { (s.dev.updCtx c fun k =>
            withHead k q { o with pos := p, phase := if p = x.bytes then .finished else .started, paid := ⟨0, 0⟩ } r) with spad := m } ∧
          o.pos < p ∧ p ≤ x.bytes ∧
          (∀ j, o.pos ≤ j → j < p → rdByte m (spadAt c k (x.at j).2.1) = rdByte s.dev.spad (spadAt c k (x.at j).1)) ∧
          ∀ a, (∀ j, o.pos ≤ j → j < p → a ≠ spadAt c k (x.at j).2.1) → rdByte m a = rdByte s.dev.spad a))) ∧
  (∀ c q o r s, let k := s.dev.ctx c
    let after (k : Ctx) : Ctx := let k1 := { k with queues := k.queues.set q r }; if o.cue then cued k1 q else k1
    lone s.dev c → k.queues.get q = o :: r →
    (o.phase ≠ .finished → exec (.engineOperationCompletion c q) s = .next s) ∧
    (o.phase = .finished →
      (k.fences = [] → o.done = none → exec (.engineOperationCompletion c q) s = goes s (s.dev.updCtx c after)) ∧
      (∀ a, k.fences = [] → o.done = some a → soundSpad s.dev k → a + 8 ≤ k.allot.spLen →
        exec (.engineOperationCompletion c q) s = goes s { (s.dev.updCtx c after) with
          spad := wrMem s.dev.spad (spadAt c k a) (littleEndian 8 (o.ticket + o.result % 256 * 2 ^ 32)) }) ∧
      (∀ f j, k.fences = [f] → o.done = none → f.mask.getLsbD j = true → (∀ i, i < j → f.mask.getLsbD i = false) →
        let waitsStill := ∃ i, f.mask.getLsbD i = true ∧ ∃ x ∈ (after k).queues.get i, x.seq ≤ f.seq
        (waitsStill → exec (.engineOperationCompletion c q) s = goes s (s.dev.updCtx c after)) ∧
        (¬ waitsStill → exec (.engineOperationCompletion c q) s = goes s (s.dev.updCtx c fun k =>
          let k1 := { after k with fences := [] }
          if f.cue then cued k1 j else k1))))) ∧
  (∀ c o r x d cause a s, let k := d.ctx c
    let write := cpyWriteFault s.dev c o x
    let trap : TrapRec := { (default : TrapRec) with
      cause := cause, info0 := a, info1 := 0xD01, info2 := BitVec.ofNat 64 o.ticket, imp := true
      access := if write then 2 else 1, va := a, slot := 6, opc := 1 }
    lone s.dev c → d.spilled = s.dev.spilled → (s.dev.ctx c).queues.get 0 = o :: r → k.queues.get 0 = o :: r → o.kind = .cpy x →
    cpyNext s.dev c o x = .fault d cause a →
    (cause ≠ 0x0A → o.phase = .started → exec (.copyFault c) s = goes s (d.updCtx c fun k =>
      { withHead k 0 { o with phase := .finished, result := cause } r with asyncs := k.asyncs ++ [trap] })) ∧
    (cause = 0x0A → mayGo (s.dev.ctx c) 0 o → o.pos < x.bytes → exec (.enginePageFault c 0) s = goes s
      ((withRecord d c 0 (if write then 2 else 1) a o.pc a 0xD01).updCtx c fun k => withHead k 0 { o with phase := .suspended } r)))

/-- R83, R126, R133 to R135, R137, R139, R142, R143: rings and streams. A fill or a store of a tile without a fault counts FILL or
STORED in the ring's control block; one with a fault ends the ring: ERROR, with its cause, tile and address, and RING_ERROR is
raised; one with a page fault is suspended with a record, whether Q1 holds an operation or not, and a fill suspended is still under
way. An element of an inbound stream is read ahead into its buffer, one of an outbound stream is written where its bytes are selected,
and nowhere else. An access of SPACE 0 takes nothing from a bucket; one that makes line requests of its die's L2 takes 128 bytes from
TBL2's bucket for each, and waits for the bucket until all have been let through. An inbound element that faults is buffered with its
fault, an outbound one is lost and traps; on a page fault the stream is suspended with a record. What may not move yet does not. -/
def Obligations.RingsAndStreamsMove : Prop :=
  (∀ c n d s, let k := d.ctx c
    let u := k.subs.get n
    lone s.dev c → u.state ≠ 0 → soundSpad d k → u.rcb + 32 ≤ k.allot.spLen → d.spilled = s.dev.spilled →
    (mayFill (s.dev.ctx c) n = true → fillNext s.dev c n = .ok d () →
      exec (.subscriptionFill c n) s = goes s (withRing d c n { u with fill := u.fill + 1, filling := false })) ∧
    (mayStore (s.dev.ctx c) n = true → storeNext s.dev c n = .ok d () →
      exec (.storerWrite c n) s = goes s (withRing d c n { u with stored := u.stored + 1 }))) ∧
  (∀ c n s, lone s.dev c → (mayFill (s.dev.ctx c) n = false → exec (.subscriptionFill c n) s = .next s) ∧
    (mayStore (s.dev.ctx c) n = false → exec (.storerWrite c n) s = .next s)) ∧
  (∀ c n d cause a store s, let k := d.ctx c
    let u := k.subs.get n
    let tile := if store then u.stored else u.fill
    let trap : TrapRec := { (default : TrapRec) with
      cause := 0x14, info0 := BitVec.ofNat 64 (n + 4 * 256), info1 := 0x100, info2 := a
      info3 := BitVec.ofNat 64 (cause + tile * 2 ^ 32), imp := true, access := if store then 2 else 1, va := a }
    lone s.dev c → d.spilled = s.dev.spilled → ringFaultOf s.dev c n = some (d, cause, a, store) →
    (cause ≠ 0x0A → soundSpad d k → u.rcb + 32 ≤ k.allot.spLen → exec (.ringFault c n) s = goes s
      ((withRing d c n { u with state := 4, ecause := cause, etile := tile, eva := a, filling := false, paidL := ⟨0, 0⟩
                                paidS := ⟨0, 0⟩ }).updCtx c fun k => { k with asyncs := k.asyncs ++ [trap] })) ∧
    (cause = 0x0A → n < 8 → (s.dev.ctx c).queues.get 1 = [] → k.subs = (s.dev.ctx c).subs → (∀ m, m ≠ n → (k.subs.get m).state = 0) →
      exec (.enginePageFault c 1) s = goes s
        ((withRecord d c 1 (if store then 2 else 1) a u.pc (BitVec.ofNat 64 (n + 4 * 256)) 0x100).updCtx c fun k =>
          { k with subs := k.subs.set n (if store then { u with suspS := true } else { u with suspL := true, filling := true }) }))) ∧
  (∀ c n s, let k := s.dev.ctx c
    let st := k.streams.get n
    let a := (st.elemAddr st.fetch).toNat
    lone s.dev c → k.cond ≠ .free →
    (mayPrefetch s.dev c n = false → exec (.streamPrefetch c n) s = .next s) ∧
    (mayPrefetch s.dev c n = true →
      (st.space = 0 → soundSpad s.dev k → 0 ≤ st.elemAddr st.fetch → a + 256 ≤ k.allot.spLen →
        ∃ v, exec (.streamPrefetch c n) s = goes s (s.dev.updCtx c fun k =>
            withStream k n { st with buf := st.buf ++ [(v, none)], fetch := st.fetch + 1, paidIn := ⟨0, 0⟩ }) ∧
          ∀ b, b < 256 → BitVec.ofNat 8 (elem v 8 b) = rdByte s.dev.spad (spadAt c k (a + b))) ∧
      (∀ d bs, eRead (s.dev.updCtx c (transferring st.win)) c st.space a 256 = .ok d bs → d.spilled = s.dev.spilled →
        (d.ctx c).streams = k.streams → (d.ctx c).cond = k.cond → let r := (d.ctx c).reqs
        let cost := r.l2 * (128 * 1024)
        let v := BitVec.ofNat 2048 (ofBytes bs)
        let filled := { st with buf := st.buf ++ [(v, none)], fetch := st.fetch + 1, paidIn := ⟨0, 0⟩ }
        unregulated k 0x091 → st.paidIn = ⟨0, 0⟩ →
        (unregulated k 0x090 ∨ cost ≤ k.bktL2 → exec (.streamPrefetch c n) s = goes s (d.updCtx c fun x =>
          withStream { x with
            spr := k.spr, reqs := k.reqs, bktHbm := k.bktHbm
            bktL2 := if bits (k.spr.get 0x090) 0 32 = 0 then k.bktL2 else k.bktL2 - cost } n filled)) ∧
        (¬ unregulated k 0x090 → k.bktL2 < cost → exec (.streamPrefetch c n) s = goes s (s.dev.updCtx c fun k =>
          withStream { k with bktL2 := k.bktL2 % (128 * 1024) } n { st with paidIn := ⟨k.bktL2 / (128 * 1024), r.hbm⟩ }))) ∧
      (∀ e x, prefetchNext s.dev c n = .fault e 0x0A x → e.spilled = s.dev.spilled → let ad := BitVec.ofInt 64 (st.elemAddr st.fetch)
        exec (.streamElementFault c n) s = goes s ((withRecord e c 0 1 ad ((e.ctx c).streams.get n).pc ad 0).updCtx c fun k =>
          withStream k n { k.streams.get n with susp := true })) ∧
      (∀ cause e x, cause ≠ 0x0A → prefetchNext s.dev c n = .fault e cause x → e.spilled = s.dev.spilled →
        (e.ctx c).streams = k.streams → (e.ctx c).cond = k.cond →
        let ad := BitVec.ofInt 64 (st.elemAddr st.fetch)
        let trap : TrapRec := { (default : TrapRec) with
          cause := cause, info0 := ad, info2 := BitVec.ofNat 64 n, info3 := BitVec.ofNat 64 st.fetch, access := 1, va := ad }
        exec (.streamElementFault c n) s = goes s (e.updCtx c fun k => withStream k n
          { st with buf := st.buf ++ [(0, some trap)], fetch := st.fetch + 1, paidIn := ⟨0, 0⟩ }))) ∧
    (pushReady s.dev c n = none → exec (.streamPushPerform c n) s = .next s) ∧
    (∀ p l, pushReady s.dev c n = some p → st.pushed = p :: l →
      (p.space = 0 → soundSpad s.dev k → p.addr + 256 ≤ k.allot.spLen →
        ∃ m, exec (.streamPushPerform c n) s = goes s { (s.dev.updCtx c fun k =>
            withStream k n { st with pushed := l, paidOut := ⟨0, 0⟩ }) with spad := m } ∧
          ∀ x, rdByte m x = if spadAt c k p.addr ≤ x ∧ x < spadAt c k p.addr + 256 ∧ p.sel.getLsbD (x - spadAt c k p.addr) = true
            then BitVec.ofNat 8 (elem p.val 8 (x - spadAt c k p.addr)) else rdByte s.dev.spad x) ∧
      (∀ e x, mayPrefetch s.dev c n = false → pushWrite s.dev c n p = .fault e 0x0A x → e.spilled = s.dev.spilled →
        exec (.streamElementFault c n) s = goes s
          ((withRecord e c 0 2 (BitVec.ofNat 64 p.addr) ((e.ctx c).streams.get n).pc (BitVec.ofNat 64 p.addr) 0x100).updCtx c fun k =>
            withStream k n { k.streams.get n with susp := true })) ∧
      (∀ cause e x, mayPrefetch s.dev c n = false → cause ≠ 0x0A → pushWrite s.dev c n p = .fault e cause x →
        e.spilled = s.dev.spilled → (e.ctx c).streams = k.streams → (e.ctx c).cond = k.cond →
        let trap : TrapRec := { (default : TrapRec) with
          cause := cause, info0 := BitVec.ofNat 64 p.addr, info1 := 0x100
          info2 := BitVec.ofNat 64 n, info3 := BitVec.ofNat 64 p.elem, imp := true, access := 2, slot := p.slot, opc := p.opc
          va := BitVec.ofNat 64 p.addr }
        exec (.streamElementFault c n) s = goes s (e.updCtx c fun k =>
          { withStream k n { st with pushed := l, paidOut := ⟨0, 0⟩ } with asyncs := k.asyncs ++ [trap] }))))

namespace Sys2Proof.Claims

/-! ## Coherence, update lines and translations (R76 to R111) -/

/-- A line of main memory whose package asks for no notification, and whose data is sound where memory supplies it (R88, R90). -/
def soundLine (d : Dev) (line : Nat) : Prop :=
  isMemory (128 * line) = true ∧ (d.pkg (128 * line / 2 ^ 46 % 64)).migThresh = 0 ∧ d.lineBad line = false

/-- Such a line in normal state (R109). -/
def plainLine (d : Dev) (line : Nat) : Prop := soundLine d line ∧ (d.homes.get line).upd = none

/-- The device with one access more of a requester in the counter of a line's region (R89). -/
def countedOnce (d : Dev) (line who : Nat) : Dev :=
  let g := d.regions.get (line / 2 ^ 14)
  let g1 : Region := { g with count := if g.count = 65535 then 65535 else g.count + 1, who := g.who ||| BitVec.ofNat 9 (2 ^ (who % 16)) }
  { d with regions := d.regions.set (line / 2 ^ 14) g1 }

/-- Holders that the home takes for possible holders of a line, with one more (R97). -/
def hinted (l : List Nat) (r : Nat) : List Nat := if r ∈ l then l else l ++ [r]

/-- A device with the home's state of a line, and with more messages in flight. -/
def withHome (d : Dev) (line : Nat) (x : Home) (ms : List Msg) : Dev := { d with homes := d.homes.set line x, msgs := d.msgs ++ ms }

/-- A device with a holder's state of a line, and with more messages in flight. -/
def withHolder (d : Dev) (line h : Nat) (x : HLine) (ms : List Msg) : Dev :=
  { d with holders := d.holders.set (line * 1024 + h) x, msgs := d.msgs ++ ms }

/-- What is left of a holder's state once everything of the line has gone (R96). -/
def bare (x : HLine) : HLine := { x with tokens := 0, owner := false, dirty := false, cmp := false, data := none, pinned := 0 }

/-- The message with everything that a holder has of a line. -/
def everything (x : HLine) (line h : Nat) (dest : Option Nat) : Msg :=
  .toks line dest h x.tokens x.owner x.dirty x.cmp (if x.owner then x.data else none)

/-- What the home gives with all its tokens (R97): the owner token and the data with them where it has them. -/
def homeAll (d : Dev) (line r : Nat) : Msg :=
  let x := d.homes.get line
  .toks line (some r) r (1024 - x.away) (!x.ownerAway) false false (if x.ownerAway then none else some (memLine d line))

/-- No context of a holder's die waits for memory. -/
def noneWaits (d : Dev) (h : Nat) : Prop := ∀ c, 16 * (c / 2 ^ 11 % 64) + c / 2 ^ 8 % 8 = h → (d.ctx c).gq = []

/-- A holder's slice holds no more lines than a set has ways, so no access of it bypasses (R102). -/
def roomy (d : Dev) (h : Nat) : Prop := (heldLines d h).length ≤ 16

/-- Requests that make the home merge a line in update state with an operation (R109). -/
def served (line : Nat) (op : RedOp) : Msg → Bool
  | .tread l _ _ | .twrite l _ _ | .belay l _ => l == line
  | .join l _ o => l == line && o != op
  | _ => false

/-- A join that finds its line in normal state waits at a home of a package (R110). -/
def joinWaiting (d : Dev) (pkg n : Nat) : Prop :=
  ∃ l die op, .join l die op ∈ d.msgs ∧ 128 * l / 2 ^ 46 % 64 = pkg ∧ stackOf (128 * l) = n ∧ (d.homes.get l).upd = none

/-- A table entry's line is at the system cache of a package, readable (R92). -/
def cachedEntry (d : Dev) (pkg a : Nat) : Prop :=
  isMemory a = true ∧ 1 ≤ (d.hl (a / 128) (16 * pkg + 8)).tokens ∧ (d.hl (a / 128) (16 * pkg + 8)).data ≠ none ∧ a / 128 ∉ d.badLines

/-- What a merge writes for an element, from memory's value and the operands (R111): `y` is that value. -/
def mergesTo (op : RedOp) (m : Nat) (ops : List Nat) (y : Nat) : Prop :=
  let xs := ops.map (· % 2 ^ 32)
  let all := m :: xs
  let val (x : Nat) : FVal := valueOf .f32 x
  let numbers := all.filter fun x => !(val x).isNan
  let pos := ∃ x ∈ all, (val x).isInf = true ∧ (val x).neg = false
  let neg := ∃ x ∈ all, (val x).isInf = true ∧ (val x).neg = true
  let t : Int := (all.map fun x => match val x with
    | .fin n k e => (if n then -1 else 1) * (k * 2 ^ (e + 149).toNat : Nat)
    | _ => 0).sum
  match op with
  | .addI32 => y = (m + xs.sum) % 2 ^ 32
  | .addI64 => y = (m + ops.sum) % 2 ^ 64
  | .minI32 => y ∈ all ∧ ∀ x ∈ all, sext 32 y ≤ sext 32 x
  | .maxI32 => y ∈ all ∧ ∀ x ∈ all, sext 32 x ≤ sext 32 y
  | .minF32 => if numbers = [] then y = 0x7FC00000 else y ∈ numbers ∧ ∀ x ∈ numbers, ltX (val x) (val y) = false
  | .maxF32 => if numbers = [] then y = 0x7FC00000 else y ∈ numbers ∧ ∀ x ∈ numbers, ltX (val y) (val x) = false
  | .addF32 =>
    ((numbers ≠ all ∨ pos ∧ neg) → y = 0x7FC00000) ∧ (numbers = all → pos → ¬ neg → y = 0x7F800000) ∧
      (numbers = all → neg → ¬ pos → y = 0xFF800000) ∧
      (numbers = all → ¬ pos → ¬ neg → t = 0 → y = if ∀ x ∈ all, x = 0x80000000 then 0x80000000 else 0) ∧
      (numbers = all → ¬ pos → ¬ neg → t ≠ 0 → y = (toFloat .f32 .rne false 0 (.fin (decide (t < 0)) t.natAbs (-149))).1)

/-- The operands of an element of a line. -/
def operandsOf (l : List (Nat × Word)) (e : Nat) : List Nat := (l.filter fun p => p.1 == e).map fun p => p.2.toNat

/-- Everything that a line in update state has absorbed (R109): the home's partial and those of its dies. -/
def absorbed (d : Dev) (line : Nat) : List (Nat × Word) :=
  let x := d.homes.get line
  x.part ++ x.dies.flatMap fun k => (((d.dies.get k).upd.find? fun u => u.line == line).map UpdEnt.ops).getD []

end Sys2Proof.Claims

/-- R89, R93 to R98, R100 to R103, R105, R107: the coherence protocol on a line of main memory, one message or one timer at a time. The
home answers a transient read with one token and the data while it has the owner token, and else forwards it to the holders it
knows; a transient write gets all its tokens, and is forwarded. An attempt fails after 240 cycles, or once 1200 have passed since the
first: it is sent again with the next number, and after 4 attempts or 1200 cycles becomes a belay request. A holder answers from what
it has, an owner with more than one token keeping the rest; a pin outside whose scope the requester is keeps the line and defers an
activation. The home activates one belay request at a time; holders send everything to its requester until they are told otherwise,
and acknowledge both, the control die for a die in reset. Once completion and every acknowledgement are there the home broadcasts
deactivation, and once that is acknowledged it is idle. Tokens that arrive are added to a holder's, or to the home's, which writes
dirty data to memory and passes tokens on while a request is active, keeping its hints. -/
def Obligations.TokensMove : Prop :=
  (∀ m line r att s, let h := s.dev.homes.get line
    let d := countedOnce (without s m) line r
    let all := h.hints.filter fun x => x != r
    plainLine s.dev line →
    (s.dev.msgs[m]? = some (.tread line r att) →
      (h.ownerAway = false → exec (.transientRead m) s = goes s (withHome d line
        { h with away := h.away + 1, ownerAway := 1024 - h.away == 1, hints := hinted h.hints r }
        [.toks line (some r) r 1 (1024 - h.away == 1) false false (some (memLine s.dev line))])) ∧
      (h.ownerAway = true → exec (.transientRead m) s = goes s { d with msgs := d.msgs ++ all.map fun x => .fread line x r att })) ∧
    (s.dev.msgs[m]? = some (.twrite line r att) →
      (1024 ≤ h.away → exec (.transientWrite m) s = goes s { d with msgs := d.msgs ++ all.map fun x => .fwrite line x r att }) ∧
      (h.away < 1024 → exec (.transientWrite m) s = goes s (withHome d line
        { h with away := h.away + (1024 - h.away), ownerAway := true, hints := hinted h.hints r }
        (homeAll s.dev line r :: all.map fun x => .fwrite line x r att))))) ∧
  (∀ line h q s, let x := s.dev.hl line h
    let spent := q.sent + 240 ≤ s.dev.cycle ∨ q.first + 1200 ≤ s.dev.cycle
    x.req = some q → q.belay = false →
    (¬ spent → exec (.attemptTimeout line h) s = .next s) ∧
    (q.sent + 240 ≤ s.dev.cycle → q.attempt < 4 → s.dev.cycle < q.first + 1200 →
      exec (.attemptTimeout line h) s = goes s (withHolder s.dev line h
        { x with req := some { q with attempt := q.attempt + 1, sent := s.dev.cycle } }
        [if q.write then .twrite line h (q.attempt + 1) else .tread line h (q.attempt + 1)])) ∧
    (spent → (4 ≤ q.attempt ∨ q.first + 1200 ≤ s.dev.cycle) →
      exec (.attemptTimeout line h) s = goes s (withHolder s.dev line h { x with req := some { q with belay := true } } [.belay line h]))) ∧
  (∀ m line h r att s, let x := s.dev.hl line h
    let d := without s m
    let sendsAll := goes s (withHolder d line h (bare x) [everything x line h (some r)])
    (s.dev.msgs[m]? = some (.fread line h r att) → x.pinned = 0 →
      (x.owner = false ∨ x.tokens = 0 → exec (.forwardedRead m) s = goes s d) ∧
      (x.owner = true → 1 < x.tokens → exec (.forwardedRead m) s = goes s (withHolder d line h { x with tokens := x.tokens - 1 }
        [.toks line (some r) h 1 false false x.cmp x.data])) ∧
      (x.owner = true → x.tokens = 1 → exec (.forwardedRead m) s = sendsAll)) ∧
    (s.dev.msgs[m]? = some (.fwrite line h r att) → x.pinned = 0 →
      (x.tokens = 0 → exec (.forwardedWrite m) s = goes s d) ∧ (x.tokens ≠ 0 → exec (.forwardedWrite m) s = sendsAll)) ∧
    (∀ c p, x.pinned = c + 1 → lone s.dev c → (s.dev.ctx c).pins = [p] → p.line = line → p.holder = h → p.scope = .die → r ≠ h →
      (s.dev.msgs[m]? = some (.fread line h r att) → ∃ t, exec (.forwardedRead m) s = .next t ∧ t.dev.hl line h = x) ∧
      (s.dev.msgs[m]? = some (.fwrite line h r att) → ∃ t, exec (.forwardedWrite m) s = .next t ∧ t.dev.hl line h = x) ∧
      (s.dev.msgs[m]? = some (.activate line h r) → s.dev.holderDown h = false → ∃ t, exec (.activation m) s = .next t ∧
        t.dev.hl line h = { x with deferred := some r } ∧ t.dev.msgs = d.msgs ++ [.ack line h])) ∧
    (s.dev.msgs[m]? = some (.activate line h r) →
      (s.dev.holderDown h = true → exec (.activation m) s = goes s { d with msgs := d.msgs ++ [.ack line h] }) ∧
      (s.dev.holderDown h = false → x.pinned = 0 → r ≠ 1023 → ∃ hs, exec (.activation m) s = goes s
          { d with holders := hs
                   msgs := d.msgs ++ (if x.tokens = 0 then [] else [everything x line h (some r)]) ++ [.ack line h] } ∧
        hs.get (line * 1024 + h) = { (if x.tokens = 0 then x else bare x) with forwarding := true, fwdTo := r } ∧
        ∀ key, key ≠ line * 1024 + h → hs.get key = s.dev.holders.get key))) ∧
  (∀ m line h s, let x := s.dev.hl line h
    s.dev.msgs[m]? = some (.deactivate line h) →
    exec (.deactivation m) s = goes s (withHolder (without s m) line h { x with forwarding := false, fwdTo := 0 } [.ack line h])) ∧
  (∀ m line h src n owner dirty cmp data s, let x := s.dev.hl line h
    let d := without s m
    let more : HLine := { x with
      tokens := x.tokens + n, owner := x.owner || owner, dirty := x.dirty || (owner && dirty), cmp := if owner then cmp else x.cmp
      data := if x.owner = true ∧ x.data ≠ none then x.data else if data = none then x.data else data }
    s.dev.msgs[m]? = some (.toks line (some h) src n owner dirty cmp data) → s.dev.holderDown h = false →
    (x.forwarding = true → x.fwdTo ≠ h → exec (.holderTokensArrive m) s = goes s
      { d with msgs := d.msgs ++ [.toks line (some x.fwdTo) src n owner dirty cmp data] }) ∧
    (x.forwarding = false ∨ x.fwdTo = h → noneWaits s.dev h → h % 16 = 8 ∨ roomy (withHolder d line h more []) h →
      (x.req = none → exec (.holderTokensArrive m) s = goes s (withHolder d line h more [])) ∧
      (∀ q, x.req = some q → q.belay = true → more.tokens = 1024 → more.data ≠ none →
        exec (.holderTokensArrive m) s = goes s (withHolder d line h { more with req := none } [.belayDone line h])))) ∧
  (∀ m line src n owner dirty cmp data s, let h := s.dev.homes.get line
    let d := without s m
    let known := if (s.dev.hl line src).tokens = 0 then h.hints.filter (fun x => x != src) else h.hints
    let back : Home := { h with away := h.away - n, ownerAway := h.ownerAway && !owner, hints := known }
    s.dev.msgs[m]? = some (.toks line none src n owner dirty cmp data) →
    (∀ r, h.active = r + 1 → exec (.homeTokensArrive m) s = goes s (withHome d line { h with hints := hinted known r }
      [.toks line (some r) src n owner dirty cmp data])) ∧
    (h.active = 0 → (owner = false ∨ dirty = false) → exec (.homeTokensArrive m) s = goes s (withHome d line back [])) ∧
    (∀ v, h.active = 0 → owner = true → dirty = true → data = some v → ∃ t, exec (.homeTokensArrive m) s = .next t ∧
      t.dev.home line = back ∧ memLine t.dev line = v ∧ ∀ l, l ≠ line → memLine t.dev l = memLine s.dev l)) ∧
  (∀ line h s, let x := s.dev.hl line h
    (x.pinned ≠ 0 ∨ enginePinned s.dev line h = true ∨ x.tokens = 0 → exec (.eviction line h) s = .next s) ∧
    (x.pinned = 0 → enginePinned s.dev line h = false → x.tokens ≠ 0 →
      exec (.eviction line h) s = goes s (withHolder s.dev line h (bare x) [everything x line h none]))) ∧
  (∀ m line r s, let h := s.dev.homes.get line
    let d := countedOnce (without s m) line r
    let others := s.dev.allHolders.filter fun x => x != r
    let told := others.map fun x => Msg.activate line x r
    let busy : Home := { h with active := r + 1, acks := others, complete := false, deact := false }
    s.dev.msgs[m]? = some (.belay line r) → ((s.dev.hl line r).req.any fun q => q.belay) = true → plainLine s.dev line →
    (h.active ≠ 0 → exec (.belayRequest m) s = goes s (withHome d line { h with queue := h.queue ++ [r] } [])) ∧
    (h.active = 0 → h.queue = [] → h.away < 1024 → exec (.belayRequest m) s = goes s (withHome d line
      { busy with away := h.away + (1024 - h.away), ownerAway := true, hints := hinted h.hints r } (homeAll s.dev line r :: told))) ∧
    (h.active = 0 → h.queue = [] → 1024 ≤ h.away → exec (.belayRequest m) s = goes s (withHome d line busy told))) ∧
  (∀ line s, let h := s.dev.homes.get line
    let ends (m : Nat) (x : Home) : Out := goes s (withHome (without s m) line { x with deact := true, acks := s.dev.allHolders }
      (s.dev.allHolders.map fun x => .deactivate line x))
    (∀ m r, s.dev.msgs[m]? = some (.belayDone line r) → let x : Home := { h with complete := true }
      (h.active = r + 1 → h.acks ≠ [] → exec (.belayCompletion m) s = goes s (withHome (without s m) line x [])) ∧
      (h.active = r + 1 → h.acks = [] → h.deact = false → exec (.belayCompletion m) s = ends m x) ∧
      (h.active ≠ r + 1 →
        exec (.belayCompletion m) s = goes s (withHome (without s m) line { h with queue := h.queue.erase r } []))) ∧
    (∀ m k, s.dev.msgs[m]? = some (.ack line k) → let x : Home := { h with acks := h.acks.erase k }
      (h.active = 0 ∨ x.acks ≠ [] ∨ h.deact = false ∧ h.complete = false →
        exec (.deactivationAcknowledged m) s = goes s (withHome (without s m) line x [])) ∧
      (h.active ≠ 0 → x.acks = [] → h.deact = false → h.complete = true → exec (.deactivationAcknowledged m) s = ends m x) ∧
      (h.active ≠ 0 → x.acks = [] → h.deact = true → h.queue = [] → exec (.deactivationAcknowledged m) s = goes s
        (withHome (without s m) line { x with active := 0, complete := false, deact := false } []))))

/-- R76 to R82, R92, R109 to R111: update lines and translations. A join of a line that is in update state for the same operation gives
the die an entry; the first join puts a line that is at its home in update state. The first request that needs the line otherwise is
served after a merge: memory holds what R111 makes of each element and what it absorbed, and the line is in normal state again.
A full update buffer sends its oldest partial home. A full stack at which a join waits, or a line with 2^40 operations, is
merged early, and UPDEARLY counts it. Invalidation removes the translations of a range on the package's dies once no access of a task
of the job, in place or spilled, still uses one in the range. A walk caches the page that four table entries lead to, where no cached
translation meets it. -/
def Obligations.UpdatesAndTranslations : Prop :=
  (∀ m line die op s, let h := s.dev.homes.get line
    let x := s.dev.dies.get die
    s.dev.msgs[m]? = some (.join line die op) → soundLine s.dev line →
    noneWaits s.dev (die / 8 * 16 + die % 8) → x.upd.length < 2048 → (∀ u ∈ x.upd, u.line ≠ line) → die ∉ h.dies →
    (h.upd = some op → exec (.updateJoin m) s = goes s
      { (withHome (countedOnce (without s m) line (die % 8)) line { h with dies := h.dies ++ [die] } []) with
        dies := s.dev.dies.set die { x with upd := x.upd ++ [⟨line, op, []⟩] } }) ∧
    (h = default → (∀ y ∈ s.dev.allHolders, s.dev.hl line y = default) →
      (stackLines s.dev (128 * line / 2 ^ 46 % 64) (stackOf (128 * line))).length < 16384 →
      ∃ t, exec (.updateJoin m) s = .next t ∧ t.dev.home line = { (default : Home) with upd := some op, dies := [die] } ∧
        (t.dev.dies.get die).upd = x.upd ++ [⟨line, op, []⟩] ∧ t.dev.updOrder = s.dev.updOrder ++ [line] ∧
        memLine t.dev line = memLine s.dev line)) ∧
  (∀ line op s, let h := s.dev.homes.get line
    (h.upd = none → exec (.updateMerge line) s = .next s) ∧
    (h.upd = some op → (∀ y ∈ s.dev.msgs, served line op y = false) → exec (.updateMerge line) s = .next s) ∧
    (∀ m r att, h.upd = some op → soundLine s.dev line → s.dev.msgs[m]? = some (.tread line r att) →
      (∀ (j : Nat) y, j < m → s.dev.msgs[j]? = some y → served line op y = false) → h.ownerAway = false →
      exec (.updateMerge line) s = exec (.transientRead m) s ∧
      ∃ t, exec (.updateMerge line) s = .next t ∧
        t.dev.home line = { h with
          upd := none, dies := [], part := [], reds := 0, away := h.away + 1, ownerAway := 1024 - h.away == 1
          hints := hinted h.hints r } ∧
        line ∉ t.dev.updOrder ∧ (∀ k ∈ h.dies, ∀ u ∈ (t.dev.dies.get k).upd, u.line ≠ line) ∧
        (let w := if op = .addI64 then 64 else 32
         ∀ e, e < 1024 / w →
          mergesTo op (elem (memLine s.dev line) w e) (operandsOf (absorbed s.dev line) e) (elem (memLine t.dev line) w e)) ∧
        t.dev.msgs = (without s m).msgs ++ [.toks line (some r) r 1 (1024 - h.away == 1) false false (some (memLine t.dev line))] ∧
        ∀ l, l ≠ line → memLine t.dev l = memLine s.dev l)) ∧
  (∀ die u r s, let x := s.dev.dies.get die
    let h := s.dev.homes.get u.line
    x.upd = u :: r →
    (x.upd.length < 2048 → exec (.updateBufferEviction die) s = .next s) ∧
    (2048 ≤ x.upd.length → exec (.updateBufferEviction die) s = goes s
      { (withHome s.dev u.line { h with part := h.part ++ u.ops, dies := h.dies.filter fun k => k != die } []) with
        dies := s.dev.dies.set die { x with upd := r } })) ∧
  (∀ pkg n l more s, stackLines s.dev pkg n = l :: more →
    (((l :: more).length < 16384 ∨ ¬ joinWaiting s.dev pkg n) → (∀ y ∈ l :: more, (s.dev.home y).reds < 2 ^ 40) →
      exec (.forcedMerge pkg n) s = .next s) ∧
    (16384 ≤ (l :: more).length ∧ joinWaiting s.dev pkg n ∨ 2 ^ 40 ≤ (s.dev.home l).reds →
      (∀ y ∈ more, (s.dev.home y).reds < 2 ^ 40) → (s.dev.home l).upd ≠ none → s.dev.lineBad l = false →
      ∃ t, exec (.forcedMerge pkg n) s = .next t ∧ (t.dev.home l).upd = none ∧
        (t.dev.pkg (128 * l / 2 ^ 46 % 64)).updEarly.get (stackOf (128 * l)) =
          (s.dev.pkg (128 * l / 2 ^ 46 % 64)).updEarly.get (stackOf (128 * l)) + 1)) ∧
  (∀ pkg job va len s,
    let under := ∃ x ∈ s.dev.ctxs ++ s.dev.spilled, x.1 / 2 ^ 11 % 64 = pkg ∧ x.2.task.job = job ∧
      ∃ a ∈ x.2.gq, a.susp = false ∧ va ≤ a.va.toNat ∧ a.va.toNat < va + len
    (under → exec (.tlbInvalidation pkg job va len) s = .next s) ∧
    (¬ under → ∃ m, exec (.tlbInvalidation pkg job va len) s = goes s { s.dev with dies := m } ∧
      (∀ i, i < 8 → m.get (8 * pkg + i) =
        let x := s.dev.dies.get (8 * pkg + i)
        { x with tlb := x.tlb.filter fun t => t.job != job || decide (va + len ≤ t.va) || decide (t.va + t.size ≤ va) }) ∧
      ∀ k, (∀ i, i < 8 → k ≠ 8 * pkg + i) → m.get k = s.dev.dies.get k)) ∧
  (∀ die job (va : Word) s, let root := (s.dev.job (die / 8) job).ptroot
    let at_ (level : Nat) : Nat := 8 * (va.toNat / 2 ^ (12 + 9 * (4 - level)) % 512)
    let cached (a : Nat) : Prop := cachedEntry s.dev (die / 8) a
    let page := va.toNat / 4096 * 4096
    let x := s.dev.dies.get die
    root % 4096 = 0 →
    ((x.inReset = true ∨ 2 ^ 48 ≤ va.toNat ∨ (∃ t ∈ x.tlb, t.job = job ∧ t.va ≤ va.toNat ∧ va.toNat < t.va + t.size) ∨
        isMemory (root + at_ 1) = false ∧ tableEntry s.dev (root + at_ 1) = none) →
      exec (.pageTableWalk die job va) s = .next s) ∧
    (∀ p1 p2 p3 e, x.inReset = false → va.toNat < 2 ^ 48 → va.toNat / 4096 ≠ s.dev.pageVa.toNat / 4096 →
      (∀ t ∈ x.tlb, t.job = job → t.va + t.size ≤ page ∨ page + 4096 ≤ t.va) → p1 < 2 ^ 40 → p2 < 2 ^ 40 → p3 < 2 ^ 40 →
      cached (root + at_ 1) → cached (p1 * 2 ^ 12 + at_ 2) → cached (p2 * 2 ^ 12 + at_ 3) → cached (p3 * 2 ^ 12 + at_ 4) →
      tableEntry s.dev (root + at_ 1) = some (p1 * 2 ^ 12 + 1) → tableEntry s.dev (p1 * 2 ^ 12 + at_ 2) = some (p2 * 2 ^ 12 + 1) →
      tableEntry s.dev (p2 * 2 ^ 12 + at_ 3) = some (p3 * 2 ^ 12 + 1) → tableEntry s.dev (p3 * 2 ^ 12 + at_ 4) = some e →
      e < 2 ^ 52 → e % 2 = 1 → e / 2 ^ 6 % 2 = 0 → e / 2 ^ 7 % 2 = 1 → e / 2 ^ 8 % 16 = e / 2 ^ 9 % 2 * 2 →
      exec (.pageTableWalk die job va) s = goes s { s.dev with dies := s.dev.dies.set die { x with
        tlb := x.tlb ++ [⟨job, page, 4096, e / 2 ^ 12 * 2 ^ 12, BitVec.ofNat 10 e⟩] } }))

namespace Sys2Proof.Claims

/-! ## Panels, links and collective entries at work (R246 to R258, R265, R276 to R285, R294 to R304) -/

/-- A demand in force reaches a pending panel of a node of a resident task, and a name holds the node (R246 to R248). -/
def panelDue (s : State) (c i p : Nat) : Prop :=
  let k := s.dev.ctx c
  k.cond = .resident ∧ p < 8 ∧ ((k.closure k.starts).get i).getLsbD p = true ∧ (k.nodes.get i).pendingMask.getLsbD p = true ∧
    (k.nodes.get i).susp = false ∧ (k.nodes.get i).used = true ∧ (k.nodes.get i).ps.length = 8 ∧ ∃ z, k.names.get z = some i

/-- A panel's step came to nothing; a demand on a frozen chain's close may have ended (R286). -/
def nothingDone (s : State) (c : Nat) (o : Out) : Prop :=
  ∃ l, o = .next (s.onDev (s.dev.updCtx c fun k => { k with holds := l })) ∧ ∀ x ∈ l, x ∈ (s.dev.ctx c).holds

/-- A transfer that began at a context ended at a device, with its line requests let through by the buckets (R126). -/
def letThrough (s : State) (c : Nat) (d : Dev) : Prop :=
  (d.ctx c).reqs = ⟨0, 0⟩ ∨ unregulated (s.dev.ctx c) 0x090 ∧ unregulated (s.dev.ctx c) 0x091

/-- After the step, panel `p` of the node has a state and every other panel keeps its own. -/
def panelIs (t s : State) (c i p : Nat) (st : PState) : Prop :=
  let n := (t.dev.ctx c).nodes.get i
  let n0 := (s.dev.ctx c).nodes.get i
  n.op = n0.op ∧ n.st p = st ∧ ∀ q, q < 8 → q ≠ p → n.st q = n0.st q

/-- The element of panel `p`'s row `a` and column `b` of a node. -/
def elementAt (t : State) (c i a b : Nat) : Nat := ((t.dev.ctx c).nodes.get i).data.get (64 * a + b)

/-- An operation that has started at the head of Q3: the firing of an entry. -/
def firingHead (k : Ctx) (n : Nat) (o : EngOp) (r : List EngOp) : Prop :=
  k.queues.get 3 = o :: r ∧ o.kind = .firing n ∧ o.phase = .started

/-- A partial as it arrives after a hop of a code: rounded to the hop's format, and exact again in f32 (R280). -/
def hopped (hop : Nat) (v : BitVec 32) : BitVec 32 :=
  let et : ET := if hop = 1 then .bf16 else if hop = 2 then .f16 else .f32
  if hop = 0 then v else BitVec.ofNat 32 (convert et .f32 .rne false 0 (convert .f32 et .rne false 0 v.toNat).1).1

/-- The operation that carries a hop through the Q5 of a link's owner (R118, R280). -/
def hopOp (k : Ctx) (core slot : Nat) (data : SMap (BitVec 32)) : EngOp :=
  { (default : EngOp) with kind := .hop core slot data, phase := .queued, ticket := 2 ^ 32, seq := k.seq }

/-- A chain and its handle. -/
def chainHere (s : State) (pkg num : Nat) (x : Chain) (h : Word) : Prop :=
  s.dev.chains.get (4096 * pkg + num) = x ∧ h = handleOf pkg num x.gen ∧ liveChain s.dev h = some x ∧ pkg < 64 ∧ num < 4096

end Sys2Proof.Claims

/-- R83, R194, R246 to R248, R256, R257, R260 to R264, R268, R279, R281: one panel that a demand in force reaches. A pure node whose
operand panels are done takes the values that its operation gives from theirs, by one codebook table for all its panels; one with
a faulted operand takes its fault. A `tld` takes the elements of the rows that it reads; a fault faults the panel, a page fault
suspends the node. A contribution whose turn it is and whose operands are done is added into its link's S and counts in DONE. A
close takes the tail's retained value, scaled and rounded. A panel that is not reached, or is not pending, or whose node has
faulted, is left as it is. R155, R242, R255, R257, R265: a `tst` to the core scratchpad. Before its operands are done nothing
happens, and with a faulted operand it writes nothing. Pending `tld` panels that its rows would overwrite are forced first: the
store waits for them, and ALIASCNT counts their nodes. Then, and once every earlier store that it meets is written, the rows of
its mask are written, each byte at its address, no other byte changes, and the store is finished. -/
def Obligations.PanelsAndStores : Prop :=
  ((∀ c i p s, let k := s.dev.ctx c
    k.demands = [] → (((k.closure k.starts).get i).getLsbD p = false ∨ (p < 8 ∧ (k.nodes.get i).st p ≠ .pending) ∨
      (k.nodes.get i).faults ≠ []) → nothingDone s c (exec (.panelForce c i p) s)) ∧
  (∀ c i p s, let k := s.dev.ctx c
    let n := k.nodes.get i
    let A := k.nodes.get (n.a.getD 0)
    let B := k.nodes.get (n.b.getD 0)
    panelDue s c i p → n.op.isPure = true →
    (operandFault k (n.needs p) = none → operandsDone k (n.needs p) = true →
      let tab := n.table.getD (tableOf s.dev c A)
      ∃ t, exec (.panelForce c i p) s = .next t ∧ panelIs t s c i p .done ∧ ((t.dev.ctx c).nodes.get i).table = some tab ∧
        ∀ a b, a / 8 = p → b < 64 → elementAt t c i a b = (match n.op with
          | .tew op rm => tewElem op n.ety rm (n.random a b) (A.at a b) (B.at a b)
          | .tews op rm y => tewsElem op n.ety rm (n.random a b) (A.at a b) y.toNat
          | .tfn op => tfnElem op n.ety (A.at a b)
          | .tmap m => (match mapSource m a b with | some (x, y) => A.at x y | none => 0)
          | .tcvt dst rm sat => (roundRes (dstEt dst) rm sat (n.random a b)
              (mulX (mulX (A.val tab a b) (A.blockScale a b)).1 A.tensorScale)).1
          | _ => 0)) ∧
    (∀ f, operandFault k (n.needs p) = some f →
      ∃ t, exec (.panelForce c i p) s = .next t ∧ panelIs t s c i p .faulted ∧
        ((t.dev.ctx c).nodes.get i).faults = n.faults ++ [(p, f)])) ∧
  (∀ c i p t R C d s, let k := s.dev.ctx c
    let n := k.nodes.get i
    let read := readPanel (s.dev.updCtx c (transferring n.win)) c t R C p
    panelDue s c i p → n.op = .tld t R C → k.gq = [] → storeAhead s.dev c n.seq (panelRanges s.dev c t R C p) = false →
    (d.ctx c).nodes = k.nodes → (d.ctx c).names = k.names →
    (∀ rows, n.ety ≠ .cb16 → read = .ok d rows → letThrough s c d → rows.map Prod.fst = (List.range 8).map (fun a => 8 * p + a) →
      ∃ u, exec (.panelForce c i p) s = .next u ∧ panelIs u s c i p .done ∧
        ∀ x ∈ rows, ∀ b, b < 64 → elementAt u c i x.1 b = x.2.1 / 2 ^ (n.ety.width * b) % 2 ^ n.ety.width) ∧
    (∀ cause a, cause ≠ 0x0A → read = .fault d cause a →
      ∃ u, exec (.panelForce c i p) s = .next u ∧ panelIs u s c i p .faulted ∧
        ((u.dev.ctx c).nodes.get i).faults = n.faults ++ [(p, ⟨cause, a, n.pc, n.bclk⟩)]) ∧
    (∀ a, read = .fault d 0x0A a →
      ∃ u, exec (.panelForce c i p) s = .next u ∧ ((u.dev.ctx c).nodes.get i).susp = true ∧
        (u.dev.pkg (c / 2 ^ 11 % 64)).frecs = (d.pkg (c / 2 ^ 11 % 64)).frecs ++ [pageRecord c (d.ctx c) 2 1 a n.pc a 0])) ∧
  (∀ c i h pos ord ta tb x sl a b s, let k := s.dev.ctx c
    let n := k.nodes.get i
    panelDue s c i 0 → n.op = .contrib h pos ord ta tb → n.a = some a → n.b = some b → liveChain s.dev h = some x → x.frozen = false →
    boundSlot s.dev x h pos = some sl → sl.badS = false → sl.done = ord → operandFault k (n.needs 0) = none →
    operandsDone k (n.needs 0) = true →
    ∃ t, exec (.panelForce c i 0) s = .next t ∧
      let u := t.dev.slots.get ((x.link pos).core * 8 + (x.link pos).slot)
      u.done = ord + 1 ∧ u.state = (if sl.state = .opened ∧ ord + 1 = sl.count ∧ (sl.inboxGot = true ∨ sl.pos = 0) then .ready else sl.state) ∧
      ∀ y z, y < 64 → z < 64 →
        (u.acc.get (64 * y + z)).toNat =
          contribElem s.dev c (k.nodes.get a) (k.nodes.get b) ta tb y z (sl.acc.get (64 * y + z)).toNat % 2 ^ 32) ∧
  (∀ c i p h rm x sl s, let k := s.dev.ctx c
    let n := k.nodes.get i
    panelDue s c i p → n.op = .close h rm → liveChain s.dev h = some x → x.frozen = false →
    boundSlot s.dev x h (x.links.length - 1) = some sl → (sl.state = .advanced ∨ sl.state = .closed) →
    ∃ t, exec (.panelForce c i p) s = .next t ∧ panelIs t s c i p .done ∧
      ((∀ q, q < 8 → q ≠ p → n.st q ≠ .pending) → (t.dev.chains.get (chainKey h)).filled = some n.gtag) ∧
      ∀ a b, a / 8 = p → b < 64 → elementAt t c i a b = closeElem x rm (n.random a b) (sl.acc.get (64 * a + b)).toNat)) ∧
  (∀ c i a t R C mask s, let k := s.dev.ctx c
    let n := k.nodes.get i
    let needs := (List.range 8).flatMap fun p => if n.st p = .pending then n.needs p else []
    let bytes := storeBytes (k.nodes.get a) t R C mask
    let al := storeAliases s.dev c n t R C mask
    let ready := operandFault k needs = none ∧ operandsDone k needs = true
    let writesNothing := ∃ u, exec (.tstStoreWrite c i) s = .next u ∧ u.dev.spad = s.dev.spad ∧ u.dev.gmem = s.dev.gmem
    n.op = .store t R C mask → n.a = some a → n.unfinished = true → n.susp = false →
    (operandFault k needs = none → operandsDone k needs = false → writesNothing) ∧
    (∀ f, operandFault k needs = some f → ∃ u, exec (.tstStoreWrite c i) s = .next u ∧ u.dev.spad = s.dev.spad ∧
      ((u.dev.ctx c).nodes.get i).unfinished = false) ∧
    (∀ d, ready → al ≠ [] → reserve s.dev c al = some d → let m := (d.ctx c).nodes.get i
      ∃ u, exec (.tstStoreWrite c i) s = .next u ∧ u.dev.spad = s.dev.spad ∧
        (k.demands = [] → ((u.dev.ctx c).nodes.get i).waits = m.waits ++ al) ∧
        (u.dev.ctx c).spr.get 0x0C0 = (d.ctx c).spr.get 0x0C0 +
          BitVec.ofNat 64 ((al.map Prod.fst).filter fun j => !m.waits.any fun x => x.1 == j).length) ∧
    (ready → al = [] → tdLoc t = 8 → storeAhead s.dev c n.seq (storeRanges s.dev c t R C mask) = true →
      writesNothing) ∧
    (ready → al = [] → tdLoc t = 8 → storeAhead s.dev c n.seq (storeRanges s.dev c t R C mask) = false →
      soundSpad s.dev k → (∀ x ∈ bytes, x.1 / 4 * 4 + 4 ≤ k.allot.spLen) → (bytes.map Prod.fst).Nodup →
      ∃ u, exec (.tstStoreWrite c i) s = .next u ∧ ((u.dev.ctx c).nodes.get i).unfinished = false ∧
        (∀ x ∈ bytes, rdByte u.dev.spad (spadAt c k x.1) = x.2) ∧
        ∀ y, (∀ x ∈ bytes, y ≠ spadAt c k x.1) → rdByte u.dev.spad y = rdByte s.dev.spad y))

/-- R118, R250, R271 to R285, R290, R306: links of a chain. Binding takes the slot that the link names, or under 0xF the lowest that is the task's and
FREE: it is OPEN with nothing in it; a link whose core is down, or that finds no slot, fails and freezes the chain. A READY link
forms out, keeps it and sends it, rounded to the hop's format, to the link below, through the Q5 of its owner while that has a task
and room; an ADVANCED one that is to resend does so where the inbox is still missing. A hop that arrives first is kept, and one that
cannot arrive freezes the chain. A slot with an uncorrectable error that would be read next, or whose core is down, freezes its chain
with its cause. A held demand goes on once the owner is resident and its units are reserved. A chain whose close node has every panel
closes its tail and, once, sets its entry's latch. -/
def Obligations.LinksAndHops : Prop :=
  (∀ pkg num pos x h s, let l := x.link pos
    let down := coreDown s.dev l.core = true ∨ s.dev.npkg ≤ l.core / 2 ^ 11 ∨ (s.dev.pkg (l.core / 2 ^ 11)).unreachable = true
    chainHere s pkg num x h → pos < x.links.length → l.bound = 0 → buildWaits s.dev h x.owner = false →
    (∀ k j, ¬ down → s.dev.ctx (l.ctx * 2 ^ 17 + l.core) = k → (k.cond = .resident ∨ k.cond = .saved) → k.task.job = x.job →
      chooseSlot s.dev l k = some j → l.cause = 0 → x.links.length ≠ 1 → (∃ q, q < x.links.length ∧ q ≠ pos ∧ (x.link q).bound = 0) →
      exec (.linkBinding pkg num pos) s = goes s { s.dev with
        slots := s.dev.slots.set (l.core * 8 + j)
          { (default : Slot) with
            state := .opened, prev := .opened, handle := h, pos := pos, owner := l.ctx, count := l.count, demanded := l.demanded
            held := l.demanded }
        chains := s.dev.chains.set (4096 * pkg + num)
          { x with links := x.links.set pos { l with slot := j, hasSlot := true, bound := 1 } } }) ∧
    (down → ∃ t y, exec (.linkBinding pkg num pos) s = .next t ∧ t.dev.chains.get (4096 * pkg + num) = y ∧ y.frozen = true ∧
      (y.link pos).bound = 2 ∧ (l.cause = 0 → (y.link pos).cause = 0x0C)) ∧
    (∀ o r, ¬ down → l.cause = 0 → x.links.length = 1 → lone s.dev x.owner → (s.dev.ctx x.owner).queues.get 5 = o :: r →
      o.kind = .chbuild h → o.phase = .started → (∃ j, bindResult s.dev x.job l = .ok j) →
      ∃ t l', exec (.linkBinding pkg num pos) s = .next t ∧
        (t.dev.ctx x.owner).queues.get 5 = { o with phase := .finished, result := 0 } :: l')) ∧
  (∀ core slot x s, let t := s.dev.slots.get (core * 8 + slot)
    let l := x.link t.pos
    let below := x.link (t.pos + 1)
    let next := boundSlot s.dev x t.handle (t.pos + 1)
    let c := l.ctx * 2 ^ 17 + l.core
    let badNow := t.state = .ready ∧ (t.badS = true ∨ t.pos ≠ 0 ∧ t.badIn = true) ∨ t.state = .advanced ∧ t.resend = true ∧ t.badOut = true
    let slots (u : Slot) : Dev := { s.dev with slots := s.dev.slots.set (core * 8 + slot) u }
    let sends (u : Slot) (data : SMap (BitVec 32)) : Prop :=
      (taskOf s.dev c x.job = none → exec (.linkAdvance core slot) s = goes s
        { (slots u) with msgs := s.dev.msgs ++ [.hop below.core below.slot data] }) ∧
      (∀ k, taskOf s.dev c x.job = some k → s.dev.ctx c = k → lone s.dev c →
        (16 ≤ (k.queues.get 5).length → exec (.linkAdvance core slot) s = .next s) ∧
        ((k.queues.get 5).length < 16 → exec (.linkAdvance core slot) s = goes s ((slots u).updCtx c fun k =>
          { k with queues := k.queues.set 5 (k.queues.get 5 ++ [hopOp k below.core below.slot data]), seq := k.seq + 1 })))
    liveChain s.dev t.handle = some x →
    (x.frozen = true ∨ badNow ∨ t.state ≠ .ready ∧ ¬ (t.state = .advanced ∧ t.resend = true) →
      exec (.linkAdvance core slot) s = .next s) ∧
    (t.state = .ready → x.frozen = false → ¬ badNow → ∃ out data,
      (∀ e, out.get e = if t.pos = 0 then t.acc.get e
        else BitVec.ofNat 32 (addF .f32 .rne false 0 (t.inbox.get e).toNat (t.acc.get e).toNat).1) ∧
      ((t.acc.map Prod.fst).Pairwise (· < ·) → ∀ e, data.get e = hopped l.hop (out.get e)) ∧
      (let u := { t with acc := out, retained := true, state := .advanced, badS := false, badOut := false }
       (t.pos + 1 = x.links.length → exec (.linkAdvance core slot) s = goes s (slots u)) ∧
       (t.pos + 1 ≠ x.links.length → next ≠ none → sends u data))) ∧
    (t.state = .advanced → t.resend = true → x.frozen = false → ¬ badNow → let u := { t with resend := false }
      (∀ b, next = some b → b.inboxGot = true → exec (.linkAdvance core slot) s = goes s (slots u)) ∧
      (∀ b, next = some b → b.inboxGot = false → ∃ data, sends u data ∧
        ((t.acc.map Prod.fst).Pairwise (· < ·) → ∀ e, data.get e = hopped l.hop (t.acc.get e))))) ∧
  (∀ m core slot data s, let t := s.dev.slots.get (core * 8 + slot)
    let frozen := (liveChain s.dev t.handle).any fun x => x.frozen
    let cut := coreDown s.dev core = true ∨ (s.dev.pkg (core / 2 ^ 11)).unreachable = true
    s.dev.msgs[m]? = some (.hop core slot data) →
    (t.state = .free ∨ t.state = .splicedOut → exec (.hopArrival m) s = goes s (without s m)) ∧
    (t.state ≠ .free → t.state ≠ .splicedOut →
      (∀ x, cut → liveChain s.dev t.handle = some x →
        ∃ u, exec (.hopArrival m) s = .next u ∧ (u.dev.chains.get (chainKey t.handle)).frozen = true) ∧
      (¬ cut → t.inboxGot = true → exec (.hopArrival m) s = goes s (without s m)) ∧
      (¬ cut → t.inboxGot = false → exec (.hopArrival m) s = goes s { (without s m) with
        slots := s.dev.slots.set (core * 8 + slot)
          { t with
            inbox := data, inboxGot := true, badIn := false
            state := if frozen = false ∧ t.state = .opened ∧ t.done = t.count then .ready else t.state } }))) ∧
  (∀ core slot x s, let t := s.dev.slots.get (core * 8 + slot)
    let freezes (cause : Nat) : Prop := ∃ u, exec (.chainFreeze core slot) s = .next u ∧
      (u.dev.slots.get (core * 8 + slot)).state = .frozen ∧ (u.dev.slots.get (core * 8 + slot)).cause = cause ∧
      (u.dev.chains.get (chainKey t.handle)).frozen = true
    let badNow := t.state = .ready ∧ (t.badS = true ∨ t.pos ≠ 0 ∧ t.badIn = true) ∨ t.state = .advanced ∧ t.resend = true ∧ t.badOut = true
    liveChain s.dev t.handle = some x → boundSlot s.dev x t.handle t.pos = some t → (x.link t.pos).core * 8 + (x.link t.pos).slot = core * 8 + slot →
    t.state ≠ .splicedOut → t.state ≠ .frozen →
    (badNow → freezes 0x1A) ∧ (¬ badNow → coreDown s.dev core = true → freezes 0x0C) ∧
    (¬ badNow → coreDown s.dev core = false → exec (.chainFreeze core slot) s = .next s)) ∧
  (∀ core slot x s, let t := s.dev.slots.get (core * 8 + slot)
    let c := t.owner * 2 ^ 17 + core
    let starts := linkStarts (s.dev.ctx c) t.handle t.pos
    liveChain s.dev t.handle = some x →
    (t.held = false ∨ x.frozen = true ∨ (s.dev.ctx c).cond ≠ .resident → exec (.heldDemandProceed core slot) s = .next s) ∧
    (t.held = true → x.frozen = false → (s.dev.ctx c).cond = .resident → (s.dev.ctx c).allot.links.getLsbD slot = true →
      (∀ d, reserve s.dev c starts = some d → exec (.heldDemandProceed core slot) s = goes s
        ({ d with slots := s.dev.slots.set (core * 8 + slot) { t with held := false } }.updCtx c fun k =>
          { k with holds := k.holds ++ starts.filter fun x => !k.holds.contains x })) ∧
      (reserve s.dev c starts = none → ∃ u, exec (.heldDemandProceed core slot) s = .next u ∧
        (u.dev.chains.get (chainKey t.handle)).frozen = true))) ∧
  (∀ pkg num c i x h t s, let tail := x.link (x.links.length - 1)
    let slots := s.dev.slots.set (tail.core * 8 + tail.slot) { t with state := .closed }
    chainHere s pkg num x h → x.closed = some (c, i) → lone s.dev c → x.frozen = false →
    boundSlot s.dev x h (x.links.length - 1) = some t → t.state = .advanced →
    (x.filled = none → exec (.closeDone pkg num) s = .next s) ∧
    (∀ tag, x.filled = some tag →
      (x.ctt = 0xFF ∨ x.latched = true → exec (.closeDone pkg num) s = goes s { s.dev with slots := slots }) ∧
      (x.ctt ≠ 0xFF → x.latched = false → (s.dev.ctx c).serial = x.closer → ((s.dev.ctx c).cond = .resident ∨ (s.dev.ctx c).cond = .saved) →
        exec (.closeDone pkg num) s = goes s
          ({ s.dev with slots := slots, chains := s.dev.chains.set (4096 * pkg + num) { x with latched := true } }.updCtx c fun k =>
            let e := k.ctt.get x.ctt
            { k with ctt := k.ctt.set x.ctt { e with ready := true, gtag := max e.gtag tag } }))))

/-- R120, R294, R295, R298 to R304: collective entries. An ARMED entry with its latch, whose source is there, fires: FIRING, latch
clear, and an operation with the next ticket in Q3. As it starts, earlier accesses having performed, it reads its source. A peer receives the image, and then one more in its flag; a peer whose core is down, or without a task of the job, fails with
its cause. With every peer served the entry is EMPTY and the operation completes; a failure traps the cause of the lowest failing
peer, with its access or the faulted node's append site. At its deadline an ARMED entry sends one notice to each peer but itself, which
sets the deadline bit of CUEPEND there. -/
def Obligations.CollectivesFire : Prop :=
  (∀ c n s, let k := s.dev.ctx c
    let e := k.ctt.get n
    let t := if (k.tickets.get 3 + 1) % 2 ^ 32 = 0 then 1 else (k.tickets.get 3 + 1) % 2 ^ 32
    let now := (s.dev.pkg (c / 2 ^ 11 % 64)).frame.toNat
    lone s.dev c →
    (e.state ≠ 1 ∨ e.ready = false ∨ sourceSettled k e = false ∨ 16 ≤ (k.queues.get 3).length →
      exec (.collectiveFiring c n) s = .next s) ∧
    (e.state = 1 → e.ready = true → sourceSettled k e = true → (k.queues.get 3).length < 16 →
      exec (.collectiveFiring c n) s = goes s (s.dev.updCtx c fun k =>
        { k with
          queues := k.queues.set 3 (k.queues.get 3 ++
            [{ kind := .firing n, ticket := t, cue := e.cue, done := e.done, phase := .queued, result := 0, seq := k.seq, gtag := e.gtag
               pc := e.pc, pos := 0, fault := none, win := e.win, paid := ⟨0, 0⟩ }])
          seq := k.seq + 1, tickets := k.tickets.set 3 t
          ctt := k.ctt.set n { e with
            state := 2, ready := false, stall := min (2 ^ 32 - 1) (now - e.armTick), ticket := t, counted := []
            served := match sourceFault k e with
              | some f => (List.range e.peers.length).map fun j => ⟨j, 0x10, f.inner, 0, 0, f.pc, f.bclk⟩
              | none => [] } })) ∧
    (∀ o r i, k.queues.get 3 = o :: r → o.kind = .firing n → o.phase = .queued → mayGo k 3 o → e.served = [] → e.src = .node i →
      exec (.engineOperationStart c 3) s = goes s (s.dev.updCtx c fun k =>
        { (withHead k 3 { o with phase := .started, pos := 1, paid := ⟨0, 0⟩ } r) with
          ctt := k.ctt.set n { e with image := nodeImage (k.nodes.get i) e.mask } }))) ∧
  (∀ c n o r j p s, let k := s.dev.ctx c
    let e := k.ctt.get n
    let served (m : List Host.Cell) (cause : Nat) : Out := goes s { (s.dev.updCtx c fun k =>
      { k with ctt := k.ctt.set n { e with served := e.served ++ [{ (default : PeerRes) with idx := j, cause := cause }] } }) with spad := m }
    lone s.dev c → firingHead k n o r → nextPeer e = some (j, p) →
    (coreDown s.dev p.core = true → exec (.peerWrite c n) s = served s.dev.spad 0x0C) ∧
    (coreDown s.dev p.core = false → p.core / 2 ^ 11 < s.dev.npkg → (s.dev.pkg (p.core / 2 ^ 11)).unreachable = false →
      peerTask s.dev c p = none → exec (.peerWrite c n) s = served s.dev.spad 0x0B) ∧
    (∀ q, peerFault s.dev c e p = none → peerTask s.dev c p = some q → e.glob = false → soundSpad s.dev q →
      let at_ (a : Nat) : Nat := p.core * 2 ^ 20 + q.allot.spBase + a
      let cells := selectedOffsets k e
      p.core < 2 ^ 17 → (∀ x ∈ cells, peerDest k e p + x < q.allot.spLen) → cells.Nodup →
      (e.flagAct = false ∨ p.flag = none → ∃ m, exec (.peerWrite c n) s = served m 0 ∧
        (∀ x ∈ cells, rdByte m (at_ (peerDest k e p + x)) = e.image.get x) ∧
        ∀ y, (∀ x ∈ cells, y ≠ at_ (peerDest k e p + x)) → rdByte m y = rdByte s.dev.spad y) ∧
      (∀ f, e.flagAct = true → p.flag = some f → f + 8 ≤ q.allot.spLen →
        (∀ x ∈ cells, peerDest k e p + x < f ∨ f + 8 ≤ peerDest k e p + x) →
        ∃ m, exec (.peerWrite c n) s = served m 0 ∧ (∀ x ∈ cells, rdByte m (at_ (peerDest k e p + x)) = e.image.get x) ∧
          rdMem m (at_ f) 8 = (rdMem s.dev.spad (at_ f) 8 + 1) % 2 ^ 64))) ∧
  (∀ c n o r s, let k := s.dev.ctx c
    let e := k.ctt.get n
    let emptied : Ctt := { e with state := 0, src := default, image := [], served := [] }
    let after (k : Ctx) : Ctx :=
      let k1 := { k with queues := k.queues.set 3 r, ctt := k.ctt.set n emptied }
      if o.cue then cued k1 3 else k1
    lone s.dev c → firingHead k n o r → k.nodes = [] → k.holds = [] → k.fences = [] → k.cond ≠ .free → o.done = none →
    (nextPeer e ≠ none → exec (.firingCompletion c n) s = .next s) ∧
    (nextPeer e = none → (∀ x ∈ e.served, x.cause = 0) → exec (.firingCompletion c n) s = goes s (s.dev.updCtx c after)) ∧
    (∀ j x p, nextPeer e = none → e.peers[j]? = some p → e.served.find? (fun y => y.idx == j && y.cause != 0) = some x →
      (∀ i, i < j → ∀ y ∈ e.served, y.idx = i → y.cause = 0) →
      let trap : TrapRec := { (default : TrapRec) with
        cause := x.cause, info0 := BitVec.ofNat 64 p.dest, info1 := 0xD09, info2 := BitVec.ofNat 64 e.ticket
        info3 := BitVec.ofNat 64 (j + n * 2 ^ 8 + x.inner % 256 * 2 ^ 16), imp := true, slot := 6, opc := 9
        access := x.access, va := x.va, nodePc := x.pc, nodeBclk := x.bclk }
      exec (.firingCompletion c n) s = goes s (s.dev.updCtx c fun k => { after k with asyncs := k.asyncs ++ [trap] }))) ∧
  (∀ c n s, let k := s.dev.ctx c
    let e := k.ctt.get n
    let now := (s.dev.pkg (c / 2 ^ 11 % 64)).frame.toNat
    lone s.dev c →
    (e.state ≠ 1 ∨ e.dl = false ∨ e.dlp = true ∨ now < e.deadline.toNat → exec (.deadlineReached c n) s = .next s) ∧
    (e.state = 1 → e.dl = true → e.dlp = false → e.deadline.toNat ≤ now → exec (.deadlineReached c n) s = goes s
      { (s.dev.updCtx c fun k => { k with ctt := k.ctt.set n { e with dlp := true } }) with
        msgs := s.dev.msgs ++ ((e.peers.map fun p => p.ctx * 2 ^ 17 + p.core).filter fun p => p != c).map fun p => .notice p })) ∧
  (∀ m c s, s.dev.msgs[m]? = some (.notice c) →
    ((s.dev.ctx c).alive = true → exec (.deadlineNotice m) s = goes s ((without s m).updCtx c fun k => cued k 6)) ∧
    ((s.dev.ctx c).alive = false → lone s.dev c → exec (.deadlineNotice m) s = goes s (without s m)))

namespace Sys2Proof.Claims

/-! ## Failure, resets, the host and management (R107, R306, R307, R379 to R392) -/

/-- A holder that has nothing of a line. -/
def nothingOf (x : HLine) : Prop := x.tokens = 0 ∧ x.owner = false ∧ x.pinned = 0 ∧ x.forwarding = false

/-- The whole line is at its home: no holder has anything of it, and no message carries any of it. -/
def lineAtHome (d : Dev) (line : Nat) : Prop :=
  (d.homes.get line).ownerAway = false ∧ (d.homes.get line).active = 0 ∧ (∀ h, nothingOf (d.hl line h)) ∧
    ∀ m ∈ d.msgs, Msg.isToks line m = false

/-- A chain with a link on a core that a property picks. -/
def linkedOn (x : Chain) (p : Nat → Prop) : Prop := ∃ l ∈ x.links, p l.core

/-- A package after it has been reset (R390, R392): what boot configures stays, a staged image takes the place of the boot firmware's,
and while other packages share the domain they see it unreachable. -/
def resetPkg (d : Dev) (p : Pkg) : Pkg :=
  { (default : Pkg) with
    pinlim := p.pinlim, mgroups := p.mgroups, image := p.staged.orElse fun _ => p.image, sideband := p.sideband
    unreachable := decide (1 < d.npkg) }

/-- A measurement register after it has been extended by a digest (R388). -/
def extended (p : Pkg) (i : Nat) (digest : BitVec 384) : BitVec 384 :=
  Config.sha384 (littleEndian 48 (p.mr.get i).toNat ++ littleEndian 48 digest.toNat)

end Sys2Proof.Claims

/-- R107, R306, R379, R380, R391: failures. The shutdown sequence of a compute die, which 105 °C also starts, ends every task in place on
it, sends home every token and partial that the die holds, forgets its translations, zeroes its barriers and freezes every chain with
a link there; then the die is in reset, and a second shutdown does nothing. A reset outside the sequence is a package machine check:
each context with a task is suspended with MACHINE_CHECK, one record of KIND 4 goes to the fault ring if its writer runs, and the other
packages see the package as unreachable. A package that becomes unreachable freezes every chain with a link on it. -/
def Obligations.FailuresContainThemselves : Prop :=
  (∀ die s, die < 512 →
    ((s.dev.dies.get die).inReset = true → exec (.dieShutdown die) s = .next s) ∧
    ((s.dev.dies.get die).inReset = false → ∃ t, exec (.dieShutdown die) s = .next t ∧
      (t.dev.dies.get die).inReset = true ∧ (t.dev.dies.get die).upd = [] ∧ (t.dev.dies.get die).tlb = [] ∧
      (∀ b, b < 64 → t.dev.barriers.get (64 * die + b) = default) ∧
      (∀ c, c / 2 ^ 8 % 2 ^ 9 = die → (t.dev.ctx c).cond = .free) ∧
      ∀ line, (t.dev.hl line (16 * (die / 8) + die % 8)).tokens = 0) ∧
    ∀ celsius, exec (.thermalShutdown die celsius) s = if 105 ≤ celsius then exec (.dieShutdown die) s else .next s) ∧
  (∀ pkg die s, let p := s.dev.pkg pkg
    ∃ t, exec (.packageMachineCheck pkg die) s = .next t ∧ (t.dev.pkg pkg).machineCheck = true ∧
      (t.dev.pkg pkg).unreachable = true ∧ (t.dev.dies.get die).inReset = true ∧
      (t.dev.pkg pkg).frecs = (if 6 ≤ p.fringSize ∧ p.fringSize ≤ 16 then p.frecs ++ [{ (default : FRec) with cause := 0x1A, kind := 4 }]
        else p.frecs) ∧
      (∀ c, c / 2 ^ 11 % 64 = pkg → (s.dev.ctx c).cond ≠ .free → (s.dev.ctx c).susp = none →
        (t.dev.ctx c).susp = some { (default : TrapRec) with cause := 0x1A, utpc := (s.dev.ctx c).pc } ∧ (t.dev.ctx c).infl = [] ∧
          (t.dev.ctx c).pc = (s.dev.ctx c).pc) ∧
      ∀ c, c / 2 ^ 11 % 64 ≠ pkg → t.dev.ctx c = s.dev.ctx c) ∧
  (∀ pkg s, ∃ t, exec (.packageUnreachable pkg) s = .next t ∧ (t.dev.pkg pkg).unreachable = true ∧ t.dev.ctxs = s.dev.ctxs ∧
    t.dev.gmem = s.dev.gmem ∧ t.dev.spad = s.dev.spad ∧ t.dev.msgs = s.dev.msgs ∧
    ∀ q num x h, chainHere s q num x h → linkedOn x (fun core => core / 2 ^ 11 = pkg) →
      (t.dev.chains.get (4096 * q + num)).frozen = true)

/-- R304, R307, R382, R390 to R392: resets and the ports. A package reset, or the side-band's request for one, loses every context, job,
chain, memory byte and token of the package; its measurement registers and every register of its own are as after reset, and other
packages see it as unreachable. A reset of the host function empties its mailbox and its queued admissions and leaves the rest; a link
port that is reset is out of use, and with the last of its 144 ports the package is unreachable; a side-band reset affects the side-band alone. A flit sent again changes nothing, a frame counter
takes the domain's clock, a power cap from 800 to 2400 W is taken. A flit that has failed 16 transmissions fails its message: a spawn
is refused, a notice is lost, a request is answered with an error and a hop freezes its chain. The host reads or writes eight bytes of
the bridge package's HBM4E, with CXL enabled, through the system cache: the tokens stay there, and an access that a belay request of
another holder keeps back stays in flight. -/
def Obligations.ResetsActByDomain : Prop :=
  (∀ pkg s, pkg < 64 → ∃ t, exec (.packageReset pkg) s = .next t ∧ exec (.packageResetRequest pkg) s = .next t ∧
    t.dev.pkg pkg = resetPkg s.dev (s.dev.pkg pkg) ∧
    (∀ c, c / 2 ^ 11 % 64 = pkg → t.dev.ctx c = default) ∧
    (SMap.wf s.dev.ctxs = true → ∀ c, c / 2 ^ 11 % 64 ≠ pkg → t.dev.ctx c = s.dev.ctx c) ∧
    (∀ job, t.dev.job pkg job = default) ∧ (∀ n, n < 4096 → t.dev.chains.get (4096 * pkg + n) = default) ∧
    (∀ a, a / 2 ^ 46 % 64 = pkg → rdByte t.dev.gmem a = 0) ∧
    (∀ a, (a / 2 ^ 31 = pkg → rdByte t.dev.spad a = 0) ∧ (a / 2 ^ 29 = pkg → rdByte t.dev.dspad a = 0)) ∧
    (s.dev.memWf = true → ∀ a, (a / 2 ^ 31 ≠ pkg → rdByte t.dev.spad a = rdByte s.dev.spad a) ∧
      (a / 2 ^ 29 ≠ pkg → rdByte t.dev.dspad a = rdByte s.dev.dspad a)) ∧
    (∀ line i, i < 9 → t.dev.hl line (16 * pkg + i) = default) ∧
    ∀ line h, line / 2 ^ 39 % 64 = pkg → h < 1024 → t.dev.hl line h = default ∧ t.dev.homes.get line = default) ∧
  (∀ pkg s,
    exec (.hostFunctionReset pkg) s =
      goes s (s.dev.updPkg pkg fun p => { p with doe := [], admitDrop := 0, admitUsed := 0, admissions := [] }) ∧
    exec (.sidebandReset pkg) s = goes s (s.dev.updPkg pkg fun p => { p with sideband := [] }) ∧
    (∀ port, let bad := (s.dev.pkg pkg).badPorts
      (144 ≤ port ∨ port ∈ bad → exec (.linkPortReset pkg port) s = .next s) ∧
      (port < 144 → port ∉ bad →
        (bad.length < 143 → exec (.linkPortReset pkg port) s =
          goes s (s.dev.updPkg pkg fun p => { p with badPorts := p.badPorts ++ [port] })) ∧
        (143 ≤ bad.length → ∃ t, exec (.linkPortReset pkg port) s = .next t ∧ (t.dev.pkg pkg).unreachable = true))) ∧
    (∀ port m, let lost := { s.dev with msgs := s.dev.msgs.eraseIdx m.msg }
      (m.fails < 16 ∨ s.dev.msgs[m.msg]? = none → exec (.flitRetransmit pkg port m) s = .next s) ∧
      (∀ x, 16 ≤ m.fails → s.dev.msgs[m.msg]? = some x → let o := exec (.flitRetransmit pkg port m) s
        (∀ c, x = .notice c → o = goes s lost) ∧
        (∀ p, x = .spawn p → o = goes s { lost with msgs := lost.msgs ++ [.spawnAck p true] }) ∧
        (∀ line r, (∃ a, x = .tread line r a ∨ x = .twrite line r a) ∨ x = .belay line r → noneWaits s.dev r →
          o = goes s (withHolder lost line r { s.dev.hl line r with req := none } [])) ∧
        (∀ core slot v y, x = .hop core slot v → let t := s.dev.slots.get (core * 8 + slot)
          liveChain s.dev t.handle = some y → ∃ u, o = .next u ∧ (u.dev.chains.get (chainKey t.handle)).frozen = true))) ∧
    (∀ v, exec (.frameCounterSync pkg v) s = goes s (s.dev.updPkg pkg fun p => { p with frame := v, subTick := 0 })) ∧
    ∀ w, exec (.powerCap pkg w) s =
      goes s (s.dev.updPkg pkg fun p => { p with capDrop := if 800 ≤ w ∧ w ≤ 2400 then 2400 - w else p.capDrop })) ∧
  (∀ pkg pa w s, let line := pa / 128
    let r := 16 * pkg + 8
    let m : Msg := .host pkg pa w
    let base := { s.dev with msgs := s.dev.msgs.erase m }
    let h := s.dev.homes.get line
    let x := s.dev.hl line r
    (pkg ≠ s.dev.bridge ∨ s.dev.cxl = false ∨ 0x7FF8000000 ≤ pa % 2 ^ 46 → exec (.hostCxlAccess pkg w pa) s = goes s base) ∧
    (pa % 8 = 0 → pa / 2 ^ 46 % 64 = pkg → pa % 2 ^ 46 < 0x7FF8000000 → pkg = s.dev.bridge → s.dev.cxl = true →
      (x.tokens = 0 → h.active ≠ 0 → h.active ≠ r + 1 →
        exec (.hostCxlAccess pkg w pa) s = goes s { base with msgs := base.msgs ++ [m] }) ∧
      (plainLine s.dev line → lineAtHome s.dev line →
        (w = none → h.away + 1 < 1024 → exec (.hostCxlAccess pkg w pa) s = goes s
          (withHolder (withHome (countedOnce base line 8) line { h with away := h.away + 1, hints := hinted h.hints r } []) line r
            { x with tokens := 1, data := some (memLine s.dev line) } [])) ∧
        (∀ v, w = some v → ∃ t u, exec (.hostCxlAccess pkg w pa) s = .next t ∧ (t.dev.hl line r).data = some u ∧
          (t.dev.hl line r).tokens = 1024 ∧ (t.dev.hl line r).dirty = true ∧
          (∀ i, i < 8 → BitVec.ofNat 8 (elem u 8 (pa % 128 + i)) = v.extractLsb' (8 * i) 8) ∧
          (∀ o, o < 128 → (o < pa % 128 ∨ pa % 128 + 8 ≤ o) → elem u 8 o = elem (memLine s.dev line) 8 o) ∧
          t.dev.gmem = s.dev.gmem ∧ t.dev.ctxs = s.dev.ctxs ∧ t.dev.spad = s.dev.spad))))

/-- R14, R37, R298, R388 to R391: boot and management. A failed signature check stops boot with STATE 2 and a reason; otherwise boot
goes on step by step: the boot firmware, or the image that a reset has put in its place, is measured into MR0, the runtime firmware into
MR1, and the configuration into MR2, which takes effect: core enables, PINLIM, multicast groups and power limit. Then STATE is 1. Each
SPDM request is answered where it came from: in the mailbox, which the bridge package alone has, or on the side-band; measurement index
i from 1 to 8 reports MR(i − 1) as it stands. Monitoring reports ten readings, STATE and the boot reason over the side-band, whatever
STATE is. A firmware update stages its image and nothing else. -/
def Obligations.BootIsMeasuredAndReported : Prop :=
  (∀ pkg ok a b config s, let p := s.dev.pkg pkg
    let o := exec (.boot pkg ok a b config) s
    let measured (i : Nat) (v : BitVec 384) (p : Pkg) : Pkg := { p with mr := p.mr.set i (extended p i v), bootStage := p.bootStage + 1 }
    (p.admitState ≠ 0 → o = .next s) ∧
    (p.admitState = 0 →
      (p.bootStage = 0 → ok = false →
        ∃ w, o = goes s (s.dev.updPkg pkg fun p => { p with admitState := 2, bootReason := w })) ∧
      (p.bootStage = 0 → ok = true → o = goes s (s.dev.updPkg pkg (measured 0 (p.image.getD a)))) ∧
      (p.bootStage = 1 → o = goes s (s.dev.updPkg pkg (measured 1 b))) ∧
      (p.bootStage = 2 → o = goes s
        ({ s.dev with
            disabled := (s.dev.disabled.filter fun core => core / 2 ^ 11 != pkg) ++
              config.disabled.filter fun core => core / 2 ^ 11 == pkg }.updPkg pkg fun p =>
          { measured 2 config.digest p with
            pinlim := config.pinlim, mgroups := config.groups.foldl (fun (m : SMap (List Nat)) (g : Nat × List Nat) => SMap.set m g.1 g.2) []
            capDrop := if 800 ≤ config.watts ∧ config.watts ≤ 2400 then 2400 - config.watts else p.capDrop })) ∧
      (2 < p.bootStage → o = goes s (s.dev.updPkg pkg fun p => { p with admitState := 1 })))) ∧
  (∀ port : SpdmTo, ∀ s, let pkg := port.pkg
    let answers (o : Out) (l : List Byte) : Prop :=
      (port.port = .host → pkg ≠ s.dev.bridge → o = .next s) ∧
      (port.port = .host → pkg = s.dev.bridge →
        o = goes s ({ s.dev with free := s.dev.free + 1 }.updPkg pkg fun p => { p with doe := p.doe ++ l })) ∧
      (port.port = .sideband →
        o = goes s ({ s.dev with free := s.dev.free + 1 }.updPkg pkg fun p => { p with sideband := p.sideband ++ l }))
    (∀ i, i ∈ ([.getVersion port, .getCapabilities port, .negotiateAlgorithms port, .getDigests port] : List Instr) ∨
        (∃ n, i = .getCertificate port n) ∨ (∃ n, i = .challenge port n) → ∃ l, answers (exec i s) l) ∧
    ∀ i, 1 ≤ i → i ≤ 8 → ∃ l,
      answers (exec (.getMeasurements port i) s) (l ++ littleEndian 48 ((s.dev.pkg pkg).mr.get (i - 1)).toNat)) ∧
  (∀ pkg s, ∃ l, l.length = 40 ∧ exec (.pldmMonitoring pkg) s =
    goes s ({ s.dev with free := s.dev.free + 1 }.updPkg pkg fun p =>
      { p with sideband := p.sideband ++ l ++ littleEndian 1 p.admitState ++ littleEndian 4 p.bootReason })) ∧
  (∀ pkg image s, exec (.pldmFirmwareUpdate pkg image) s = goes s (s.dev.updPkg pkg fun p => { p with staged := some image }))

namespace Sys2Proof.Claims

/-! ## Reset and invariants (R13, R22, R37, R66, R90, R97, R377, R383, R388, R392) -/

/-- The memories of a device, of an open bundle and of what stopped it are canonical. -/
def canonical (s : State) : Prop :=
  s.dev.memWf = true ∧ ∀ b, s.bundle = some b → b.pre.memWf = true ∧ b.saved.memWf = true ∧
    ∀ x, b.stop = some x → x.base.memWf = true

end Sys2Proof.Claims

/-- R22, R97, R377, R384, R388, R392: the machine right after package reset. No context holds a task and no job is live; the measurement
registers are zero, no admission is queued and STATE is 0; the fault ring and the migration queue are off and empty; every link slot
is FREE, every barrier zero, no die scratchpad owned; every line's 1024 tokens are at its home; no memory cell, codebook entry or
translation is listed, so that each memory is canonical. That a byte which nothing has written reads 0 is the model's choice (log
entry 2). -/
def Obligations.ResetLeaves : Prop :=
  let d := State.reset.dev
  (∀ c, (d.ctx c).cond = .free) ∧ (∀ p j, (d.job p j).live = false) ∧
  (∀ p, (∀ i, (d.pkg p).mr.get i = 0) ∧ (d.pkg p).admissions = [] ∧ (d.pkg p).admitUsed = 0 ∧ (d.pkg p).admitDrop = 0 ∧
    (d.pkg p).admitState = 0 ∧ (d.pkg p).fringBase = 0 ∧ (d.pkg p).fringSize = 0 ∧ (d.pkg p).fringHead = 0 ∧ (d.pkg p).fringTail = 0 ∧
    (d.pkg p).fringWaited = false ∧ (d.pkg p).migHead = 0 ∧ (d.pkg p).migTail = 0 ∧ (d.pkg p).migThresh = 0 ∧
    (d.pkg p).migOvf = false ∧ (d.pkg p).frecs = []) ∧
  (∀ k, (d.slots.get k).state = .free ∧ (d.barriers.get k).expect = 0 ∧ (d.barriers.get k).arrived = 0 ∧ (d.barriers.get k).gen = 0 ∧
    (d.dies.get k).dsown = 0 ∧ (d.dies.get k).tlb = [] ∧ (d.dies.get k).inReset = false ∧ d.cbt.get k = 0 ∧ (d.chains.get k).live = false) ∧
  (∀ line h, (d.home line).away = 0 ∧ (d.home line).ownerAway = false ∧ (d.hl line h).tokens = 0) ∧
  (∀ a, rdByte d.gmem a = 0 ∧ rdByte d.spad a = 0 ∧ rdByte d.lanes a = 0 ∧ rdByte d.dspad a = 0) ∧ d.msgs = [] ∧
  canonical State.reset ∧ exec .bundleIssue State.reset = .next State.reset

/-- R22: every step keeps the memories of the machine in their one canonical form, and those that an open bundle has set aside: from any
state that has it, whatever moves next. The form is the model's (log entry 2). -/
def Obligations.StepKeepsMemoryCanonical : Prop :=
  ∀ s t, canonical s → step s = .next t → canonical t
end

