-- ==== Sys2Proof/Laws/SMap.lean ====
section
/-! SUPPORT. Laws of the sparse map: read after write, and the canonical form. -/

namespace Sys2Proof.SMap

variable {α : Type} [Inhabited α] [DecidableEq α]

omit [DecidableEq α] in
theorem get_after_self (m : SMap α) (k : Nat) : get (after k m) k = default := by
  induction m with
  | nil => rfl
  | cons x r ih =>
    obtain ⟨i, w⟩ := x
    simp only [after]
    split
    · rename_i h; simp [get, h, Nat.ne_of_lt h]
    · exact ih

omit [DecidableEq α] in
theorem get_after_ne (m : SMap α) {k j : Nat} (h : k < j) : get (after k m) j = get m j := by
  induction m with
  | nil => rfl
  | cons x r ih =>
    obtain ⟨i, w⟩ := x
    simp only [after]
    split
    · rfl
    · rename_i h1; simp only [get]; rw [if_neg (by omega), if_neg (by omega), ih]

omit [DecidableEq α] in
theorem get_after_below (m : SMap α) {k j : Nat} (h : j ≤ k) : get (after k m) j = default := by
  induction m with
  | nil => rfl
  | cons x r ih =>
    obtain ⟨i, w⟩ := x
    simp only [after]
    split
    · rename_i h1; simp only [get]; rw [if_neg (by omega), if_pos (by omega)]
    · exact ih

/-- A key reads what was written last, in any list. -/
@[simp] theorem get_set_same (m : SMap α) (k : Nat) (v : α) : get (set m k v) k = v := by
  induction m with
  | nil => by_cases h : v = default <;> simp [set, get, h]
  | cons x r ih =>
    obtain ⟨i, w⟩ := x
    simp only [set]
    split
    · rename_i h1
      split
      · rename_i h; simp [get, h, h1, Nat.ne_of_lt h1]
      · simp [get]
    · split
      · split
        · rename_i h; rw [h, get_after_self]
        · simp [get]
      · rename_i h1 h2; simp [get, h2, h1, ih]

/-- A write leaves the other keys alone, in any list. -/
theorem get_set_ne (m : SMap α) (k j : Nat) (v : α) (hj : j ≠ k) : get (set m k v) j = get m j := by
  induction m with
  | nil => by_cases h : v = default <;> simp [set, get, h, hj]
  | cons x r ih =>
    obtain ⟨i, w⟩ := x
    simp only [set]
    split
    · rename_i h1
      split
      · rfl
      · simp only [get, hj, if_false]
        split
        · rename_i h2; rw [if_neg (by omega), if_pos (by omega)]
        · rfl
    · split
      · rename_i h1 h2
        subst h2
        split
        · simp only [get, hj, if_false]
          split
          · exact get_after_below r (by omega)
          · exact get_after_ne r (by omega)
        · simp only [get, hj, if_false]
      · simp only [get, ih]

/-- The second of two writes to a key stands, in any list, when the first was no removal. -/
theorem set_set (m : SMap α) (k : Nat) (v w : α) (h : v ≠ default) : set (set m k v) k w = set m k w := by
  induction m with
  | nil => simp [set, h, after]
  | cons x r ih =>
    obtain ⟨i, u⟩ := x
    simp only [set]
    split
    · simp_all [set, after]
    · split
      · simp_all [set]
      · rename_i h1 h2; simp only [set, if_neg h1, if_neg h2, ih]

/-! ## Canonical maps -/

omit [Inhabited α] [DecidableEq α] in
theorem above_mono {m : SMap α} {a b : Nat} (h : above b m = true) (hab : a ≤ b) : above a m = true := by
  induction m with
  | nil => rfl
  | cons x r ih =>
    simp only [above, Bool.and_eq_true, decide_eq_true_eq] at h ⊢
    exact ⟨by omega, ih h.2⟩

omit [DecidableEq α] in
theorem get_above {m : SMap α} {b k : Nat} (h : above b m = true) (hk : k ≤ b) : get m k = default := by
  cases m with
  | nil => rfl
  | cons x r =>
    simp only [above, Bool.and_eq_true, decide_eq_true_eq] at h
    have h1 : k < x.1 := by omega
    simp [get, h1, Nat.ne_of_lt h1]

omit [Inhabited α] [DecidableEq α] in
theorem above_after {m : SMap α} {b k : Nat} (h : above b m = true) : above b (after k m) = true := by
  induction m with
  | nil => rfl
  | cons x r ih =>
    have h1 := h
    simp only [above, Bool.and_eq_true] at h
    simp only [after]
    split
    · exact h1
    · exact ih h.2

omit [Inhabited α] [DecidableEq α] in
/-- In a canonical map nothing above the head is dropped. -/
theorem after_eq {m : SMap α} {k : Nat} (h : above k m = true) : after k m = m := by
  cases m with
  | nil => rfl
  | cons x r =>
    simp only [above, Bool.and_eq_true, decide_eq_true_eq] at h
    simp [after, h.1]

theorem above_set {m : SMap α} {b k : Nat} {v : α} (h : above b m = true) (hk : b < k) : above b (set m k v) = true := by
  induction m with
  | nil => simp only [set]; split <;> simp [above, hk]
  | cons x r ih =>
    obtain ⟨i, w⟩ := x
    simp only [above, Bool.and_eq_true, decide_eq_true_eq] at h
    simp only [set]
    split
    · split <;> simp [above, hk, h.1, h.2]
    · split
      · split
        · exact above_after h.2
        · simp [above, hk, h.2]
      · simp [above, h.1, ih h.2]

/-- A write keeps the canonical form. -/
theorem wf_set {m : SMap α} (h : wf m = true) (k : Nat) (v : α) : wf (set m k v) = true := by
  induction m with
  | nil => simp only [set]; split <;> simp_all [wf, above]
  | cons x r ih =>
    obtain ⟨i, w⟩ := x
    simp only [wf, Bool.and_eq_true, decide_eq_true_eq] at h
    obtain ⟨⟨hw, ha⟩, hr⟩ := h
    simp only [set]
    split
    · rename_i h1
      split
      · simp [wf, hw, ha, hr]
      · rename_i h2
        simp [wf, hw, ha, hr, h2, above, h1, above_mono ha (Nat.le_of_lt h1)]
    · split
      · rename_i h1 h2
        subst h2
        split
        · rw [after_eq ha]; exact hr
        · rename_i h3; simp [wf, h3, ha, hr]
      · rename_i h1 h2
        simp [wf, hw, ih hr, above_set ha (show i < k by omega)]

theorem wf_nil : wf ([] : SMap α) = true := rfl

end Sys2Proof.SMap
end

