-- ==== Sys2Proof/Laws/Memory.lean ====
section
/-! SUPPORT. The laws of memory: what a read gives after a write, and that every operation keeps the canonical form. -/

namespace Sys2Proof.SMap

variable {α : Type} [Inhabited α] [DecidableEq α]

omit [Inhabited α] [DecidableEq α] in
theorem above_filter {m : SMap α} {b : Nat} (p : Nat × α → Bool) (h : above b m = true) : above b (m.filter p) = true := by
  induction m generalizing b with
  | nil => rfl
  | cons x r ih =>
    simp only [above, Bool.and_eq_true, decide_eq_true_eq] at h
    simp only [List.filter_cons]
    split
    · simp only [above, Bool.and_eq_true, decide_eq_true_eq]; exact ⟨h.1, ih h.2⟩
    · exact ih h.2

/-- Leaving entries out keeps the canonical form. -/
theorem wf_filter {m : SMap α} (p : Nat × α → Bool) (h : wf m = true) : wf (m.filter p) = true := by
  induction m with
  | nil => rfl
  | cons x r ih =>
    simp only [wf, Bool.and_eq_true, decide_eq_true_eq] at h
    simp only [List.filter_cons]
    split
    · simp only [wf, Bool.and_eq_true, decide_eq_true_eq]; exact ⟨⟨h.1.1, above_filter p h.1.2⟩, ih h.2⟩
    · exact ih h.2

omit [DecidableEq α] in
/-- A key that a filter leaves out reads as the default. -/
theorem get_filter_out (m : SMap α) (p : Nat × α → Bool) (k : Nat) (h : ∀ v, p (k, v) = false) : get (m.filter p) k = default := by
  induction m with
  | nil => rfl
  | cons x r ih =>
    obtain ⟨i, v⟩ := x
    simp only [List.filter_cons]
    split
    · rename_i hp
      have hk : k ≠ i := by rintro rfl; rw [h v] at hp; exact absurd hp (by decide)
      simp only [get, if_neg hk]
      split
      · rfl
      · exact ih
    · exact ih

omit [DecidableEq α] in
theorem get_filter_above {m : SMap α} {b k : Nat} (p : Nat × α → Bool) (h : above b m = true) (hk : k ≤ b) :
    get (m.filter p) k = default := get_above (above_filter p h) hk

/-- A key that a filter keeps reads in a canonical map as it did. -/
theorem get_filter_in {m : SMap α} (hm : wf m = true) (p : Nat × α → Bool) (k : Nat) (h : ∀ v, p (k, v) = true) :
    get (m.filter p) k = get m k := by
  induction m with
  | nil => rfl
  | cons x r ih =>
    obtain ⟨i, v⟩ := x
    simp only [wf, Bool.and_eq_true, decide_eq_true_eq] at hm
    simp only [List.filter_cons, get]
    by_cases hk : k = i
    · subst hk; simp [h v, get]
    · simp only [if_neg hk]
      by_cases hl : k < i
      · simp only [if_pos hl]
        split
        · simp [get, hk, hl]
        · exact get_filter_above p hm.1.2 (Nat.le_of_lt hl)
      · simp only [if_neg hl]
        split
        · simp [get, hk, hl, ih hm.2]
        · exact ih hm.2

end Sys2Proof.SMap

namespace Sys2Proof.Machine

open Sys2Proof

/-! ## Reading after a write -/

@[simp] theorem rdByte_wrByte_same (m : List Host.Cell) (a : Nat) (b : Byte) : rdByte (wrByte m a b) a = b :=
  SMap.get_set_same _ _ _

theorem rdByte_wrByte_ne (m : List Host.Cell) {a x : Nat} (b : Byte) (h : x ≠ a) : rdByte (wrByte m a b) x = rdByte m x :=
  SMap.get_set_ne _ _ _ _ h

/-- Each byte after a write of bytes: the one written there, or what it was. -/
theorem rdByte_wrMem (bs : List Byte) (m : List Host.Cell) (a x : Nat) :
    rdByte (wrMem m a bs) x = if a ≤ x ∧ x < a + bs.length then (bs[x - a]?).getD 0 else rdByte m x := by
  induction bs generalizing m a with
  | nil => simp only [wrMem, List.length_nil]; rw [if_neg (by omega)]
  | cons b r ih =>
    simp only [wrMem, ih, List.length_cons]
    by_cases h : a + 1 ≤ x ∧ x < a + 1 + r.length
    · rw [if_pos h, if_pos (by omega)]
      have hx : x - a = (x - (a + 1)) + 1 := by omega
      rw [hx, List.getElem?_cons_succ]
    · rw [if_neg h]
      by_cases hx : x = a
      · subst hx; rw [rdByte_wrByte_same, if_pos (by omega)]; simp
      · rw [rdByte_wrByte_ne _ _ hx, if_neg (by omega)]

/-- Each byte after a write of the selected bytes: the one written there, or what it was. -/
theorem rdByte_wrMemSel (bs : List (Bool × Byte)) (m : List Host.Cell) (a x : Nat) :
    rdByte (wrMemSel m a bs) x =
      match (if a ≤ x then bs[x - a]? else none) with
      | some (true, b) => b
      | _ => rdByte m x := by
  induction bs generalizing m a with
  | nil => simp only [wrMemSel]; split <;> rename_i h <;> first | rfl | (split at h <;> simp at h)
  | cons y r ih =>
    obtain ⟨s, b⟩ := y
    rw [wrMemSel, ih]
    by_cases hx : x = a
    · subst hx
      rw [if_neg (by omega), if_pos (Nat.le_refl _)]
      cases s <;> simp
    · have h0 : rdByte (if s = true then wrByte m a b else m) x = rdByte m x := by
        cases s
        · rfl
        · exact rdByte_wrByte_ne _ _ hx
      rw [h0]
      by_cases h : a + 1 ≤ x
      · have h2 : x - a = (x - (a + 1)) + 1 := by omega
        rw [if_pos h, if_pos (show a ≤ x by omega), h2, List.getElem?_cons_succ]
      · rw [if_neg h, if_neg (show ¬ a ≤ x by omega)]

/-! ## The canonical form -/

theorem wrByte_wf {m : List Host.Cell} (h : Memory.wf m = true) (a : Nat) (b : Byte) : Memory.wf (wrByte m a b) = true :=
  SMap.wf_set h a b

theorem wrMem_wf (bs : List Byte) {m : List Host.Cell} (h : Memory.wf m = true) (a : Nat) : Memory.wf (wrMem m a bs) = true := by
  induction bs generalizing m a with
  | nil => exact h
  | cons b r ih => exact ih (wrByte_wf h a b) (a + 1)

theorem wrMemSel_wf (bs : List (Bool × Byte)) {m : List Host.Cell} (h : Memory.wf m = true) (a : Nat) :
    Memory.wf (wrMemSel m a bs) = true := by
  induction bs generalizing m a with
  | nil => exact h
  | cons y r ih =>
    obtain ⟨s, b⟩ := y
    refine ih ?_ (a + 1)
    cases s
    · exact h
    · exact wrByte_wf h a b

theorem clearRange_wf {m : List Host.Cell} (h : Memory.wf m = true) (a n : Nat) : Memory.wf (clearRange m a n) = true :=
  SMap.wf_filter _ h

/-- Zeroed bytes read 0. -/
theorem rdByte_clearRange (m : List Host.Cell) {a n x : Nat} (h : a ≤ x ∧ x < a + n) : rdByte (clearRange m a n) x = 0 :=
  SMap.get_filter_out _ _ _ (by intro v; simp [h.1, h.2])

/-- A device whose memories are those of another is as canonical as it. -/
theorem Dev.memWf_congr {d e : Dev} (hg : e.gmem = d.gmem) (hs : e.spad = d.spad) (hl : e.lanes = d.lanes) (hd : e.dspad = d.dspad) :
    e.memWf = d.memWf := by simp only [Dev.memWf, hg, hs, hl, hd]

theorem Dev.memWf_parts (d : Dev) : d.memWf = true ↔
    Memory.wf d.gmem = true ∧ Memory.wf d.spad = true ∧ Memory.wf d.lanes = true ∧ Memory.wf d.dspad = true := by
  simp only [Dev.memWf, Bool.and_eq_true, and_assoc]

/-- The choice of a block's state touches no memory. -/
theorem storeBlock_memWf (d : Dev) (line : Nat) (cmp : Bool) : (storeBlock d line cmp).memWf = d.memWf := by
  simp only [storeBlock]; split <;> rfl

theorem setMemLine_memWf {d : Dev} (h : d.memWf = true) (line : Nat) (cmp : Bool) (v : Line) :
    (setMemLine d line cmp v).memWf = true := by
  have hp := (Dev.memWf_parts d).1 h
  have hm := wrMem_wf (lineBytes v) hp.1 (line * 128)
  unfold setMemLine
  generalize wrMem d.gmem (line * 128) (lineBytes v) = m at hm ⊢
  have h1 : (storeBlock { d with gmem := m } line cmp).memWf = true :=
    (storeBlock_memWf _ _ _).trans ((Dev.memWf_parts _).2 ⟨hm, hp.2⟩)
  dsimp only
  split
  · exact h1
  · exact h1

theorem pokeByte_memWf {d : Dev} (h : d.memWf = true) (pa : Nat) (b : Byte) : (pokeByte d pa b).memWf = true := by
  simp only [pokeByte]
  split
  · exact h
  · rw [Dev.memWf_parts] at h ⊢; exact ⟨wrByte_wf h.1 _ _, h.2⟩

theorem pokeBytes_memWf (bs : List Byte) {d : Dev} (h : d.memWf = true) (pa : Nat) : (pokeBytes d pa bs).memWf = true := by
  induction bs generalizing d pa with
  | nil => exact h
  | cons b r ih => exact ih (pokeByte_memWf h pa b) (pa + 1)

theorem wrPlaces_memWf {d : Dev} (h : d.memWf = true) (p : Nat) (bs : List (Bool × Byte)) : (wrPlaces d p bs).memWf = true := by
  rw [Dev.memWf_parts] at h
  simp only [wrPlaces]
  split
  · rw [Dev.memWf_parts]; exact ⟨h.1, wrMemSel_wf _ h.2.1 _, h.2.2⟩
  · split
    · rw [Dev.memWf_parts]; exact ⟨h.1, h.2.1, h.2.2.1, wrMemSel_wf _ h.2.2.2 _⟩
    · rw [Dev.memWf_parts]; exact ⟨h.1, h.2.1, wrMemSel_wf _ h.2.2.1 _, h.2.2.2⟩

theorem healWord_memWf {d : Dev} (h : d.memWf = true) (p : Nat) : (healWord d p).memWf = true := by
  simp only [healWord]; split
  · exact h
  · split <;> exact h

theorem wrWordsAt_memWf {d : Dev} (h : d.memWf = true) (p : Nat) (bs : List (Bool × Byte)) : (wrWordsAt d p bs).memWf = true := by
  simp only [wrWordsAt]
  apply wrPlaces_memWf
  generalize wordsOf p bs.length = l
  induction l generalizing d with
  | nil => exact h
  | cons w r ih =>
    simp only [List.foldl_cons]
    apply ih
    split
    · exact healWord_memWf h _
    · exact h

theorem zeroAllot_memWf {d : Dev} (h : d.memWf = true) (core : Nat) (al : Allot) : (zeroAllot d core al).memWf = true := by
  rw [Dev.memWf_parts] at h
  simp only [zeroAllot, Dev.memWf_parts]
  refine ⟨h.1, ?_, ?_, h.2.2.2⟩
  · apply clearRange_wf; apply clearRange_wf; exact h.2.1
  · apply clearRange_wf; exact h.2.2.1

/-- The reset machine's memories are canonical. -/
theorem reset_memWf : State.reset.dev.memWf = true := rfl

end Sys2Proof.Machine
end

