-- ==== Sys2Proof/Laws/PerInstr.lean ====
section
/-! SUPPORT. Families of statements made for each instruction. -/

namespace Sys2Proof.Laws.Coded

open Sys2Proof

/-- The word of a well-formed instruction is a header over a body (R47), with an opcode other than that of the pad (R51). -/
def Statement (i : Instr) : Prop :=
  i.wf = true → ∀ bs, ∃ slot opc g body, encode bs i = Enc.word bs slot opc g body ∧ opc < 0xFF

theorem nop : ∀ x0, Statement (.nop x0) :=
  fun _ _ _ => ⟨_, _, _, _, rfl, by decide⟩
theorem add : ∀ x0, Statement (.add x0) :=
  fun _ _ _ => ⟨_, _, _, _, rfl, by decide⟩
theorem sub : ∀ x0, Statement (.sub x0) :=
  fun _ _ _ => ⟨_, _, _, _, rfl, by decide⟩
theorem and : ∀ x0, Statement (.and x0) :=
  fun _ _ _ => ⟨_, _, _, _, rfl, by decide⟩
theorem or : ∀ x0, Statement (.or x0) :=
  fun _ _ _ => ⟨_, _, _, _, rfl, by decide⟩
theorem xor : ∀ x0, Statement (.xor x0) :=
  fun _ _ _ => ⟨_, _, _, _, rfl, by decide⟩
theorem andn : ∀ x0, Statement (.andn x0) :=
  fun _ _ _ => ⟨_, _, _, _, rfl, by decide⟩
theorem shl : ∀ x0, Statement (.shl x0) :=
  fun _ _ _ => ⟨_, _, _, _, rfl, by decide⟩
theorem shr : ∀ x0, Statement (.shr x0) :=
  fun _ _ _ => ⟨_, _, _, _, rfl, by decide⟩
theorem sar : ∀ x0, Statement (.sar x0) :=
  fun _ _ _ => ⟨_, _, _, _, rfl, by decide⟩
theorem rol : ∀ x0, Statement (.rol x0) :=
  fun _ _ _ => ⟨_, _, _, _, rfl, by decide⟩
theorem min : ∀ x0, Statement (.min x0) :=
  fun _ _ _ => ⟨_, _, _, _, rfl, by decide⟩
theorem max : ∀ x0, Statement (.max x0) :=
  fun _ _ _ => ⟨_, _, _, _, rfl, by decide⟩
theorem mul : ∀ x0, Statement (.mul x0) :=
  fun _ _ _ => ⟨_, _, _, _, rfl, by decide⟩
theorem mulh : ∀ x0 x1, Statement (.mulh x0 x1) :=
  fun _ _ _ _ => ⟨_, _, _, _, rfl, by decide⟩
theorem div : ∀ x0, Statement (.div x0) :=
  fun _ _ _ => ⟨_, _, _, _, rfl, by decide⟩
theorem rem : ∀ x0, Statement (.rem x0) :=
  fun _ _ _ => ⟨_, _, _, _, rfl, by decide⟩
theorem clz : ∀ x0, Statement (.clz x0) :=
  fun _ _ _ => ⟨_, _, _, _, rfl, by decide⟩
theorem ctz : ∀ x0, Statement (.ctz x0) :=
  fun _ _ _ => ⟨_, _, _, _, rfl, by decide⟩
theorem popc : ∀ x0, Statement (.popc x0) :=
  fun _ _ _ => ⟨_, _, _, _, rfl, by decide⟩
theorem ext : ∀ x0 x1 x2, Statement (.ext x0 x1 x2) :=
  fun _ _ _ _ _ => ⟨_, _, _, _, rfl, by decide⟩
theorem set : ∀ x0 x1, Statement (.set x0 x1) :=
  fun _ _ _ _ => ⟨_, _, _, _, rfl, by decide⟩
theorem csel : ∀ x0 x1, Statement (.csel x0 x1) :=
  fun _ _ _ _ => ⟨_, _, _, _, rfl, by decide⟩
theorem setp : ∀ x0 x1 x2 x3 x4, Statement (.setp x0 x1 x2 x3 x4) :=
  fun _ _ _ _ _ _ _ => ⟨_, _, _, _, rfl, by decide⟩
theorem addi : ∀ x0, Statement (.addi x0) :=
  fun _ _ _ => ⟨_, _, _, _, rfl, by decide⟩
theorem andi : ∀ x0, Statement (.andi x0) :=
  fun _ _ _ => ⟨_, _, _, _, rfl, by decide⟩
theorem ori : ∀ x0, Statement (.ori x0) :=
  fun _ _ _ => ⟨_, _, _, _, rfl, by decide⟩
theorem xori : ∀ x0, Statement (.xori x0) :=
  fun _ _ _ => ⟨_, _, _, _, rfl, by decide⟩
theorem shli : ∀ x0, Statement (.shli x0) :=
  fun _ _ _ => ⟨_, _, _, _, rfl, by decide⟩
theorem shri : ∀ x0, Statement (.shri x0) :=
  fun _ _ _ => ⟨_, _, _, _, rfl, by decide⟩
theorem sari : ∀ x0, Statement (.sari x0) :=
  fun _ _ _ => ⟨_, _, _, _, rfl, by decide⟩
theorem muli : ∀ x0, Statement (.muli x0) :=
  fun _ _ _ => ⟨_, _, _, _, rfl, by decide⟩
theorem movi : ∀ x0 x1 x2, Statement (.movi x0 x1 x2) :=
  fun _ _ _ _ _ => ⟨_, _, _, _, rfl, by decide⟩
theorem movhi : ∀ x0, Statement (.movhi x0) :=
  fun _ _ _ => ⟨_, _, _, _, rfl, by decide⟩
theorem seti : ∀ x0 x1, Statement (.seti x0 x1) :=
  fun _ _ _ _ => ⟨_, _, _, _, rfl, by decide⟩
theorem br : ∀ x0 x1 x2 x3 x4, Statement (.br x0 x1 x2 x3 x4) :=
  fun _ _ _ _ _ _ _ => ⟨_, _, _, _, rfl, by decide⟩
theorem jmp : ∀ x0 x1, Statement (.jmp x0 x1) :=
  fun _ _ _ _ => ⟨_, _, _, _, rfl, by decide⟩
theorem call : ∀ x0 x1, Statement (.call x0 x1) :=
  fun _ _ _ _ => ⟨_, _, _, _, rfl, by decide⟩
theorem jr : ∀ x0 x1 x2, Statement (.jr x0 x1 x2) :=
  fun _ _ _ _ _ => ⟨_, _, _, _, rfl, by decide⟩
theorem callr : ∀ x0 x1 x2, Statement (.callr x0 x1 x2) :=
  fun _ _ _ _ _ => ⟨_, _, _, _, rfl, by decide⟩
theorem loop : ∀ x0 x1, Statement (.loop x0 x1) :=
  fun _ _ _ _ => ⟨_, _, _, _, rfl, by decide⟩
theorem brp : ∀ x0 x1 x2 x3, Statement (.brp x0 x1 x2 x3) :=
  fun _ _ _ _ _ _ => ⟨_, _, _, _, rfl, by decide⟩
theorem vadd : ∀ x0, Statement (.vadd x0) :=
  fun _ _ _ => ⟨_, _, _, _, rfl, by decide⟩
theorem vsub : ∀ x0, Statement (.vsub x0) :=
  fun _ _ _ => ⟨_, _, _, _, rfl, by decide⟩
theorem vmul : ∀ x0, Statement (.vmul x0) :=
  fun _ _ _ => ⟨_, _, _, _, rfl, by decide⟩
theorem vmulh : ∀ x0, Statement (.vmulh x0) :=
  fun _ _ _ => ⟨_, _, _, _, rfl, by decide⟩
theorem vmac : ∀ x0, Statement (.vmac x0) :=
  fun _ _ _ => ⟨_, _, _, _, rfl, by decide⟩
theorem vabsd : ∀ x0, Statement (.vabsd x0) :=
  fun _ _ _ => ⟨_, _, _, _, rfl, by decide⟩
theorem vmin : ∀ x0, Statement (.vmin x0) :=
  fun _ _ _ => ⟨_, _, _, _, rfl, by decide⟩
theorem vmax : ∀ x0, Statement (.vmax x0) :=
  fun _ _ _ => ⟨_, _, _, _, rfl, by decide⟩
theorem vand : ∀ x0, Statement (.vand x0) :=
  fun _ _ _ => ⟨_, _, _, _, rfl, by decide⟩
theorem vor : ∀ x0, Statement (.vor x0) :=
  fun _ _ _ => ⟨_, _, _, _, rfl, by decide⟩
theorem vxor : ∀ x0, Statement (.vxor x0) :=
  fun _ _ _ => ⟨_, _, _, _, rfl, by decide⟩
theorem vandn : ∀ x0, Statement (.vandn x0) :=
  fun _ _ _ => ⟨_, _, _, _, rfl, by decide⟩
theorem vshl : ∀ x0, Statement (.vshl x0) :=
  fun _ _ _ => ⟨_, _, _, _, rfl, by decide⟩
theorem vshr : ∀ x0, Statement (.vshr x0) :=
  fun _ _ _ => ⟨_, _, _, _, rfl, by decide⟩
theorem vsar : ∀ x0, Statement (.vsar x0) :=
  fun _ _ _ => ⟨_, _, _, _, rfl, by decide⟩
theorem vshi : ∀ x0 x1 x2, Statement (.vshi x0 x1 x2) :=
  fun _ _ _ _ _ => ⟨_, _, _, _, rfl, by decide⟩
theorem vcmp : ∀ x0 x1 x2 x3 x4 x5 x6, Statement (.vcmp x0 x1 x2 x3 x4 x5 x6) :=
  fun _ _ _ _ _ _ _ _ _ => ⟨_, _, _, _, rfl, by decide⟩
theorem pand : ∀ x0, Statement (.pand x0) :=
  fun _ _ _ => ⟨_, _, _, _, rfl, by decide⟩
theorem por : ∀ x0, Statement (.por x0) :=
  fun _ _ _ => ⟨_, _, _, _, rfl, by decide⟩
theorem pxor : ∀ x0, Statement (.pxor x0) :=
  fun _ _ _ => ⟨_, _, _, _, rfl, by decide⟩
theorem pandn : ∀ x0, Statement (.pandn x0) :=
  fun _ _ _ => ⟨_, _, _, _, rfl, by decide⟩
theorem pcnt : ∀ x0 x1 x2 x3 x4 x5, Statement (.pcnt x0 x1 x2 x3 x4 x5) :=
  fun _ _ _ _ _ _ _ _ => ⟨_, _, _, _, rfl, by decide⟩
theorem pmov : ∀ x0 x1 x2 x3, Statement (.pmov x0 x1 x2 x3) :=
  fun _ _ _ _ _ _ => ⟨_, _, _, _, rfl, by decide⟩
theorem pmovV2P : ∀ x0 x1 x2 x3 x4, Statement (.pmovV2P x0 x1 x2 x3 x4) :=
  fun _ _ _ _ _ _ _ => ⟨_, _, _, _, rfl, by decide⟩
theorem pmovP2V : ∀ x0 x1 x2 x3 x4 x5, Statement (.pmovP2V x0 x1 x2 x3 x4 x5) :=
  fun _ _ _ _ _ _ _ _ => ⟨_, _, _, _, rfl, by decide⟩
theorem vsel : ∀ x0 x1, Statement (.vsel x0 x1) :=
  fun _ _ _ _ => ⟨_, _, _, _, rfl, by decide⟩
theorem vmov : ∀ x0, Statement (.vmov x0) :=
  fun _ _ _ => ⟨_, _, _, _, rfl, by decide⟩
theorem vbcst : ∀ x0 x1 x2 x3 x4 x5 x6, Statement (.vbcst x0 x1 x2 x3 x4 x5 x6) :=
  fun _ _ _ _ _ _ _ _ _ => ⟨_, _, _, _, rfl, by decide⟩
theorem vext : ∀ x0 x1 x2 x3 x4 x5 x6, Statement (.vext x0 x1 x2 x3 x4 x5 x6) :=
  fun _ _ _ _ _ _ _ _ _ => ⟨_, _, _, _, rfl, by decide⟩
theorem vins : ∀ x0 x1 x2, Statement (.vins x0 x1 x2) :=
  fun _ _ _ _ _ => ⟨_, _, _, _, rfl, by decide⟩
theorem vidx : ∀ x0 x1 x2 x3 x4 x5 x6, Statement (.vidx x0 x1 x2 x3 x4 x5 x6) :=
  fun _ _ _ _ _ _ _ _ _ => ⟨_, _, _, _, rfl, by decide⟩
theorem vfadd : ∀ x0, Statement (.vfadd x0) :=
  fun _ _ _ => ⟨_, _, _, _, rfl, by decide⟩
theorem vfsub : ∀ x0, Statement (.vfsub x0) :=
  fun _ _ _ => ⟨_, _, _, _, rfl, by decide⟩
theorem vfmul : ∀ x0, Statement (.vfmul x0) :=
  fun _ _ _ => ⟨_, _, _, _, rfl, by decide⟩
theorem vfma : ∀ x0, Statement (.vfma x0) :=
  fun _ _ _ => ⟨_, _, _, _, rfl, by decide⟩
theorem vfms : ∀ x0, Statement (.vfms x0) :=
  fun _ _ _ => ⟨_, _, _, _, rfl, by decide⟩
theorem vfmin : ∀ x0, Statement (.vfmin x0) :=
  fun _ _ _ => ⟨_, _, _, _, rfl, by decide⟩
theorem vfmax : ∀ x0, Statement (.vfmax x0) :=
  fun _ _ _ => ⟨_, _, _, _, rfl, by decide⟩
theorem vfabs : ∀ x0, Statement (.vfabs x0) :=
  fun _ _ _ => ⟨_, _, _, _, rfl, by decide⟩
theorem vfneg : ∀ x0, Statement (.vfneg x0) :=
  fun _ _ _ => ⟨_, _, _, _, rfl, by decide⟩
theorem vrcpa : ∀ x0, Statement (.vrcpa x0) :=
  fun _ _ _ => ⟨_, _, _, _, rfl, by decide⟩
theorem vrsqa : ∀ x0, Statement (.vrsqa x0) :=
  fun _ _ _ => ⟨_, _, _, _, rfl, by decide⟩
theorem vexp2 : ∀ x0, Statement (.vexp2 x0) :=
  fun _ _ _ => ⟨_, _, _, _, rfl, by decide⟩
theorem vlog2 : ∀ x0, Statement (.vlog2 x0) :=
  fun _ _ _ => ⟨_, _, _, _, rfl, by decide⟩
theorem vgkey : ∀ x0 x1 x2, Statement (.vgkey x0 x1 x2) :=
  fun _ _ _ _ _ => ⟨_, _, _, _, rfl, by decide⟩
theorem vcvt : ∀ x0 x1 x2 x3 x4, Statement (.vcvt x0 x1 x2 x3 x4) :=
  fun _ _ _ _ _ _ _ => ⟨_, _, _, _, rfl, by decide⟩
theorem vcbdec : ∀ x0 x1 x2 x3 x4 x5 x6 x7 x8, Statement (.vcbdec x0 x1 x2 x3 x4 x5 x6 x7 x8) :=
  fun _ _ _ _ _ _ _ _ _ _ _ => ⟨_, _, _, _, rfl, by decide⟩
theorem vscale : ∀ x0 x1, Statement (.vscale x0 x1) :=
  fun _ _ _ _ => ⟨_, _, _, _, rfl, by decide⟩
theorem vtlu : ∀ x0 x1, Statement (.vtlu x0 x1) :=
  fun _ _ _ _ => ⟨_, _, _, _, rfl, by decide⟩
theorem vrot : ∀ x0 x1 x2, Statement (.vrot x0 x1 x2) :=
  fun _ _ _ _ _ => ⟨_, _, _, _, rfl, by decide⟩
theorem vshuf : ∀ x0 x1 x2, Statement (.vshuf x0 x1 x2) :=
  fun _ _ _ _ _ => ⟨_, _, _, _, rfl, by decide⟩
theorem vredsum : ∀ x0 x1, Statement (.vredsum x0 x1) :=
  fun _ _ _ _ => ⟨_, _, _, _, rfl, by decide⟩
theorem vredmax : ∀ x0, Statement (.vredmax x0) :=
  fun _ _ _ => ⟨_, _, _, _, rfl, by decide⟩
theorem vredmin : ∀ x0, Statement (.vredmin x0) :=
  fun _ _ _ => ⟨_, _, _, _, rfl, by decide⟩
theorem vmaxi : ∀ x0, Statement (.vmaxi x0) :=
  fun _ _ _ => ⟨_, _, _, _, rfl, by decide⟩
theorem vmini : ∀ x0, Statement (.vmini x0) :=
  fun _ _ _ => ⟨_, _, _, _, rfl, by decide⟩
theorem vdot : ∀ x0 x1 x2 x3 x4 x5 x6 x7 x8, Statement (.vdot x0 x1 x2 x3 x4 x5 x6 x7 x8) :=
  fun _ _ _ _ _ _ _ _ _ _ _ => ⟨_, _, _, _, rfl, by decide⟩
theorem tld : ∀ x0 x1 x2 x3, Statement (.tld x0 x1 x2 x3) :=
  fun _ _ _ _ _ _ => ⟨_, _, _, _, rfl, by decide⟩
theorem tew : ∀ x0 x1 x2 x3 x4 x5, Statement (.tew x0 x1 x2 x3 x4 x5) :=
  fun _ _ _ _ _ _ _ _ => ⟨_, _, _, _, rfl, by decide⟩
theorem tews : ∀ x0 x1 x2 x3 x4 x5, Statement (.tews x0 x1 x2 x3 x4 x5) :=
  fun _ _ _ _ _ _ _ _ => ⟨_, _, _, _, rfl, by decide⟩
theorem tfn : ∀ x0 x1 x2 x3, Statement (.tfn x0 x1 x2 x3) :=
  fun _ _ _ _ _ _ => ⟨_, _, _, _, rfl, by decide⟩
theorem tmap : ∀ x0 x1 x2 x3, Statement (.tmap x0 x1 x2 x3) :=
  fun _ _ _ _ _ _ => ⟨_, _, _, _, rfl, by decide⟩
theorem tcvt : ∀ x0 x1 x2 x3 x4 x5, Statement (.tcvt x0 x1 x2 x3 x4 x5) :=
  fun _ _ _ _ _ _ _ _ => ⟨_, _, _, _, rfl, by decide⟩
theorem tmma : ∀ x0 x1 x2 x3 x4 x5 x6, Statement (.tmma x0 x1 x2 x3 x4 x5 x6) :=
  fun _ _ _ _ _ _ _ _ _ => ⟨_, _, _, _, rfl, by decide⟩
theorem tst : ∀ x0 x1 x2 x3 x4, Statement (.tst x0 x1 x2 x3 x4) :=
  fun _ _ _ _ _ _ _ => ⟨_, _, _, _, rfl, by decide⟩
theorem tforce : ∀ x0 x1 x2, Statement (.tforce x0 x1 x2) :=
  fun _ _ _ _ _ => ⟨_, _, _, _, rfl, by decide⟩
theorem tforceLink : ∀ x0 x1 x2, Statement (.tforceLink x0 x1 x2) :=
  fun _ _ _ _ _ => ⟨_, _, _, _, rfl, by decide⟩
theorem tdrop : ∀ x0 x1, Statement (.tdrop x0 x1) :=
  fun _ _ _ _ => ⟨_, _, _, _, rfl, by decide⟩
theorem tmov : ∀ x0 x1 x2, Statement (.tmov x0 x1 x2) :=
  fun _ _ _ _ _ => ⟨_, _, _, _, rfl, by decide⟩
theorem chclose : ∀ x0 x1 x2, Statement (.chclose x0 x1 x2) :=
  fun _ _ _ _ _ => ⟨_, _, _, _, rfl, by decide⟩
theorem lds : ∀ x0 x1 x2 x3 x4, Statement (.lds x0 x1 x2 x3 x4) :=
  fun _ _ _ _ _ _ _ => ⟨_, _, _, _, rfl, by decide⟩
theorem vld : ∀ x0 x1 x2 x3 x4, Statement (.vld x0 x1 x2 x3 x4) :=
  fun _ _ _ _ _ _ _ => ⟨_, _, _, _, rfl, by decide⟩
theorem vldl : ∀ x0 x1 x2 x3, Statement (.vldl x0 x1 x2 x3) :=
  fun _ _ _ _ _ _ => ⟨_, _, _, _, rfl, by decide⟩
theorem vgth : ∀ x0 x1 x2 x3 x4, Statement (.vgth x0 x1 x2 x3 x4) :=
  fun _ _ _ _ _ _ _ => ⟨_, _, _, _, rfl, by decide⟩
theorem vldb : ∀ x0 x1 x2 x3, Statement (.vldb x0 x1 x2 x3) :=
  fun _ _ _ _ _ _ => ⟨_, _, _, _, rfl, by decide⟩
theorem ldg : ∀ x0 x1 x2 x3 x4, Statement (.ldg x0 x1 x2 x3 x4) :=
  fun _ _ _ _ _ _ _ => ⟨_, _, _, _, rfl, by decide⟩
theorem sts : ∀ x0 x1 x2 x3, Statement (.sts x0 x1 x2 x3) :=
  fun _ _ _ _ _ _ => ⟨_, _, _, _, rfl, by decide⟩
theorem vst : ∀ x0 x1 x2 x3 x4, Statement (.vst x0 x1 x2 x3 x4) :=
  fun _ _ _ _ _ _ _ => ⟨_, _, _, _, rfl, by decide⟩
theorem vstl : ∀ x0 x1 x2 x3, Statement (.vstl x0 x1 x2 x3) :=
  fun _ _ _ _ _ _ => ⟨_, _, _, _, rfl, by decide⟩
theorem vsct : ∀ x0 x1 x2 x3 x4, Statement (.vsct x0 x1 x2 x3 x4) :=
  fun _ _ _ _ _ _ _ => ⟨_, _, _, _, rfl, by decide⟩
theorem amol : ∀ x0, Statement (.amol x0) :=
  fun _ _ _ => ⟨_, _, _, _, rfl, by decide⟩
theorem stg : ∀ x0 x1 x2 x3 x4, Statement (.stg x0 x1 x2 x3 x4) :=
  fun _ _ _ _ _ _ _ => ⟨_, _, _, _, rfl, by decide⟩
theorem amo : ∀ x0 x1, Statement (.amo x0 x1) :=
  fun _ _ _ _ => ⟨_, _, _, _, rfl, by decide⟩
theorem red : ∀ x0 x1 x2 x3 x4, Statement (.red x0 x1 x2 x3 x4) :=
  fun _ _ _ _ _ _ _ => ⟨_, _, _, _, rfl, by decide⟩
theorem cpy : ∀ x0, Statement (.cpy x0) :=
  fun _ _ _ => ⟨_, _, _, _, rfl, by decide⟩
theorem subs : ∀ x0 x1, Statement (.subs x0 x1) :=
  fun _ _ _ _ => ⟨_, _, _, _, rfl, by decide⟩
theorem unsub : ∀ x0 x1 x2 x3, Statement (.unsub x0 x1 x2 x3) :=
  fun _ _ _ _ _ _ => ⟨_, _, _, _, rfl, by decide⟩
theorem rrel : ∀ x0 x1 x2 x3 x4, Statement (.rrel x0 x1 x2 x3 x4) :=
  fun _ _ _ _ _ _ _ => ⟨_, _, _, _, rfl, by decide⟩
theorem rfin : ∀ x0 x1 x2 x3 x4, Statement (.rfin x0 x1 x2 x3 x4) :=
  fun _ _ _ _ _ _ _ => ⟨_, _, _, _, rfl, by decide⟩
theorem strb : ∀ x0 x1, Statement (.strb x0 x1) :=
  fun _ _ _ _ => ⟨_, _, _, _, rfl, by decide⟩
theorem stru : ∀ x0 x1 x2 x3, Statement (.stru x0 x1 x2 x3) :=
  fun _ _ _ _ _ _ => ⟨_, _, _, _, rfl, by decide⟩
theorem qfence : ∀ x0 x1 x2 x3, Statement (.qfence x0 x1 x2 x3) :=
  fun _ _ _ _ _ _ => ⟨_, _, _, _, rfl, by decide⟩
theorem cttset : ∀ x0 x1 x2, Statement (.cttset x0 x1 x2) :=
  fun _ _ _ _ _ => ⟨_, _, _, _, rfl, by decide⟩
theorem cttrdy : ∀ x0 x1 x2 x3, Statement (.cttrdy x0 x1 x2 x3) :=
  fun _ _ _ _ _ _ => ⟨_, _, _, _, rfl, by decide⟩
theorem cttrdyQ : ∀ x0 x1 x2, Statement (.cttrdyQ x0 x1 x2) :=
  fun _ _ _ _ _ => ⟨_, _, _, _, rfl, by decide⟩
theorem chbuild : ∀ x0 x1, Statement (.chbuild x0 x1) :=
  fun _ _ _ _ => ⟨_, _, _, _, rfl, by decide⟩
theorem chsplice : ∀ x0 x1 x2, Statement (.chsplice x0 x1 x2) :=
  fun _ _ _ _ _ => ⟨_, _, _, _, rfl, by decide⟩
theorem chresume : ∀ x0, Statement (.chresume x0) :=
  fun _ _ _ => ⟨_, _, _, _, rfl, by decide⟩
theorem chfree : ∀ x0, Statement (.chfree x0) :=
  fun _ _ _ => ⟨_, _, _, _, rfl, by decide⟩
theorem gload : ∀ x0 x1 x2, Statement (.gload x0 x1 x2) :=
  fun _ _ _ _ _ => ⟨_, _, _, _, rfl, by decide⟩
theorem gstep : ∀ x0, Statement (.gstep x0) :=
  fun _ _ _ => ⟨_, _, _, _, rfl, by decide⟩
theorem gmask : ∀ x0 x1 x2 x3, Statement (.gmask x0 x1 x2 x3) :=
  fun _ _ _ _ _ _ => ⟨_, _, _, _, rfl, by decide⟩
theorem fence : ∀ x0 x1 x2 x3, Statement (.fence x0 x1 x2 x3) :=
  fun _ _ _ _ _ _ => ⟨_, _, _, _, rfl, by decide⟩
theorem waitT : ∀ x0 x1 x2, Statement (.waitT x0 x1 x2) :=
  fun _ _ _ _ _ => ⟨_, _, _, _, rfl, by decide⟩
theorem waitGe : ∀ x0 x1 x2 x3, Statement (.waitGe x0 x1 x2 x3) :=
  fun _ _ _ _ _ _ => ⟨_, _, _, _, rfl, by decide⟩
theorem signal : ∀ x0 x1 x2, Statement (.signal x0 x1 x2) :=
  fun _ _ _ _ _ => ⟨_, _, _, _, rfl, by decide⟩
theorem bar : ∀ x0 x1 x2, Statement (.bar x0 x1 x2) :=
  fun _ _ _ _ _ => ⟨_, _, _, _, rfl, by decide⟩
theorem barSet : ∀ x0 x1 x2, Statement (.barSet x0 x1 x2) :=
  fun _ _ _ _ _ => ⟨_, _, _, _, rfl, by decide⟩
theorem spawn : ∀ x0 x1 x2, Statement (.spawn x0 x1 x2) :=
  fun _ _ _ _ _ => ⟨_, _, _, _, rfl, by decide⟩
theorem yield : ∀ x0, Statement (.yield x0) :=
  fun _ _ _ => ⟨_, _, _, _, rfl, by decide⟩
theorem halt : ∀ x0, Statement (.halt x0) :=
  fun _ _ _ => ⟨_, _, _, _, rfl, by decide⟩
theorem trap : ∀ x0 x1 x2, Statement (.trap x0 x1 x2) :=
  fun _ _ _ _ _ => ⟨_, _, _, _, rfl, by decide⟩
theorem tret : ∀ x0, Statement (.tret x0) :=
  fun _ _ _ => ⟨_, _, _, _, rfl, by decide⟩
theorem cret : ∀ x0, Statement (.cret x0) :=
  fun _ _ _ => ⟨_, _, _, _, rfl, by decide⟩
theorem rds : ∀ x0 x1 x2, Statement (.rds x0 x1 x2) :=
  fun _ _ _ _ _ => ⟨_, _, _, _, rfl, by decide⟩
theorem wrs : ∀ x0 x1 x2, Statement (.wrs x0 x1 x2) :=
  fun _ _ _ _ _ => ⟨_, _, _, _, rfl, by decide⟩
theorem chstat : ∀ x0 x1 x2 x3, Statement (.chstat x0 x1 x2 x3) :=
  fun _ _ _ _ _ _ => ⟨_, _, _, _, rfl, by decide⟩
theorem chstatSlot : ∀ x0 x1 x2, Statement (.chstatSlot x0 x1 x2) :=
  fun _ _ _ _ _ => ⟨_, _, _, _, rfl, by decide⟩
theorem tidset : ∀ x0 x1 x2, Statement (.tidset x0 x1 x2) :=
  fun _ _ _ _ _ => ⟨_, _, _, _, rfl, by decide⟩
theorem tidsetInv : ∀ x0 x1, Statement (.tidsetInv x0 x1) :=
  fun _ _ _ _ => ⟨_, _, _, _, rfl, by decide⟩
theorem tidsetCb : ∀ x0 x1 x2, Statement (.tidsetCb x0 x1 x2) :=
  fun _ _ _ _ _ => ⟨_, _, _, _, rfl, by decide⟩
theorem frwait : ∀ x0 x1, Statement (.frwait x0 x1) :=
  fun _ _ _ _ => ⟨_, _, _, _, rfl, by decide⟩
theorem frwaitFrame : ∀ x0 x1, Statement (.frwaitFrame x0 x1) :=
  fun _ _ _ _ => ⟨_, _, _, _, rfl, by decide⟩
theorem cancel : ∀ x0 x1, Statement (.cancel x0 x1) :=
  fun _ _ _ _ => ⟨_, _, _, _, rfl, by decide⟩
theorem bundleIssue : Statement .bundleIssue :=
  fun h => nomatch h
theorem resultDelivery : ∀ x0, Statement (.resultDelivery x0) :=
  fun _ h => nomatch h
theorem userTrapEntry : ∀ x0, Statement (.userTrapEntry x0) :=
  fun _ h => nomatch h
theorem firmwareTrapDelivery : ∀ x0, Statement (.firmwareTrapDelivery x0) :=
  fun _ h => nomatch h
theorem cueTaken : ∀ x0, Statement (.cueTaken x0) :=
  fun _ h => nomatch h
theorem preEmption : ∀ x0, Statement (.preEmption x0) :=
  fun _ h => nomatch h
theorem taskResume : ∀ x0, Statement (.taskResume x0) :=
  fun _ h => nomatch h
theorem taskPlacement : ∀ x0, Statement (.taskPlacement x0) :=
  fun _ h => nomatch h
theorem primarySwitch : ∀ x0, Statement (.primarySwitch x0) :=
  fun _ h => nomatch h
theorem secondaryPromotion : ∀ x0, Statement (.secondaryPromotion x0) :=
  fun _ h => nomatch h
theorem dueCountEngineWait : ∀ x0, Statement (.dueCountEngineWait x0) :=
  fun _ h => nomatch h
theorem pinExpiry : ∀ x0 x1, Statement (.pinExpiry x0 x1) :=
  fun _ _ h => nomatch h
theorem asyncTrapDelivery : ∀ x0, Statement (.asyncTrapDelivery x0) :=
  fun _ h => nomatch h
theorem ctxcmdResume : ∀ x0, Statement (.ctxcmdResume x0) :=
  fun _ h => nomatch h
theorem ctxcmdDeliver : ∀ x0 x1, Statement (.ctxcmdDeliver x0 x1) :=
  fun _ _ h => nomatch h
theorem ctxcmdDiscard : ∀ x0, Statement (.ctxcmdDiscard x0) :=
  fun _ h => nomatch h
theorem faultRingRecord : ∀ x0, Statement (.faultRingRecord x0) :=
  fun _ h => nomatch h
theorem firmwareRegisterWrite : ∀ x0 x1 x2, Statement (.firmwareRegisterWrite x0 x1 x2) :=
  fun _ _ _ h => nomatch h
theorem migClear : ∀ x0 x1, Statement (.migClear x0 x1) :=
  fun _ _ h => nomatch h
theorem admitJob : ∀ x0 x1 x2 x3, Statement (.admitJob x0 x1 x2 x3) :=
  fun _ _ _ _ h => nomatch h
theorem jobCapture : ∀ x0, Statement (.jobCapture x0) :=
  fun _ h => nomatch h
theorem memberCapture : ∀ x0, Statement (.memberCapture x0) :=
  fun _ h => nomatch h
theorem jobCompletionRound : ∀ x0 x1, Statement (.jobCompletionRound x0 x1) :=
  fun _ _ h => nomatch h
theorem spawnReceive : ∀ x0, Statement (.spawnReceive x0) :=
  fun _ h => nomatch h
theorem spawnAck : ∀ x0, Statement (.spawnAck x0) :=
  fun _ h => nomatch h
theorem cancelPacket : ∀ x0, Statement (.cancelPacket x0) :=
  fun _ h => nomatch h
theorem callSheetRelease : ∀ x0 x1, Statement (.callSheetRelease x0 x1) :=
  fun _ _ h => nomatch h
theorem frameStart : ∀ x0 x1, Statement (.frameStart x0 x1) :=
  fun _ _ h => nomatch h
theorem retirementReport : ∀ x0, Statement (.retirementReport x0) :=
  fun _ h => nomatch h
theorem frameStartMessage : ∀ x0, Statement (.frameStartMessage x0) :=
  fun _ h => nomatch h
theorem engineOperationStart : ∀ x0 x1, Statement (.engineOperationStart x0 x1) :=
  fun _ _ h => nomatch h
theorem engineOperationCompletion : ∀ x0 x1, Statement (.engineOperationCompletion x0 x1) :=
  fun _ _ h => nomatch h
theorem copyFault : ∀ x0, Statement (.copyFault x0) :=
  fun _ h => nomatch h
theorem enginePageFault : ∀ x0 x1, Statement (.enginePageFault x0 x1) :=
  fun _ _ h => nomatch h
theorem subscriptionFill : ∀ x0 x1, Statement (.subscriptionFill x0 x1) :=
  fun _ _ h => nomatch h
theorem storerWrite : ∀ x0 x1, Statement (.storerWrite x0 x1) :=
  fun _ _ h => nomatch h
theorem ringFault : ∀ x0 x1, Statement (.ringFault x0 x1) :=
  fun _ _ h => nomatch h
theorem streamPrefetch : ∀ x0 x1, Statement (.streamPrefetch x0 x1) :=
  fun _ _ h => nomatch h
theorem streamPushPerform : ∀ x0 x1, Statement (.streamPushPerform x0 x1) :=
  fun _ _ h => nomatch h
theorem streamElementFault : ∀ x0 x1, Statement (.streamElementFault x0 x1) :=
  fun _ _ h => nomatch h
theorem randomWordGeneration : ∀ x0, Statement (.randomWordGeneration x0) :=
  fun _ h => nomatch h
theorem tokenBucketRefill : ∀ x0, Statement (.tokenBucketRefill x0) :=
  fun _ h => nomatch h
theorem transientRead : ∀ x0, Statement (.transientRead x0) :=
  fun _ h => nomatch h
theorem transientWrite : ∀ x0, Statement (.transientWrite x0) :=
  fun _ h => nomatch h
theorem attemptTimeout : ∀ x0 x1, Statement (.attemptTimeout x0 x1) :=
  fun _ _ h => nomatch h
theorem forwardedRead : ∀ x0, Statement (.forwardedRead x0) :=
  fun _ h => nomatch h
theorem forwardedWrite : ∀ x0, Statement (.forwardedWrite x0) :=
  fun _ h => nomatch h
theorem activation : ∀ x0, Statement (.activation x0) :=
  fun _ h => nomatch h
theorem deactivation : ∀ x0, Statement (.deactivation x0) :=
  fun _ h => nomatch h
theorem holderTokensArrive : ∀ x0, Statement (.holderTokensArrive x0) :=
  fun _ h => nomatch h
theorem homeTokensArrive : ∀ x0, Statement (.homeTokensArrive x0) :=
  fun _ h => nomatch h
theorem eviction : ∀ x0 x1, Statement (.eviction x0 x1) :=
  fun _ _ h => nomatch h
theorem belayRequest : ∀ x0, Statement (.belayRequest x0) :=
  fun _ h => nomatch h
theorem belayCompletion : ∀ x0, Statement (.belayCompletion x0) :=
  fun _ h => nomatch h
theorem deactivationAcknowledged : ∀ x0, Statement (.deactivationAcknowledged x0) :=
  fun _ h => nomatch h
theorem updateJoin : ∀ x0, Statement (.updateJoin x0) :=
  fun _ h => nomatch h
theorem updateMerge : ∀ x0, Statement (.updateMerge x0) :=
  fun _ h => nomatch h
theorem updateBufferEviction : ∀ x0, Statement (.updateBufferEviction x0) :=
  fun _ h => nomatch h
theorem forcedMerge : ∀ x0 x1, Statement (.forcedMerge x0 x1) :=
  fun _ _ h => nomatch h
theorem tlbInvalidation : ∀ x0 x1 x2 x3, Statement (.tlbInvalidation x0 x1 x2 x3) :=
  fun _ _ _ _ h => nomatch h
theorem pageTableWalk : ∀ x0 x1 x2, Statement (.pageTableWalk x0 x1 x2) :=
  fun _ _ _ h => nomatch h
theorem dieShutdown : ∀ x0, Statement (.dieShutdown x0) :=
  fun _ h => nomatch h
theorem packageMachineCheck : ∀ x0 x1, Statement (.packageMachineCheck x0 x1) :=
  fun _ _ h => nomatch h
theorem contextStateError : ∀ x0, Statement (.contextStateError x0) :=
  fun _ h => nomatch h
theorem panelForce : ∀ x0 x1 x2, Statement (.panelForce x0 x1 x2) :=
  fun _ _ _ h => nomatch h
theorem tstStoreWrite : ∀ x0 x1, Statement (.tstStoreWrite x0 x1) :=
  fun _ _ h => nomatch h
theorem heldDemandProceed : ∀ x0 x1, Statement (.heldDemandProceed x0 x1) :=
  fun _ _ h => nomatch h
theorem linkBinding : ∀ x0 x1 x2, Statement (.linkBinding x0 x1 x2) :=
  fun _ _ _ h => nomatch h
theorem linkAdvance : ∀ x0 x1, Statement (.linkAdvance x0 x1) :=
  fun _ _ h => nomatch h
theorem hopArrival : ∀ x0, Statement (.hopArrival x0) :=
  fun _ h => nomatch h
theorem chainFreeze : ∀ x0 x1, Statement (.chainFreeze x0 x1) :=
  fun _ _ h => nomatch h
theorem closeDone : ∀ x0 x1, Statement (.closeDone x0 x1) :=
  fun _ _ h => nomatch h
theorem collectiveFiring : ∀ x0 x1, Statement (.collectiveFiring x0 x1) :=
  fun _ _ h => nomatch h
theorem peerWrite : ∀ x0 x1, Statement (.peerWrite x0 x1) :=
  fun _ _ h => nomatch h
theorem firingCompletion : ∀ x0 x1, Statement (.firingCompletion x0 x1) :=
  fun _ _ h => nomatch h
theorem deadlineReached : ∀ x0 x1, Statement (.deadlineReached x0 x1) :=
  fun _ _ h => nomatch h
theorem deadlineNotice : ∀ x0, Statement (.deadlineNotice x0) :=
  fun _ h => nomatch h
theorem packageUnreachable : ∀ x0, Statement (.packageUnreachable x0) :=
  fun _ h => nomatch h
theorem flitRetransmit : ∀ x0 x1 x2, Statement (.flitRetransmit x0 x1 x2) :=
  fun _ _ _ h => nomatch h
theorem frameCounterSync : ∀ x0 x1, Statement (.frameCounterSync x0 x1) :=
  fun _ _ h => nomatch h
theorem hostCxlAccess : ∀ x0 x1 x2, Statement (.hostCxlAccess x0 x1 x2) :=
  fun _ _ _ h => nomatch h
theorem boot : ∀ x0 x1 x2 x3 x4, Statement (.boot x0 x1 x2 x3 x4) :=
  fun _ _ _ _ _ h => nomatch h
theorem getVersion : ∀ x0, Statement (.getVersion x0) :=
  fun _ h => nomatch h
theorem getCapabilities : ∀ x0, Statement (.getCapabilities x0) :=
  fun _ h => nomatch h
theorem negotiateAlgorithms : ∀ x0, Statement (.negotiateAlgorithms x0) :=
  fun _ h => nomatch h
theorem getDigests : ∀ x0, Statement (.getDigests x0) :=
  fun _ h => nomatch h
theorem getCertificate : ∀ x0 x1, Statement (.getCertificate x0 x1) :=
  fun _ _ h => nomatch h
theorem challenge : ∀ x0 x1, Statement (.challenge x0 x1) :=
  fun _ _ h => nomatch h
theorem getMeasurements : ∀ x0 x1, Statement (.getMeasurements x0 x1) :=
  fun _ _ h => nomatch h
theorem pldmMonitoring : ∀ x0, Statement (.pldmMonitoring x0) :=
  fun _ h => nomatch h
theorem pldmFirmwareUpdate : ∀ x0 x1, Statement (.pldmFirmwareUpdate x0 x1) :=
  fun _ _ h => nomatch h
theorem packageResetRequest : ∀ x0, Statement (.packageResetRequest x0) :=
  fun _ h => nomatch h
theorem powerCap : ∀ x0 x1, Statement (.powerCap x0 x1) :=
  fun _ _ h => nomatch h
theorem thermalShutdown : ∀ x0 x1, Statement (.thermalShutdown x0 x1) :=
  fun _ _ h => nomatch h
theorem packageReset : ∀ x0, Statement (.packageReset x0) :=
  fun _ h => nomatch h
theorem hostFunctionReset : ∀ x0, Statement (.hostFunctionReset x0) :=
  fun _ h => nomatch h
theorem linkPortReset : ∀ x0 x1, Statement (.linkPortReset x0 x1) :=
  fun _ _ h => nomatch h
theorem sidebandReset : ∀ x0, Statement (.sidebandReset x0) :=
  fun _ h => nomatch h

end Sys2Proof.Laws.Coded
end

