-- ==== Sys2Proof/Laws/State.lean ====
section
/-! SUPPORT. One lemma per field for each update of the device and of a context, so that no proof unfolds a record update. -/

namespace Sys2Proof.Machine

@[simp] theorem Dev.setCtx_npkg (d : Dev) (c : Nat) (k : Ctx) : (d.setCtx c k).npkg = d.npkg := rfl
@[simp] theorem Dev.setCtx_bridge (d : Dev) (c : Nat) (k : Ctx) : (d.setCtx c k).bridge = d.bridge := rfl
@[simp] theorem Dev.setCtx_cxl (d : Dev) (c : Nat) (k : Ctx) : (d.setCtx c k).cxl = d.cxl := rfl
@[simp] theorem Dev.setCtx_caps (d : Dev) (c : Nat) (k : Ctx) : (d.setCtx c k).caps = d.caps := rfl
@[simp] theorem Dev.setCtx_pageVa (d : Dev) (c : Nat) (k : Ctx) : (d.setCtx c k).pageVa = d.pageVa := rfl
@[simp] theorem Dev.setCtx_disabled (d : Dev) (c : Nat) (k : Ctx) : (d.setCtx c k).disabled = d.disabled := rfl
@[simp] theorem Dev.setCtx_cycle (d : Dev) (c : Nat) (k : Ctx) : (d.setCtx c k).cycle = d.cycle := rfl
@[simp] theorem Dev.setCtx_cores (d : Dev) (c : Nat) (k : Ctx) : (d.setCtx c k).cores = d.cores := rfl
@[simp] theorem Dev.setCtx_vpool (d : Dev) (c : Nat) (k : Ctx) : (d.setCtx c k).vpool = d.vpool := rfl
@[simp] theorem Dev.setCtx_cbt (d : Dev) (c : Nat) (k : Ctx) : (d.setCtx c k).cbt = d.cbt := rfl
@[simp] theorem Dev.setCtx_slots (d : Dev) (c : Nat) (k : Ctx) : (d.setCtx c k).slots = d.slots := rfl
@[simp] theorem Dev.setCtx_barriers (d : Dev) (c : Nat) (k : Ctx) : (d.setCtx c k).barriers = d.barriers := rfl
@[simp] theorem Dev.setCtx_dies (d : Dev) (c : Nat) (k : Ctx) : (d.setCtx c k).dies = d.dies := rfl
@[simp] theorem Dev.setCtx_gmem (d : Dev) (c : Nat) (k : Ctx) : (d.setCtx c k).gmem = d.gmem := rfl
@[simp] theorem Dev.setCtx_spad (d : Dev) (c : Nat) (k : Ctx) : (d.setCtx c k).spad = d.spad := rfl
@[simp] theorem Dev.setCtx_lanes (d : Dev) (c : Nat) (k : Ctx) : (d.setCtx c k).lanes = d.lanes := rfl
@[simp] theorem Dev.setCtx_dspad (d : Dev) (c : Nat) (k : Ctx) : (d.setCtx c k).dspad = d.dspad := rfl
@[simp] theorem Dev.setCtx_badLines (d : Dev) (c : Nat) (k : Ctx) : (d.setCtx c k).badLines = d.badLines := rfl
@[simp] theorem Dev.setCtx_badBlocks (d : Dev) (c : Nat) (k : Ctx) : (d.setCtx c k).badBlocks = d.badBlocks := rfl
@[simp] theorem Dev.setCtx_badSpad (d : Dev) (c : Nat) (k : Ctx) : (d.setCtx c k).badSpad = d.badSpad := rfl
@[simp] theorem Dev.setCtx_badLane (d : Dev) (c : Nat) (k : Ctx) : (d.setCtx c k).badLane = d.badLane := rfl
@[simp] theorem Dev.setCtx_badDie (d : Dev) (c : Nat) (k : Ctx) : (d.setCtx c k).badDie = d.badDie := rfl
@[simp] theorem Dev.setCtx_badCtx (d : Dev) (c : Nat) (k : Ctx) : (d.setCtx c k).badCtx = d.badCtx := rfl
@[simp] theorem Dev.setCtx_holders (d : Dev) (c : Nat) (k : Ctx) : (d.setCtx c k).holders = d.holders := rfl
@[simp] theorem Dev.setCtx_homes (d : Dev) (c : Nat) (k : Ctx) : (d.setCtx c k).homes = d.homes := rfl
@[simp] theorem Dev.setCtx_updOrder (d : Dev) (c : Nat) (k : Ctx) : (d.setCtx c k).updOrder = d.updOrder := rfl
@[simp] theorem Dev.setCtx_comp (d : Dev) (c : Nat) (k : Ctx) : (d.setCtx c k).comp = d.comp := rfl
@[simp] theorem Dev.setCtx_regions (d : Dev) (c : Nat) (k : Ctx) : (d.setCtx c k).regions = d.regions := rfl
@[simp] theorem Dev.setCtx_pkgs (d : Dev) (c : Nat) (k : Ctx) : (d.setCtx c k).pkgs = d.pkgs := rfl
@[simp] theorem Dev.setCtx_jobs (d : Dev) (c : Nat) (k : Ctx) : (d.setCtx c k).jobs = d.jobs := rfl
@[simp] theorem Dev.setCtx_chains (d : Dev) (c : Nat) (k : Ctx) : (d.setCtx c k).chains = d.chains := rfl
@[simp] theorem Dev.setCtx_gens (d : Dev) (c : Nat) (k : Ctx) : (d.setCtx c k).gens = d.gens := rfl
@[simp] theorem Dev.setCtx_spilled (d : Dev) (c : Nat) (k : Ctx) : (d.setCtx c k).spilled = d.spilled := rfl
@[simp] theorem Dev.setCtx_msgs (d : Dev) (c : Nat) (k : Ctx) : (d.setCtx c k).msgs = d.msgs := rfl
@[simp] theorem Dev.setCtx_free (d : Dev) (c : Nat) (k : Ctx) : (d.setCtx c k).free = d.free := rfl
@[simp] theorem Dev.setCtx_ctxs (d : Dev) (c : Nat) (k : Ctx) : (d.setCtx c k).ctxs = d.ctxs.set c k := rfl
@[simp] theorem Dev.updCtx_npkg (d : Dev) (c : Nat) (f : Ctx → Ctx) : (d.updCtx c f).npkg = d.npkg := rfl
@[simp] theorem Dev.updCtx_bridge (d : Dev) (c : Nat) (f : Ctx → Ctx) : (d.updCtx c f).bridge = d.bridge := rfl
@[simp] theorem Dev.updCtx_cxl (d : Dev) (c : Nat) (f : Ctx → Ctx) : (d.updCtx c f).cxl = d.cxl := rfl
@[simp] theorem Dev.updCtx_caps (d : Dev) (c : Nat) (f : Ctx → Ctx) : (d.updCtx c f).caps = d.caps := rfl
@[simp] theorem Dev.updCtx_pageVa (d : Dev) (c : Nat) (f : Ctx → Ctx) : (d.updCtx c f).pageVa = d.pageVa := rfl
@[simp] theorem Dev.updCtx_disabled (d : Dev) (c : Nat) (f : Ctx → Ctx) : (d.updCtx c f).disabled = d.disabled := rfl
@[simp] theorem Dev.updCtx_cycle (d : Dev) (c : Nat) (f : Ctx → Ctx) : (d.updCtx c f).cycle = d.cycle := rfl
@[simp] theorem Dev.updCtx_cores (d : Dev) (c : Nat) (f : Ctx → Ctx) : (d.updCtx c f).cores = d.cores := rfl
@[simp] theorem Dev.updCtx_vpool (d : Dev) (c : Nat) (f : Ctx → Ctx) : (d.updCtx c f).vpool = d.vpool := rfl
@[simp] theorem Dev.updCtx_cbt (d : Dev) (c : Nat) (f : Ctx → Ctx) : (d.updCtx c f).cbt = d.cbt := rfl
@[simp] theorem Dev.updCtx_slots (d : Dev) (c : Nat) (f : Ctx → Ctx) : (d.updCtx c f).slots = d.slots := rfl
@[simp] theorem Dev.updCtx_barriers (d : Dev) (c : Nat) (f : Ctx → Ctx) : (d.updCtx c f).barriers = d.barriers := rfl
@[simp] theorem Dev.updCtx_dies (d : Dev) (c : Nat) (f : Ctx → Ctx) : (d.updCtx c f).dies = d.dies := rfl
@[simp] theorem Dev.updCtx_gmem (d : Dev) (c : Nat) (f : Ctx → Ctx) : (d.updCtx c f).gmem = d.gmem := rfl
@[simp] theorem Dev.updCtx_spad (d : Dev) (c : Nat) (f : Ctx → Ctx) : (d.updCtx c f).spad = d.spad := rfl
@[simp] theorem Dev.updCtx_lanes (d : Dev) (c : Nat) (f : Ctx → Ctx) : (d.updCtx c f).lanes = d.lanes := rfl
@[simp] theorem Dev.updCtx_dspad (d : Dev) (c : Nat) (f : Ctx → Ctx) : (d.updCtx c f).dspad = d.dspad := rfl
@[simp] theorem Dev.updCtx_badLines (d : Dev) (c : Nat) (f : Ctx → Ctx) : (d.updCtx c f).badLines = d.badLines := rfl
@[simp] theorem Dev.updCtx_badBlocks (d : Dev) (c : Nat) (f : Ctx → Ctx) : (d.updCtx c f).badBlocks = d.badBlocks := rfl
@[simp] theorem Dev.updCtx_badSpad (d : Dev) (c : Nat) (f : Ctx → Ctx) : (d.updCtx c f).badSpad = d.badSpad := rfl
@[simp] theorem Dev.updCtx_badLane (d : Dev) (c : Nat) (f : Ctx → Ctx) : (d.updCtx c f).badLane = d.badLane := rfl
@[simp] theorem Dev.updCtx_badDie (d : Dev) (c : Nat) (f : Ctx → Ctx) : (d.updCtx c f).badDie = d.badDie := rfl
@[simp] theorem Dev.updCtx_badCtx (d : Dev) (c : Nat) (f : Ctx → Ctx) : (d.updCtx c f).badCtx = d.badCtx := rfl
@[simp] theorem Dev.updCtx_holders (d : Dev) (c : Nat) (f : Ctx → Ctx) : (d.updCtx c f).holders = d.holders := rfl
@[simp] theorem Dev.updCtx_homes (d : Dev) (c : Nat) (f : Ctx → Ctx) : (d.updCtx c f).homes = d.homes := rfl
@[simp] theorem Dev.updCtx_updOrder (d : Dev) (c : Nat) (f : Ctx → Ctx) : (d.updCtx c f).updOrder = d.updOrder := rfl
@[simp] theorem Dev.updCtx_comp (d : Dev) (c : Nat) (f : Ctx → Ctx) : (d.updCtx c f).comp = d.comp := rfl
@[simp] theorem Dev.updCtx_regions (d : Dev) (c : Nat) (f : Ctx → Ctx) : (d.updCtx c f).regions = d.regions := rfl
@[simp] theorem Dev.updCtx_pkgs (d : Dev) (c : Nat) (f : Ctx → Ctx) : (d.updCtx c f).pkgs = d.pkgs := rfl
@[simp] theorem Dev.updCtx_jobs (d : Dev) (c : Nat) (f : Ctx → Ctx) : (d.updCtx c f).jobs = d.jobs := rfl
@[simp] theorem Dev.updCtx_chains (d : Dev) (c : Nat) (f : Ctx → Ctx) : (d.updCtx c f).chains = d.chains := rfl
@[simp] theorem Dev.updCtx_gens (d : Dev) (c : Nat) (f : Ctx → Ctx) : (d.updCtx c f).gens = d.gens := rfl
@[simp] theorem Dev.updCtx_spilled (d : Dev) (c : Nat) (f : Ctx → Ctx) : (d.updCtx c f).spilled = d.spilled := rfl
@[simp] theorem Dev.updCtx_msgs (d : Dev) (c : Nat) (f : Ctx → Ctx) : (d.updCtx c f).msgs = d.msgs := rfl
@[simp] theorem Dev.updCtx_free (d : Dev) (c : Nat) (f : Ctx → Ctx) : (d.updCtx c f).free = d.free := rfl
@[simp] theorem Dev.updPkg_npkg (d : Dev) (p : Nat) (f : Pkg → Pkg) : (d.updPkg p f).npkg = d.npkg := rfl
@[simp] theorem Dev.updPkg_bridge (d : Dev) (p : Nat) (f : Pkg → Pkg) : (d.updPkg p f).bridge = d.bridge := rfl
@[simp] theorem Dev.updPkg_cxl (d : Dev) (p : Nat) (f : Pkg → Pkg) : (d.updPkg p f).cxl = d.cxl := rfl
@[simp] theorem Dev.updPkg_caps (d : Dev) (p : Nat) (f : Pkg → Pkg) : (d.updPkg p f).caps = d.caps := rfl
@[simp] theorem Dev.updPkg_pageVa (d : Dev) (p : Nat) (f : Pkg → Pkg) : (d.updPkg p f).pageVa = d.pageVa := rfl
@[simp] theorem Dev.updPkg_disabled (d : Dev) (p : Nat) (f : Pkg → Pkg) : (d.updPkg p f).disabled = d.disabled := rfl
@[simp] theorem Dev.updPkg_cycle (d : Dev) (p : Nat) (f : Pkg → Pkg) : (d.updPkg p f).cycle = d.cycle := rfl
@[simp] theorem Dev.updPkg_ctxs (d : Dev) (p : Nat) (f : Pkg → Pkg) : (d.updPkg p f).ctxs = d.ctxs := rfl
@[simp] theorem Dev.updPkg_cores (d : Dev) (p : Nat) (f : Pkg → Pkg) : (d.updPkg p f).cores = d.cores := rfl
@[simp] theorem Dev.updPkg_vpool (d : Dev) (p : Nat) (f : Pkg → Pkg) : (d.updPkg p f).vpool = d.vpool := rfl
@[simp] theorem Dev.updPkg_cbt (d : Dev) (p : Nat) (f : Pkg → Pkg) : (d.updPkg p f).cbt = d.cbt := rfl
@[simp] theorem Dev.updPkg_slots (d : Dev) (p : Nat) (f : Pkg → Pkg) : (d.updPkg p f).slots = d.slots := rfl
@[simp] theorem Dev.updPkg_barriers (d : Dev) (p : Nat) (f : Pkg → Pkg) : (d.updPkg p f).barriers = d.barriers := rfl
@[simp] theorem Dev.updPkg_dies (d : Dev) (p : Nat) (f : Pkg → Pkg) : (d.updPkg p f).dies = d.dies := rfl
@[simp] theorem Dev.updPkg_gmem (d : Dev) (p : Nat) (f : Pkg → Pkg) : (d.updPkg p f).gmem = d.gmem := rfl
@[simp] theorem Dev.updPkg_spad (d : Dev) (p : Nat) (f : Pkg → Pkg) : (d.updPkg p f).spad = d.spad := rfl
@[simp] theorem Dev.updPkg_lanes (d : Dev) (p : Nat) (f : Pkg → Pkg) : (d.updPkg p f).lanes = d.lanes := rfl
@[simp] theorem Dev.updPkg_dspad (d : Dev) (p : Nat) (f : Pkg → Pkg) : (d.updPkg p f).dspad = d.dspad := rfl
@[simp] theorem Dev.updPkg_badLines (d : Dev) (p : Nat) (f : Pkg → Pkg) : (d.updPkg p f).badLines = d.badLines := rfl
@[simp] theorem Dev.updPkg_badBlocks (d : Dev) (p : Nat) (f : Pkg → Pkg) : (d.updPkg p f).badBlocks = d.badBlocks := rfl
@[simp] theorem Dev.updPkg_badSpad (d : Dev) (p : Nat) (f : Pkg → Pkg) : (d.updPkg p f).badSpad = d.badSpad := rfl
@[simp] theorem Dev.updPkg_badLane (d : Dev) (p : Nat) (f : Pkg → Pkg) : (d.updPkg p f).badLane = d.badLane := rfl
@[simp] theorem Dev.updPkg_badDie (d : Dev) (p : Nat) (f : Pkg → Pkg) : (d.updPkg p f).badDie = d.badDie := rfl
@[simp] theorem Dev.updPkg_badCtx (d : Dev) (p : Nat) (f : Pkg → Pkg) : (d.updPkg p f).badCtx = d.badCtx := rfl
@[simp] theorem Dev.updPkg_holders (d : Dev) (p : Nat) (f : Pkg → Pkg) : (d.updPkg p f).holders = d.holders := rfl
@[simp] theorem Dev.updPkg_homes (d : Dev) (p : Nat) (f : Pkg → Pkg) : (d.updPkg p f).homes = d.homes := rfl
@[simp] theorem Dev.updPkg_updOrder (d : Dev) (p : Nat) (f : Pkg → Pkg) : (d.updPkg p f).updOrder = d.updOrder := rfl
@[simp] theorem Dev.updPkg_comp (d : Dev) (p : Nat) (f : Pkg → Pkg) : (d.updPkg p f).comp = d.comp := rfl
@[simp] theorem Dev.updPkg_regions (d : Dev) (p : Nat) (f : Pkg → Pkg) : (d.updPkg p f).regions = d.regions := rfl
@[simp] theorem Dev.updPkg_jobs (d : Dev) (p : Nat) (f : Pkg → Pkg) : (d.updPkg p f).jobs = d.jobs := rfl
@[simp] theorem Dev.updPkg_chains (d : Dev) (p : Nat) (f : Pkg → Pkg) : (d.updPkg p f).chains = d.chains := rfl
@[simp] theorem Dev.updPkg_gens (d : Dev) (p : Nat) (f : Pkg → Pkg) : (d.updPkg p f).gens = d.gens := rfl
@[simp] theorem Dev.updPkg_spilled (d : Dev) (p : Nat) (f : Pkg → Pkg) : (d.updPkg p f).spilled = d.spilled := rfl
@[simp] theorem Dev.updPkg_msgs (d : Dev) (p : Nat) (f : Pkg → Pkg) : (d.updPkg p f).msgs = d.msgs := rfl
@[simp] theorem Dev.updPkg_free (d : Dev) (p : Nat) (f : Pkg → Pkg) : (d.updPkg p f).free = d.free := rfl
@[simp] theorem Dev.updJob_npkg (d : Dev) (p j : Nat) (f : Job → Job) : (d.updJob p j f).npkg = d.npkg := rfl
@[simp] theorem Dev.updJob_bridge (d : Dev) (p j : Nat) (f : Job → Job) : (d.updJob p j f).bridge = d.bridge := rfl
@[simp] theorem Dev.updJob_cxl (d : Dev) (p j : Nat) (f : Job → Job) : (d.updJob p j f).cxl = d.cxl := rfl
@[simp] theorem Dev.updJob_caps (d : Dev) (p j : Nat) (f : Job → Job) : (d.updJob p j f).caps = d.caps := rfl
@[simp] theorem Dev.updJob_pageVa (d : Dev) (p j : Nat) (f : Job → Job) : (d.updJob p j f).pageVa = d.pageVa := rfl
@[simp] theorem Dev.updJob_disabled (d : Dev) (p j : Nat) (f : Job → Job) : (d.updJob p j f).disabled = d.disabled := rfl
@[simp] theorem Dev.updJob_cycle (d : Dev) (p j : Nat) (f : Job → Job) : (d.updJob p j f).cycle = d.cycle := rfl
@[simp] theorem Dev.updJob_ctxs (d : Dev) (p j : Nat) (f : Job → Job) : (d.updJob p j f).ctxs = d.ctxs := rfl
@[simp] theorem Dev.updJob_cores (d : Dev) (p j : Nat) (f : Job → Job) : (d.updJob p j f).cores = d.cores := rfl
@[simp] theorem Dev.updJob_vpool (d : Dev) (p j : Nat) (f : Job → Job) : (d.updJob p j f).vpool = d.vpool := rfl
@[simp] theorem Dev.updJob_cbt (d : Dev) (p j : Nat) (f : Job → Job) : (d.updJob p j f).cbt = d.cbt := rfl
@[simp] theorem Dev.updJob_slots (d : Dev) (p j : Nat) (f : Job → Job) : (d.updJob p j f).slots = d.slots := rfl
@[simp] theorem Dev.updJob_barriers (d : Dev) (p j : Nat) (f : Job → Job) : (d.updJob p j f).barriers = d.barriers := rfl
@[simp] theorem Dev.updJob_dies (d : Dev) (p j : Nat) (f : Job → Job) : (d.updJob p j f).dies = d.dies := rfl
@[simp] theorem Dev.updJob_gmem (d : Dev) (p j : Nat) (f : Job → Job) : (d.updJob p j f).gmem = d.gmem := rfl
@[simp] theorem Dev.updJob_spad (d : Dev) (p j : Nat) (f : Job → Job) : (d.updJob p j f).spad = d.spad := rfl
@[simp] theorem Dev.updJob_lanes (d : Dev) (p j : Nat) (f : Job → Job) : (d.updJob p j f).lanes = d.lanes := rfl
@[simp] theorem Dev.updJob_dspad (d : Dev) (p j : Nat) (f : Job → Job) : (d.updJob p j f).dspad = d.dspad := rfl
@[simp] theorem Dev.updJob_badLines (d : Dev) (p j : Nat) (f : Job → Job) : (d.updJob p j f).badLines = d.badLines := rfl
@[simp] theorem Dev.updJob_badBlocks (d : Dev) (p j : Nat) (f : Job → Job) : (d.updJob p j f).badBlocks = d.badBlocks := rfl
@[simp] theorem Dev.updJob_badSpad (d : Dev) (p j : Nat) (f : Job → Job) : (d.updJob p j f).badSpad = d.badSpad := rfl
@[simp] theorem Dev.updJob_badLane (d : Dev) (p j : Nat) (f : Job → Job) : (d.updJob p j f).badLane = d.badLane := rfl
@[simp] theorem Dev.updJob_badDie (d : Dev) (p j : Nat) (f : Job → Job) : (d.updJob p j f).badDie = d.badDie := rfl
@[simp] theorem Dev.updJob_badCtx (d : Dev) (p j : Nat) (f : Job → Job) : (d.updJob p j f).badCtx = d.badCtx := rfl
@[simp] theorem Dev.updJob_holders (d : Dev) (p j : Nat) (f : Job → Job) : (d.updJob p j f).holders = d.holders := rfl
@[simp] theorem Dev.updJob_homes (d : Dev) (p j : Nat) (f : Job → Job) : (d.updJob p j f).homes = d.homes := rfl
@[simp] theorem Dev.updJob_updOrder (d : Dev) (p j : Nat) (f : Job → Job) : (d.updJob p j f).updOrder = d.updOrder := rfl
@[simp] theorem Dev.updJob_comp (d : Dev) (p j : Nat) (f : Job → Job) : (d.updJob p j f).comp = d.comp := rfl
@[simp] theorem Dev.updJob_regions (d : Dev) (p j : Nat) (f : Job → Job) : (d.updJob p j f).regions = d.regions := rfl
@[simp] theorem Dev.updJob_pkgs (d : Dev) (p j : Nat) (f : Job → Job) : (d.updJob p j f).pkgs = d.pkgs := rfl
@[simp] theorem Dev.updJob_chains (d : Dev) (p j : Nat) (f : Job → Job) : (d.updJob p j f).chains = d.chains := rfl
@[simp] theorem Dev.updJob_gens (d : Dev) (p j : Nat) (f : Job → Job) : (d.updJob p j f).gens = d.gens := rfl
@[simp] theorem Dev.updJob_spilled (d : Dev) (p j : Nat) (f : Job → Job) : (d.updJob p j f).spilled = d.spilled := rfl
@[simp] theorem Dev.updJob_msgs (d : Dev) (p j : Nat) (f : Job → Job) : (d.updJob p j f).msgs = d.msgs := rfl
@[simp] theorem Dev.updJob_free (d : Dev) (p j : Nat) (f : Job → Job) : (d.updJob p j f).free = d.free := rfl
@[simp] theorem noteIssue_npkg (d : Dev) (c : Nat) (ws : List Word) : (noteIssue d c ws).npkg = d.npkg := rfl
@[simp] theorem noteIssue_bridge (d : Dev) (c : Nat) (ws : List Word) : (noteIssue d c ws).bridge = d.bridge := rfl
@[simp] theorem noteIssue_cxl (d : Dev) (c : Nat) (ws : List Word) : (noteIssue d c ws).cxl = d.cxl := rfl
@[simp] theorem noteIssue_caps (d : Dev) (c : Nat) (ws : List Word) : (noteIssue d c ws).caps = d.caps := rfl
@[simp] theorem noteIssue_pageVa (d : Dev) (c : Nat) (ws : List Word) : (noteIssue d c ws).pageVa = d.pageVa := rfl
@[simp] theorem noteIssue_disabled (d : Dev) (c : Nat) (ws : List Word) : (noteIssue d c ws).disabled = d.disabled := rfl
@[simp] theorem noteIssue_cycle (d : Dev) (c : Nat) (ws : List Word) : (noteIssue d c ws).cycle = d.cycle := rfl
@[simp] theorem noteIssue_ctxs (d : Dev) (c : Nat) (ws : List Word) : (noteIssue d c ws).ctxs = d.ctxs := rfl
@[simp] theorem noteIssue_vpool (d : Dev) (c : Nat) (ws : List Word) : (noteIssue d c ws).vpool = d.vpool := rfl
@[simp] theorem noteIssue_cbt (d : Dev) (c : Nat) (ws : List Word) : (noteIssue d c ws).cbt = d.cbt := rfl
@[simp] theorem noteIssue_slots (d : Dev) (c : Nat) (ws : List Word) : (noteIssue d c ws).slots = d.slots := rfl
@[simp] theorem noteIssue_barriers (d : Dev) (c : Nat) (ws : List Word) : (noteIssue d c ws).barriers = d.barriers := rfl
@[simp] theorem noteIssue_dies (d : Dev) (c : Nat) (ws : List Word) : (noteIssue d c ws).dies = d.dies := rfl
@[simp] theorem noteIssue_gmem (d : Dev) (c : Nat) (ws : List Word) : (noteIssue d c ws).gmem = d.gmem := rfl
@[simp] theorem noteIssue_spad (d : Dev) (c : Nat) (ws : List Word) : (noteIssue d c ws).spad = d.spad := rfl
@[simp] theorem noteIssue_lanes (d : Dev) (c : Nat) (ws : List Word) : (noteIssue d c ws).lanes = d.lanes := rfl
@[simp] theorem noteIssue_dspad (d : Dev) (c : Nat) (ws : List Word) : (noteIssue d c ws).dspad = d.dspad := rfl
@[simp] theorem noteIssue_badLines (d : Dev) (c : Nat) (ws : List Word) : (noteIssue d c ws).badLines = d.badLines := rfl
@[simp] theorem noteIssue_badBlocks (d : Dev) (c : Nat) (ws : List Word) : (noteIssue d c ws).badBlocks = d.badBlocks := rfl
@[simp] theorem noteIssue_badSpad (d : Dev) (c : Nat) (ws : List Word) : (noteIssue d c ws).badSpad = d.badSpad := rfl
@[simp] theorem noteIssue_badLane (d : Dev) (c : Nat) (ws : List Word) : (noteIssue d c ws).badLane = d.badLane := rfl
@[simp] theorem noteIssue_badDie (d : Dev) (c : Nat) (ws : List Word) : (noteIssue d c ws).badDie = d.badDie := rfl
@[simp] theorem noteIssue_badCtx (d : Dev) (c : Nat) (ws : List Word) : (noteIssue d c ws).badCtx = d.badCtx := rfl
@[simp] theorem noteIssue_holders (d : Dev) (c : Nat) (ws : List Word) : (noteIssue d c ws).holders = d.holders := rfl
@[simp] theorem noteIssue_homes (d : Dev) (c : Nat) (ws : List Word) : (noteIssue d c ws).homes = d.homes := rfl
@[simp] theorem noteIssue_updOrder (d : Dev) (c : Nat) (ws : List Word) : (noteIssue d c ws).updOrder = d.updOrder := rfl
@[simp] theorem noteIssue_comp (d : Dev) (c : Nat) (ws : List Word) : (noteIssue d c ws).comp = d.comp := rfl
@[simp] theorem noteIssue_regions (d : Dev) (c : Nat) (ws : List Word) : (noteIssue d c ws).regions = d.regions := rfl
@[simp] theorem noteIssue_pkgs (d : Dev) (c : Nat) (ws : List Word) : (noteIssue d c ws).pkgs = d.pkgs := rfl
@[simp] theorem noteIssue_jobs (d : Dev) (c : Nat) (ws : List Word) : (noteIssue d c ws).jobs = d.jobs := rfl
@[simp] theorem noteIssue_chains (d : Dev) (c : Nat) (ws : List Word) : (noteIssue d c ws).chains = d.chains := rfl
@[simp] theorem noteIssue_gens (d : Dev) (c : Nat) (ws : List Word) : (noteIssue d c ws).gens = d.gens := rfl
@[simp] theorem noteIssue_spilled (d : Dev) (c : Nat) (ws : List Word) : (noteIssue d c ws).spilled = d.spilled := rfl
@[simp] theorem noteIssue_msgs (d : Dev) (c : Nat) (ws : List Word) : (noteIssue d c ws).msgs = d.msgs := rfl
@[simp] theorem noteIssue_free (d : Dev) (c : Nat) (ws : List Word) : (noteIssue d c ws).free = d.free := rfl
@[simp] theorem addEntry_npkg (d : Dev) (c : Nat) (e : Entry) : (addEntry d c e).npkg = d.npkg := rfl
@[simp] theorem addEntry_bridge (d : Dev) (c : Nat) (e : Entry) : (addEntry d c e).bridge = d.bridge := rfl
@[simp] theorem addEntry_cxl (d : Dev) (c : Nat) (e : Entry) : (addEntry d c e).cxl = d.cxl := rfl
@[simp] theorem addEntry_caps (d : Dev) (c : Nat) (e : Entry) : (addEntry d c e).caps = d.caps := rfl
@[simp] theorem addEntry_pageVa (d : Dev) (c : Nat) (e : Entry) : (addEntry d c e).pageVa = d.pageVa := rfl
@[simp] theorem addEntry_disabled (d : Dev) (c : Nat) (e : Entry) : (addEntry d c e).disabled = d.disabled := rfl
@[simp] theorem addEntry_cycle (d : Dev) (c : Nat) (e : Entry) : (addEntry d c e).cycle = d.cycle := rfl
@[simp] theorem addEntry_cores (d : Dev) (c : Nat) (e : Entry) : (addEntry d c e).cores = d.cores := rfl
@[simp] theorem addEntry_vpool (d : Dev) (c : Nat) (e : Entry) : (addEntry d c e).vpool = d.vpool := rfl
@[simp] theorem addEntry_cbt (d : Dev) (c : Nat) (e : Entry) : (addEntry d c e).cbt = d.cbt := rfl
@[simp] theorem addEntry_slots (d : Dev) (c : Nat) (e : Entry) : (addEntry d c e).slots = d.slots := rfl
@[simp] theorem addEntry_barriers (d : Dev) (c : Nat) (e : Entry) : (addEntry d c e).barriers = d.barriers := rfl
@[simp] theorem addEntry_dies (d : Dev) (c : Nat) (e : Entry) : (addEntry d c e).dies = d.dies := rfl
@[simp] theorem addEntry_gmem (d : Dev) (c : Nat) (e : Entry) : (addEntry d c e).gmem = d.gmem := rfl
@[simp] theorem addEntry_spad (d : Dev) (c : Nat) (e : Entry) : (addEntry d c e).spad = d.spad := rfl
@[simp] theorem addEntry_lanes (d : Dev) (c : Nat) (e : Entry) : (addEntry d c e).lanes = d.lanes := rfl
@[simp] theorem addEntry_dspad (d : Dev) (c : Nat) (e : Entry) : (addEntry d c e).dspad = d.dspad := rfl
@[simp] theorem addEntry_badLines (d : Dev) (c : Nat) (e : Entry) : (addEntry d c e).badLines = d.badLines := rfl
@[simp] theorem addEntry_badBlocks (d : Dev) (c : Nat) (e : Entry) : (addEntry d c e).badBlocks = d.badBlocks := rfl
@[simp] theorem addEntry_badSpad (d : Dev) (c : Nat) (e : Entry) : (addEntry d c e).badSpad = d.badSpad := rfl
@[simp] theorem addEntry_badLane (d : Dev) (c : Nat) (e : Entry) : (addEntry d c e).badLane = d.badLane := rfl
@[simp] theorem addEntry_badDie (d : Dev) (c : Nat) (e : Entry) : (addEntry d c e).badDie = d.badDie := rfl
@[simp] theorem addEntry_badCtx (d : Dev) (c : Nat) (e : Entry) : (addEntry d c e).badCtx = d.badCtx := rfl
@[simp] theorem addEntry_holders (d : Dev) (c : Nat) (e : Entry) : (addEntry d c e).holders = d.holders := rfl
@[simp] theorem addEntry_homes (d : Dev) (c : Nat) (e : Entry) : (addEntry d c e).homes = d.homes := rfl
@[simp] theorem addEntry_updOrder (d : Dev) (c : Nat) (e : Entry) : (addEntry d c e).updOrder = d.updOrder := rfl
@[simp] theorem addEntry_comp (d : Dev) (c : Nat) (e : Entry) : (addEntry d c e).comp = d.comp := rfl
@[simp] theorem addEntry_regions (d : Dev) (c : Nat) (e : Entry) : (addEntry d c e).regions = d.regions := rfl
@[simp] theorem addEntry_pkgs (d : Dev) (c : Nat) (e : Entry) : (addEntry d c e).pkgs = d.pkgs := rfl
@[simp] theorem addEntry_jobs (d : Dev) (c : Nat) (e : Entry) : (addEntry d c e).jobs = d.jobs := rfl
@[simp] theorem addEntry_chains (d : Dev) (c : Nat) (e : Entry) : (addEntry d c e).chains = d.chains := rfl
@[simp] theorem addEntry_gens (d : Dev) (c : Nat) (e : Entry) : (addEntry d c e).gens = d.gens := rfl
@[simp] theorem addEntry_spilled (d : Dev) (c : Nat) (e : Entry) : (addEntry d c e).spilled = d.spilled := rfl
@[simp] theorem addEntry_msgs (d : Dev) (c : Nat) (e : Entry) : (addEntry d c e).msgs = d.msgs := rfl
@[simp] theorem addEntry_free (d : Dev) (c : Nat) (e : Entry) : (addEntry d c e).free = d.free := rfl
@[simp] theorem addRecord_npkg (d : Dev) (p : Nat) (r : FRec) : (addRecord d p r).npkg = d.npkg := rfl
@[simp] theorem addRecord_bridge (d : Dev) (p : Nat) (r : FRec) : (addRecord d p r).bridge = d.bridge := rfl
@[simp] theorem addRecord_cxl (d : Dev) (p : Nat) (r : FRec) : (addRecord d p r).cxl = d.cxl := rfl
@[simp] theorem addRecord_caps (d : Dev) (p : Nat) (r : FRec) : (addRecord d p r).caps = d.caps := rfl
@[simp] theorem addRecord_pageVa (d : Dev) (p : Nat) (r : FRec) : (addRecord d p r).pageVa = d.pageVa := rfl
@[simp] theorem addRecord_disabled (d : Dev) (p : Nat) (r : FRec) : (addRecord d p r).disabled = d.disabled := rfl
@[simp] theorem addRecord_cycle (d : Dev) (p : Nat) (r : FRec) : (addRecord d p r).cycle = d.cycle := rfl
@[simp] theorem addRecord_ctxs (d : Dev) (p : Nat) (r : FRec) : (addRecord d p r).ctxs = d.ctxs := rfl
@[simp] theorem addRecord_cores (d : Dev) (p : Nat) (r : FRec) : (addRecord d p r).cores = d.cores := rfl
@[simp] theorem addRecord_vpool (d : Dev) (p : Nat) (r : FRec) : (addRecord d p r).vpool = d.vpool := rfl
@[simp] theorem addRecord_cbt (d : Dev) (p : Nat) (r : FRec) : (addRecord d p r).cbt = d.cbt := rfl
@[simp] theorem addRecord_slots (d : Dev) (p : Nat) (r : FRec) : (addRecord d p r).slots = d.slots := rfl
@[simp] theorem addRecord_barriers (d : Dev) (p : Nat) (r : FRec) : (addRecord d p r).barriers = d.barriers := rfl
@[simp] theorem addRecord_dies (d : Dev) (p : Nat) (r : FRec) : (addRecord d p r).dies = d.dies := rfl
@[simp] theorem addRecord_gmem (d : Dev) (p : Nat) (r : FRec) : (addRecord d p r).gmem = d.gmem := rfl
@[simp] theorem addRecord_spad (d : Dev) (p : Nat) (r : FRec) : (addRecord d p r).spad = d.spad := rfl
@[simp] theorem addRecord_lanes (d : Dev) (p : Nat) (r : FRec) : (addRecord d p r).lanes = d.lanes := rfl
@[simp] theorem addRecord_dspad (d : Dev) (p : Nat) (r : FRec) : (addRecord d p r).dspad = d.dspad := rfl
@[simp] theorem addRecord_badLines (d : Dev) (p : Nat) (r : FRec) : (addRecord d p r).badLines = d.badLines := rfl
@[simp] theorem addRecord_badBlocks (d : Dev) (p : Nat) (r : FRec) : (addRecord d p r).badBlocks = d.badBlocks := rfl
@[simp] theorem addRecord_badSpad (d : Dev) (p : Nat) (r : FRec) : (addRecord d p r).badSpad = d.badSpad := rfl
@[simp] theorem addRecord_badLane (d : Dev) (p : Nat) (r : FRec) : (addRecord d p r).badLane = d.badLane := rfl
@[simp] theorem addRecord_badDie (d : Dev) (p : Nat) (r : FRec) : (addRecord d p r).badDie = d.badDie := rfl
@[simp] theorem addRecord_badCtx (d : Dev) (p : Nat) (r : FRec) : (addRecord d p r).badCtx = d.badCtx := rfl
@[simp] theorem addRecord_holders (d : Dev) (p : Nat) (r : FRec) : (addRecord d p r).holders = d.holders := rfl
@[simp] theorem addRecord_homes (d : Dev) (p : Nat) (r : FRec) : (addRecord d p r).homes = d.homes := rfl
@[simp] theorem addRecord_updOrder (d : Dev) (p : Nat) (r : FRec) : (addRecord d p r).updOrder = d.updOrder := rfl
@[simp] theorem addRecord_comp (d : Dev) (p : Nat) (r : FRec) : (addRecord d p r).comp = d.comp := rfl
@[simp] theorem addRecord_regions (d : Dev) (p : Nat) (r : FRec) : (addRecord d p r).regions = d.regions := rfl
@[simp] theorem addRecord_jobs (d : Dev) (p : Nat) (r : FRec) : (addRecord d p r).jobs = d.jobs := rfl
@[simp] theorem addRecord_chains (d : Dev) (p : Nat) (r : FRec) : (addRecord d p r).chains = d.chains := rfl
@[simp] theorem addRecord_gens (d : Dev) (p : Nat) (r : FRec) : (addRecord d p r).gens = d.gens := rfl
@[simp] theorem addRecord_spilled (d : Dev) (p : Nat) (r : FRec) : (addRecord d p r).spilled = d.spilled := rfl
@[simp] theorem addRecord_msgs (d : Dev) (p : Nat) (r : FRec) : (addRecord d p r).msgs = d.msgs := rfl
@[simp] theorem addRecord_free (d : Dev) (p : Nat) (r : FRec) : (addRecord d p r).free = d.free := rfl
@[simp] theorem Ctx.setSpr_cond (k : Ctx) (n : Nat) (v : Word) : (k.setSpr n v).cond = k.cond := rfl
@[simp] theorem Ctx.setSpr_bclk (k : Ctx) (n : Nat) (v : Word) : (k.setSpr n v).bclk = k.bclk := rfl
@[simp] theorem Ctx.setSpr_pc (k : Ctx) (n : Nat) (v : Word) : (k.setSpr n v).pc = k.pc := rfl
@[simp] theorem Ctx.setSpr_hs (k : Ctx) (n : Nat) (v : Word) : (k.setSpr n v).hs = k.hs := rfl
@[simp] theorem Ctx.setSpr_sreg (k : Ctx) (n : Nat) (v : Word) : (k.setSpr n v).sreg = k.sreg := rfl
@[simp] theorem Ctx.setSpr_preg (k : Ctx) (n : Nat) (v : Word) : (k.setSpr n v).preg = k.preg := rfl
@[simp] theorem Ctx.setSpr_la (k : Ctx) (n : Nat) (v : Word) : (k.setSpr n v).la = k.la := rfl
@[simp] theorem Ctx.setSpr_lb (k : Ctx) (n : Nat) (v : Word) : (k.setSpr n v).lb = k.lb := rfl
@[simp] theorem Ctx.setSpr_ll (k : Ctx) (n : Nat) (v : Word) : (k.setSpr n v).ll = k.ll := rfl
@[simp] theorem Ctx.setSpr_streams (k : Ctx) (n : Nat) (v : Word) : (k.setSpr n v).streams = k.streams := rfl
@[simp] theorem Ctx.setSpr_names (k : Ctx) (n : Nat) (v : Word) : (k.setSpr n v).names = k.names := rfl
@[simp] theorem Ctx.setSpr_tids (k : Ctx) (n : Nat) (v : Word) : (k.setSpr n v).tids = k.tids := rfl
@[simp] theorem Ctx.setSpr_infl (k : Ctx) (n : Nat) (v : Word) : (k.setSpr n v).infl = k.infl := rfl
@[simp] theorem Ctx.setSpr_gTrap (k : Ctx) (n : Nat) (v : Word) : (k.setSpr n v).gTrap = k.gTrap := rfl
@[simp] theorem Ctx.setSpr_gCue (k : Ctx) (n : Nat) (v : Word) : (k.setSpr n v).gCue = k.gCue := rfl
@[simp] theorem Ctx.setSpr_gSave (k : Ctx) (n : Nat) (v : Word) : (k.setSpr n v).gSave = k.gSave := rfl
@[simp] theorem Ctx.setSpr_post (k : Ctx) (n : Nat) (v : Word) : (k.setSpr n v).post = k.post := rfl
@[simp] theorem Ctx.setSpr_asyncs (k : Ctx) (n : Nat) (v : Word) : (k.setSpr n v).asyncs = k.asyncs := rfl
@[simp] theorem Ctx.setSpr_susp (k : Ctx) (n : Nat) (v : Word) : (k.setSpr n v).susp = k.susp := rfl
@[simp] theorem Ctx.setSpr_xfer (k : Ctx) (n : Nat) (v : Word) : (k.setSpr n v).xfer = k.xfer := rfl
@[simp] theorem Ctx.setSpr_gq (k : Ctx) (n : Nat) (v : Word) : (k.setSpr n v).gq = k.gq := rfl
@[simp] theorem Ctx.setSpr_failed (k : Ctx) (n : Nat) (v : Word) : (k.setSpr n v).failed = k.failed := rfl
@[simp] theorem Ctx.setSpr_nextTag (k : Ctx) (n : Nat) (v : Word) : (k.setSpr n v).nextTag = k.nextTag := rfl
@[simp] theorem Ctx.setSpr_rq (k : Ctx) (n : Nat) (v : Word) : (k.setSpr n v).rq = k.rq := rfl
@[simp] theorem Ctx.setSpr_queues (k : Ctx) (n : Nat) (v : Word) : (k.setSpr n v).queues = k.queues := rfl
@[simp] theorem Ctx.setSpr_tickets (k : Ctx) (n : Nat) (v : Word) : (k.setSpr n v).tickets = k.tickets := rfl
@[simp] theorem Ctx.setSpr_fences (k : Ctx) (n : Nat) (v : Word) : (k.setSpr n v).fences = k.fences := rfl
@[simp] theorem Ctx.setSpr_seq (k : Ctx) (n : Nat) (v : Word) : (k.setSpr n v).seq = k.seq := rfl
@[simp] theorem Ctx.setSpr_subs (k : Ctx) (n : Nat) (v : Word) : (k.setSpr n v).subs = k.subs := rfl
@[simp] theorem Ctx.setSpr_bktHbm (k : Ctx) (n : Nat) (v : Word) : (k.setSpr n v).bktHbm = k.bktHbm := rfl
@[simp] theorem Ctx.setSpr_reqs (k : Ctx) (n : Nat) (v : Word) : (k.setSpr n v).reqs = k.reqs := rfl
@[simp] theorem Ctx.setSpr_nodes (k : Ctx) (n : Nat) (v : Word) : (k.setSpr n v).nodes = k.nodes := rfl
@[simp] theorem Ctx.setSpr_demands (k : Ctx) (n : Nat) (v : Word) : (k.setSpr n v).demands = k.demands := rfl
@[simp] theorem Ctx.setSpr_holds (k : Ctx) (n : Nat) (v : Word) : (k.setSpr n v).holds = k.holds := rfl
@[simp] theorem Ctx.setSpr_aliased (k : Ctx) (n : Nat) (v : Word) : (k.setSpr n v).aliased = k.aliased := rfl
@[simp] theorem Ctx.setSpr_ctt (k : Ctx) (n : Nat) (v : Word) : (k.setSpr n v).ctt = k.ctt := rfl
@[simp] theorem Ctx.setSpr_pins (k : Ctx) (n : Nat) (v : Word) : (k.setSpr n v).pins = k.pins := rfl
@[simp] theorem Ctx.setSpr_barrier (k : Ctx) (n : Nat) (v : Word) : (k.setSpr n v).barrier = k.barrier := rfl
@[simp] theorem Ctx.setSpr_waiting (k : Ctx) (n : Nat) (v : Word) : (k.setSpr n v).waiting = k.waiting := rfl
@[simp] theorem Ctx.setSpr_dueStall (k : Ctx) (n : Nat) (v : Word) : (k.setSpr n v).dueStall = k.dueStall := rfl
@[simp] theorem Ctx.setSpr_task (k : Ctx) (n : Nat) (v : Word) : (k.setSpr n v).task = k.task := rfl
@[simp] theorem Ctx.setSpr_allot (k : Ctx) (n : Nat) (v : Word) : (k.setSpr n v).allot = k.allot := rfl
@[simp] theorem Ctx.setSpr_priv (k : Ctx) (n : Nat) (v : Word) : (k.setSpr n v).priv = k.priv := rfl
@[simp] theorem Ctx.setSpr_saveArea (k : Ctx) (n : Nat) (v : Word) : (k.setSpr n v).saveArea = k.saveArea := rfl
@[simp] theorem Ctx.setSpr_spilled (k : Ctx) (n : Nat) (v : Word) : (k.setSpr n v).spilled = k.spilled := rfl
@[simp] theorem Ctx.setSpr_vsave (k : Ctx) (n : Nat) (v : Word) : (k.setSpr n v).vsave = k.vsave := rfl
@[simp] theorem Ctx.setSpr_saveSeed (k : Ctx) (n : Nat) (v : Word) : (k.setSpr n v).saveSeed = k.saveSeed := rfl
@[simp] theorem Ctx.setSpr_serial (k : Ctx) (n : Nat) (v : Word) : (k.setSpr n v).serial = k.serial := rfl
@[simp] theorem Ctx.setSpr_spr (k : Ctx) (n : Nat) (v : Word) : (k.setSpr n v).spr = k.spr.set n v := rfl
@[simp] theorem Ctx.orFpstat_cond (k : Ctx) (f : Flags) : (k.orFpstat f).cond = k.cond := rfl
@[simp] theorem Ctx.orFpstat_bclk (k : Ctx) (f : Flags) : (k.orFpstat f).bclk = k.bclk := rfl
@[simp] theorem Ctx.orFpstat_pc (k : Ctx) (f : Flags) : (k.orFpstat f).pc = k.pc := rfl
@[simp] theorem Ctx.orFpstat_hs (k : Ctx) (f : Flags) : (k.orFpstat f).hs = k.hs := rfl
@[simp] theorem Ctx.orFpstat_sreg (k : Ctx) (f : Flags) : (k.orFpstat f).sreg = k.sreg := rfl
@[simp] theorem Ctx.orFpstat_preg (k : Ctx) (f : Flags) : (k.orFpstat f).preg = k.preg := rfl
@[simp] theorem Ctx.orFpstat_la (k : Ctx) (f : Flags) : (k.orFpstat f).la = k.la := rfl
@[simp] theorem Ctx.orFpstat_lb (k : Ctx) (f : Flags) : (k.orFpstat f).lb = k.lb := rfl
@[simp] theorem Ctx.orFpstat_ll (k : Ctx) (f : Flags) : (k.orFpstat f).ll = k.ll := rfl
@[simp] theorem Ctx.orFpstat_streams (k : Ctx) (f : Flags) : (k.orFpstat f).streams = k.streams := rfl
@[simp] theorem Ctx.orFpstat_names (k : Ctx) (f : Flags) : (k.orFpstat f).names = k.names := rfl
@[simp] theorem Ctx.orFpstat_tids (k : Ctx) (f : Flags) : (k.orFpstat f).tids = k.tids := rfl
@[simp] theorem Ctx.orFpstat_infl (k : Ctx) (f : Flags) : (k.orFpstat f).infl = k.infl := rfl
@[simp] theorem Ctx.orFpstat_gTrap (k : Ctx) (f : Flags) : (k.orFpstat f).gTrap = k.gTrap := rfl
@[simp] theorem Ctx.orFpstat_gCue (k : Ctx) (f : Flags) : (k.orFpstat f).gCue = k.gCue := rfl
@[simp] theorem Ctx.orFpstat_gSave (k : Ctx) (f : Flags) : (k.orFpstat f).gSave = k.gSave := rfl
@[simp] theorem Ctx.orFpstat_post (k : Ctx) (f : Flags) : (k.orFpstat f).post = k.post := rfl
@[simp] theorem Ctx.orFpstat_asyncs (k : Ctx) (f : Flags) : (k.orFpstat f).asyncs = k.asyncs := rfl
@[simp] theorem Ctx.orFpstat_susp (k : Ctx) (f : Flags) : (k.orFpstat f).susp = k.susp := rfl
@[simp] theorem Ctx.orFpstat_xfer (k : Ctx) (f : Flags) : (k.orFpstat f).xfer = k.xfer := rfl
@[simp] theorem Ctx.orFpstat_gq (k : Ctx) (f : Flags) : (k.orFpstat f).gq = k.gq := rfl
@[simp] theorem Ctx.orFpstat_failed (k : Ctx) (f : Flags) : (k.orFpstat f).failed = k.failed := rfl
@[simp] theorem Ctx.orFpstat_nextTag (k : Ctx) (f : Flags) : (k.orFpstat f).nextTag = k.nextTag := rfl
@[simp] theorem Ctx.orFpstat_rq (k : Ctx) (f : Flags) : (k.orFpstat f).rq = k.rq := rfl
@[simp] theorem Ctx.orFpstat_queues (k : Ctx) (f : Flags) : (k.orFpstat f).queues = k.queues := rfl
@[simp] theorem Ctx.orFpstat_tickets (k : Ctx) (f : Flags) : (k.orFpstat f).tickets = k.tickets := rfl
@[simp] theorem Ctx.orFpstat_fences (k : Ctx) (f : Flags) : (k.orFpstat f).fences = k.fences := rfl
@[simp] theorem Ctx.orFpstat_seq (k : Ctx) (f : Flags) : (k.orFpstat f).seq = k.seq := rfl
@[simp] theorem Ctx.orFpstat_subs (k : Ctx) (f : Flags) : (k.orFpstat f).subs = k.subs := rfl
@[simp] theorem Ctx.orFpstat_bktHbm (k : Ctx) (f : Flags) : (k.orFpstat f).bktHbm = k.bktHbm := rfl
@[simp] theorem Ctx.orFpstat_reqs (k : Ctx) (f : Flags) : (k.orFpstat f).reqs = k.reqs := rfl
@[simp] theorem Ctx.orFpstat_nodes (k : Ctx) (f : Flags) : (k.orFpstat f).nodes = k.nodes := rfl
@[simp] theorem Ctx.orFpstat_demands (k : Ctx) (f : Flags) : (k.orFpstat f).demands = k.demands := rfl
@[simp] theorem Ctx.orFpstat_holds (k : Ctx) (f : Flags) : (k.orFpstat f).holds = k.holds := rfl
@[simp] theorem Ctx.orFpstat_aliased (k : Ctx) (f : Flags) : (k.orFpstat f).aliased = k.aliased := rfl
@[simp] theorem Ctx.orFpstat_ctt (k : Ctx) (f : Flags) : (k.orFpstat f).ctt = k.ctt := rfl
@[simp] theorem Ctx.orFpstat_pins (k : Ctx) (f : Flags) : (k.orFpstat f).pins = k.pins := rfl
@[simp] theorem Ctx.orFpstat_barrier (k : Ctx) (f : Flags) : (k.orFpstat f).barrier = k.barrier := rfl
@[simp] theorem Ctx.orFpstat_waiting (k : Ctx) (f : Flags) : (k.orFpstat f).waiting = k.waiting := rfl
@[simp] theorem Ctx.orFpstat_dueStall (k : Ctx) (f : Flags) : (k.orFpstat f).dueStall = k.dueStall := rfl
@[simp] theorem Ctx.orFpstat_task (k : Ctx) (f : Flags) : (k.orFpstat f).task = k.task := rfl
@[simp] theorem Ctx.orFpstat_allot (k : Ctx) (f : Flags) : (k.orFpstat f).allot = k.allot := rfl
@[simp] theorem Ctx.orFpstat_priv (k : Ctx) (f : Flags) : (k.orFpstat f).priv = k.priv := rfl
@[simp] theorem Ctx.orFpstat_saveArea (k : Ctx) (f : Flags) : (k.orFpstat f).saveArea = k.saveArea := rfl
@[simp] theorem Ctx.orFpstat_spilled (k : Ctx) (f : Flags) : (k.orFpstat f).spilled = k.spilled := rfl
@[simp] theorem Ctx.orFpstat_vsave (k : Ctx) (f : Flags) : (k.orFpstat f).vsave = k.vsave := rfl
@[simp] theorem Ctx.orFpstat_saveSeed (k : Ctx) (f : Flags) : (k.orFpstat f).saveSeed = k.saveSeed := rfl
@[simp] theorem Ctx.orFpstat_serial (k : Ctx) (f : Flags) : (k.orFpstat f).serial = k.serial := rfl
@[simp] theorem Ctx.invalidate_cond (k : Ctx) : (k.invalidate).cond = k.cond := rfl
@[simp] theorem Ctx.invalidate_bclk (k : Ctx) : (k.invalidate).bclk = k.bclk := rfl
@[simp] theorem Ctx.invalidate_pc (k : Ctx) : (k.invalidate).pc = k.pc := rfl
@[simp] theorem Ctx.invalidate_hs (k : Ctx) : (k.invalidate).hs = k.hs := rfl
@[simp] theorem Ctx.invalidate_sreg (k : Ctx) : (k.invalidate).sreg = k.sreg := rfl
@[simp] theorem Ctx.invalidate_preg (k : Ctx) : (k.invalidate).preg = k.preg := rfl
@[simp] theorem Ctx.invalidate_spr (k : Ctx) : (k.invalidate).spr = k.spr := rfl
@[simp] theorem Ctx.invalidate_streams (k : Ctx) : (k.invalidate).streams = k.streams := rfl
@[simp] theorem Ctx.invalidate_names (k : Ctx) : (k.invalidate).names = k.names := rfl
@[simp] theorem Ctx.invalidate_tids (k : Ctx) : (k.invalidate).tids = k.tids := rfl
@[simp] theorem Ctx.invalidate_infl (k : Ctx) : (k.invalidate).infl = k.infl := rfl
@[simp] theorem Ctx.invalidate_gTrap (k : Ctx) : (k.invalidate).gTrap = k.gTrap := rfl
@[simp] theorem Ctx.invalidate_gCue (k : Ctx) : (k.invalidate).gCue = k.gCue := rfl
@[simp] theorem Ctx.invalidate_gSave (k : Ctx) : (k.invalidate).gSave = k.gSave := rfl
@[simp] theorem Ctx.invalidate_post (k : Ctx) : (k.invalidate).post = k.post := rfl
@[simp] theorem Ctx.invalidate_asyncs (k : Ctx) : (k.invalidate).asyncs = k.asyncs := rfl
@[simp] theorem Ctx.invalidate_susp (k : Ctx) : (k.invalidate).susp = k.susp := rfl
@[simp] theorem Ctx.invalidate_xfer (k : Ctx) : (k.invalidate).xfer = k.xfer := rfl
@[simp] theorem Ctx.invalidate_gq (k : Ctx) : (k.invalidate).gq = k.gq := rfl
@[simp] theorem Ctx.invalidate_failed (k : Ctx) : (k.invalidate).failed = k.failed := rfl
@[simp] theorem Ctx.invalidate_nextTag (k : Ctx) : (k.invalidate).nextTag = k.nextTag := rfl
@[simp] theorem Ctx.invalidate_rq (k : Ctx) : (k.invalidate).rq = k.rq := rfl
@[simp] theorem Ctx.invalidate_queues (k : Ctx) : (k.invalidate).queues = k.queues := rfl
@[simp] theorem Ctx.invalidate_tickets (k : Ctx) : (k.invalidate).tickets = k.tickets := rfl
@[simp] theorem Ctx.invalidate_fences (k : Ctx) : (k.invalidate).fences = k.fences := rfl
@[simp] theorem Ctx.invalidate_seq (k : Ctx) : (k.invalidate).seq = k.seq := rfl
@[simp] theorem Ctx.invalidate_subs (k : Ctx) : (k.invalidate).subs = k.subs := rfl
@[simp] theorem Ctx.invalidate_bktHbm (k : Ctx) : (k.invalidate).bktHbm = k.bktHbm := rfl
@[simp] theorem Ctx.invalidate_reqs (k : Ctx) : (k.invalidate).reqs = k.reqs := rfl
@[simp] theorem Ctx.invalidate_nodes (k : Ctx) : (k.invalidate).nodes = k.nodes := rfl
@[simp] theorem Ctx.invalidate_demands (k : Ctx) : (k.invalidate).demands = k.demands := rfl
@[simp] theorem Ctx.invalidate_holds (k : Ctx) : (k.invalidate).holds = k.holds := rfl
@[simp] theorem Ctx.invalidate_aliased (k : Ctx) : (k.invalidate).aliased = k.aliased := rfl
@[simp] theorem Ctx.invalidate_ctt (k : Ctx) : (k.invalidate).ctt = k.ctt := rfl
@[simp] theorem Ctx.invalidate_pins (k : Ctx) : (k.invalidate).pins = k.pins := rfl
@[simp] theorem Ctx.invalidate_barrier (k : Ctx) : (k.invalidate).barrier = k.barrier := rfl
@[simp] theorem Ctx.invalidate_waiting (k : Ctx) : (k.invalidate).waiting = k.waiting := rfl
@[simp] theorem Ctx.invalidate_dueStall (k : Ctx) : (k.invalidate).dueStall = k.dueStall := rfl
@[simp] theorem Ctx.invalidate_task (k : Ctx) : (k.invalidate).task = k.task := rfl
@[simp] theorem Ctx.invalidate_allot (k : Ctx) : (k.invalidate).allot = k.allot := rfl
@[simp] theorem Ctx.invalidate_priv (k : Ctx) : (k.invalidate).priv = k.priv := rfl
@[simp] theorem Ctx.invalidate_saveArea (k : Ctx) : (k.invalidate).saveArea = k.saveArea := rfl
@[simp] theorem Ctx.invalidate_spilled (k : Ctx) : (k.invalidate).spilled = k.spilled := rfl
@[simp] theorem Ctx.invalidate_vsave (k : Ctx) : (k.invalidate).vsave = k.vsave := rfl
@[simp] theorem Ctx.invalidate_saveSeed (k : Ctx) : (k.invalidate).saveSeed = k.saveSeed := rfl
@[simp] theorem Ctx.invalidate_serial (k : Ctx) : (k.invalidate).serial = k.serial := rfl
@[simp] theorem Ctx.invalidate_la (k : Ctx) : k.invalidate.la = default := rfl
@[simp] theorem Ctx.invalidate_lb (k : Ctx) : k.invalidate.lb = default := rfl
@[simp] theorem Ctx.invalidate_ll (k : Ctx) : k.invalidate.ll = default := rfl
@[simp] theorem Ctx.withEntry_cond (k : Ctx) (e : Entry) : (k.withEntry e).cond = k.cond := rfl
@[simp] theorem Ctx.withEntry_bclk (k : Ctx) (e : Entry) : (k.withEntry e).bclk = k.bclk := rfl
@[simp] theorem Ctx.withEntry_pc (k : Ctx) (e : Entry) : (k.withEntry e).pc = k.pc := rfl
@[simp] theorem Ctx.withEntry_hs (k : Ctx) (e : Entry) : (k.withEntry e).hs = k.hs := rfl
@[simp] theorem Ctx.withEntry_sreg (k : Ctx) (e : Entry) : (k.withEntry e).sreg = k.sreg := rfl
@[simp] theorem Ctx.withEntry_preg (k : Ctx) (e : Entry) : (k.withEntry e).preg = k.preg := rfl
@[simp] theorem Ctx.withEntry_spr (k : Ctx) (e : Entry) : (k.withEntry e).spr = k.spr := rfl
@[simp] theorem Ctx.withEntry_la (k : Ctx) (e : Entry) : (k.withEntry e).la = k.la := rfl
@[simp] theorem Ctx.withEntry_lb (k : Ctx) (e : Entry) : (k.withEntry e).lb = k.lb := rfl
@[simp] theorem Ctx.withEntry_ll (k : Ctx) (e : Entry) : (k.withEntry e).ll = k.ll := rfl
@[simp] theorem Ctx.withEntry_streams (k : Ctx) (e : Entry) : (k.withEntry e).streams = k.streams := rfl
@[simp] theorem Ctx.withEntry_names (k : Ctx) (e : Entry) : (k.withEntry e).names = k.names := rfl
@[simp] theorem Ctx.withEntry_tids (k : Ctx) (e : Entry) : (k.withEntry e).tids = k.tids := rfl
@[simp] theorem Ctx.withEntry_gTrap (k : Ctx) (e : Entry) : (k.withEntry e).gTrap = k.gTrap := rfl
@[simp] theorem Ctx.withEntry_gCue (k : Ctx) (e : Entry) : (k.withEntry e).gCue = k.gCue := rfl
@[simp] theorem Ctx.withEntry_gSave (k : Ctx) (e : Entry) : (k.withEntry e).gSave = k.gSave := rfl
@[simp] theorem Ctx.withEntry_post (k : Ctx) (e : Entry) : (k.withEntry e).post = k.post := rfl
@[simp] theorem Ctx.withEntry_asyncs (k : Ctx) (e : Entry) : (k.withEntry e).asyncs = k.asyncs := rfl
@[simp] theorem Ctx.withEntry_susp (k : Ctx) (e : Entry) : (k.withEntry e).susp = k.susp := rfl
@[simp] theorem Ctx.withEntry_xfer (k : Ctx) (e : Entry) : (k.withEntry e).xfer = k.xfer := rfl
@[simp] theorem Ctx.withEntry_gq (k : Ctx) (e : Entry) : (k.withEntry e).gq = k.gq := rfl
@[simp] theorem Ctx.withEntry_failed (k : Ctx) (e : Entry) : (k.withEntry e).failed = k.failed := rfl
@[simp] theorem Ctx.withEntry_nextTag (k : Ctx) (e : Entry) : (k.withEntry e).nextTag = k.nextTag := rfl
@[simp] theorem Ctx.withEntry_rq (k : Ctx) (e : Entry) : (k.withEntry e).rq = k.rq := rfl
@[simp] theorem Ctx.withEntry_queues (k : Ctx) (e : Entry) : (k.withEntry e).queues = k.queues := rfl
@[simp] theorem Ctx.withEntry_tickets (k : Ctx) (e : Entry) : (k.withEntry e).tickets = k.tickets := rfl
@[simp] theorem Ctx.withEntry_fences (k : Ctx) (e : Entry) : (k.withEntry e).fences = k.fences := rfl
@[simp] theorem Ctx.withEntry_seq (k : Ctx) (e : Entry) : (k.withEntry e).seq = k.seq := rfl
@[simp] theorem Ctx.withEntry_subs (k : Ctx) (e : Entry) : (k.withEntry e).subs = k.subs := rfl
@[simp] theorem Ctx.withEntry_bktHbm (k : Ctx) (e : Entry) : (k.withEntry e).bktHbm = k.bktHbm := rfl
@[simp] theorem Ctx.withEntry_reqs (k : Ctx) (e : Entry) : (k.withEntry e).reqs = k.reqs := rfl
@[simp] theorem Ctx.withEntry_nodes (k : Ctx) (e : Entry) : (k.withEntry e).nodes = k.nodes := rfl
@[simp] theorem Ctx.withEntry_demands (k : Ctx) (e : Entry) : (k.withEntry e).demands = k.demands := rfl
@[simp] theorem Ctx.withEntry_holds (k : Ctx) (e : Entry) : (k.withEntry e).holds = k.holds := rfl
@[simp] theorem Ctx.withEntry_aliased (k : Ctx) (e : Entry) : (k.withEntry e).aliased = k.aliased := rfl
@[simp] theorem Ctx.withEntry_ctt (k : Ctx) (e : Entry) : (k.withEntry e).ctt = k.ctt := rfl
@[simp] theorem Ctx.withEntry_pins (k : Ctx) (e : Entry) : (k.withEntry e).pins = k.pins := rfl
@[simp] theorem Ctx.withEntry_barrier (k : Ctx) (e : Entry) : (k.withEntry e).barrier = k.barrier := rfl
@[simp] theorem Ctx.withEntry_waiting (k : Ctx) (e : Entry) : (k.withEntry e).waiting = k.waiting := rfl
@[simp] theorem Ctx.withEntry_dueStall (k : Ctx) (e : Entry) : (k.withEntry e).dueStall = k.dueStall := rfl
@[simp] theorem Ctx.withEntry_task (k : Ctx) (e : Entry) : (k.withEntry e).task = k.task := rfl
@[simp] theorem Ctx.withEntry_allot (k : Ctx) (e : Entry) : (k.withEntry e).allot = k.allot := rfl
@[simp] theorem Ctx.withEntry_priv (k : Ctx) (e : Entry) : (k.withEntry e).priv = k.priv := rfl
@[simp] theorem Ctx.withEntry_saveArea (k : Ctx) (e : Entry) : (k.withEntry e).saveArea = k.saveArea := rfl
@[simp] theorem Ctx.withEntry_spilled (k : Ctx) (e : Entry) : (k.withEntry e).spilled = k.spilled := rfl
@[simp] theorem Ctx.withEntry_vsave (k : Ctx) (e : Entry) : (k.withEntry e).vsave = k.vsave := rfl
@[simp] theorem Ctx.withEntry_saveSeed (k : Ctx) (e : Entry) : (k.withEntry e).saveSeed = k.saveSeed := rfl
@[simp] theorem Ctx.withEntry_serial (k : Ctx) (e : Entry) : (k.withEntry e).serial = k.serial := rfl
@[simp] theorem Ctx.withEntry_infl (k : Ctx) (e : Entry) : (k.withEntry e).infl = k.infl ++ [e] := rfl
@[simp] theorem Ctx.afterIssue_cond (k : Ctx) (h : HS) (a n : Word) (t : Option Word) : (k.afterIssue h a n t).cond = k.cond := rfl
@[simp] theorem Ctx.afterIssue_hs (k : Ctx) (h : HS) (a n : Word) (t : Option Word) : (k.afterIssue h a n t).hs = k.hs := rfl
@[simp] theorem Ctx.afterIssue_sreg (k : Ctx) (h : HS) (a n : Word) (t : Option Word) : (k.afterIssue h a n t).sreg = k.sreg := rfl
@[simp] theorem Ctx.afterIssue_preg (k : Ctx) (h : HS) (a n : Word) (t : Option Word) : (k.afterIssue h a n t).preg = k.preg := rfl
@[simp] theorem Ctx.afterIssue_spr (k : Ctx) (h : HS) (a n : Word) (t : Option Word) : (k.afterIssue h a n t).spr = k.spr := rfl
@[simp] theorem Ctx.afterIssue_la (k : Ctx) (h : HS) (a n : Word) (t : Option Word) : (k.afterIssue h a n t).la = k.la := rfl
@[simp] theorem Ctx.afterIssue_lb (k : Ctx) (h : HS) (a n : Word) (t : Option Word) : (k.afterIssue h a n t).lb = k.lb := rfl
@[simp] theorem Ctx.afterIssue_ll (k : Ctx) (h : HS) (a n : Word) (t : Option Word) : (k.afterIssue h a n t).ll = k.ll := rfl
@[simp] theorem Ctx.afterIssue_streams (k : Ctx) (h : HS) (a n : Word) (t : Option Word) : (k.afterIssue h a n t).streams = k.streams := rfl
@[simp] theorem Ctx.afterIssue_names (k : Ctx) (h : HS) (a n : Word) (t : Option Word) : (k.afterIssue h a n t).names = k.names := rfl
@[simp] theorem Ctx.afterIssue_tids (k : Ctx) (h : HS) (a n : Word) (t : Option Word) : (k.afterIssue h a n t).tids = k.tids := rfl
@[simp] theorem Ctx.afterIssue_gTrap (k : Ctx) (h : HS) (a n : Word) (t : Option Word) : (k.afterIssue h a n t).gTrap = k.gTrap := rfl
@[simp] theorem Ctx.afterIssue_gCue (k : Ctx) (h : HS) (a n : Word) (t : Option Word) : (k.afterIssue h a n t).gCue = k.gCue := rfl
@[simp] theorem Ctx.afterIssue_gSave (k : Ctx) (h : HS) (a n : Word) (t : Option Word) : (k.afterIssue h a n t).gSave = k.gSave := rfl
@[simp] theorem Ctx.afterIssue_post (k : Ctx) (h : HS) (a n : Word) (t : Option Word) : (k.afterIssue h a n t).post = k.post := rfl
@[simp] theorem Ctx.afterIssue_asyncs (k : Ctx) (h : HS) (a n : Word) (t : Option Word) : (k.afterIssue h a n t).asyncs = k.asyncs := rfl
@[simp] theorem Ctx.afterIssue_susp (k : Ctx) (h : HS) (a n : Word) (t : Option Word) : (k.afterIssue h a n t).susp = k.susp := rfl
@[simp] theorem Ctx.afterIssue_gq (k : Ctx) (h : HS) (a n : Word) (t : Option Word) : (k.afterIssue h a n t).gq = k.gq := rfl
@[simp] theorem Ctx.afterIssue_failed (k : Ctx) (h : HS) (a n : Word) (t : Option Word) : (k.afterIssue h a n t).failed = k.failed := rfl
@[simp] theorem Ctx.afterIssue_nextTag (k : Ctx) (h : HS) (a n : Word) (t : Option Word) : (k.afterIssue h a n t).nextTag = k.nextTag := rfl
@[simp] theorem Ctx.afterIssue_rq (k : Ctx) (h : HS) (a n : Word) (t : Option Word) : (k.afterIssue h a n t).rq = k.rq := rfl
@[simp] theorem Ctx.afterIssue_queues (k : Ctx) (h : HS) (a n : Word) (t : Option Word) : (k.afterIssue h a n t).queues = k.queues := rfl
@[simp] theorem Ctx.afterIssue_tickets (k : Ctx) (h : HS) (a n : Word) (t : Option Word) : (k.afterIssue h a n t).tickets = k.tickets := rfl
@[simp] theorem Ctx.afterIssue_fences (k : Ctx) (h : HS) (a n : Word) (t : Option Word) : (k.afterIssue h a n t).fences = k.fences := rfl
@[simp] theorem Ctx.afterIssue_seq (k : Ctx) (h : HS) (a n : Word) (t : Option Word) : (k.afterIssue h a n t).seq = k.seq := rfl
@[simp] theorem Ctx.afterIssue_subs (k : Ctx) (h : HS) (a n : Word) (t : Option Word) : (k.afterIssue h a n t).subs = k.subs := rfl
@[simp] theorem Ctx.afterIssue_bktHbm (k : Ctx) (h : HS) (a n : Word) (t : Option Word) : (k.afterIssue h a n t).bktHbm = k.bktHbm := rfl
@[simp] theorem Ctx.afterIssue_reqs (k : Ctx) (h : HS) (a n : Word) (t : Option Word) : (k.afterIssue h a n t).reqs = k.reqs := rfl
@[simp] theorem Ctx.afterIssue_nodes (k : Ctx) (h : HS) (a n : Word) (t : Option Word) : (k.afterIssue h a n t).nodes = k.nodes := rfl
@[simp] theorem Ctx.afterIssue_demands (k : Ctx) (h : HS) (a n : Word) (t : Option Word) : (k.afterIssue h a n t).demands = k.demands := rfl
@[simp] theorem Ctx.afterIssue_holds (k : Ctx) (h : HS) (a n : Word) (t : Option Word) : (k.afterIssue h a n t).holds = k.holds := rfl
@[simp] theorem Ctx.afterIssue_ctt (k : Ctx) (h : HS) (a n : Word) (t : Option Word) : (k.afterIssue h a n t).ctt = k.ctt := rfl
@[simp] theorem Ctx.afterIssue_pins (k : Ctx) (h : HS) (a n : Word) (t : Option Word) : (k.afterIssue h a n t).pins = k.pins := rfl
@[simp] theorem Ctx.afterIssue_task (k : Ctx) (h : HS) (a n : Word) (t : Option Word) : (k.afterIssue h a n t).task = k.task := rfl
@[simp] theorem Ctx.afterIssue_allot (k : Ctx) (h : HS) (a n : Word) (t : Option Word) : (k.afterIssue h a n t).allot = k.allot := rfl
@[simp] theorem Ctx.afterIssue_priv (k : Ctx) (h : HS) (a n : Word) (t : Option Word) : (k.afterIssue h a n t).priv = k.priv := rfl
@[simp] theorem Ctx.afterIssue_saveArea (k : Ctx) (h : HS) (a n : Word) (t : Option Word) : (k.afterIssue h a n t).saveArea = k.saveArea := rfl
@[simp] theorem Ctx.afterIssue_spilled (k : Ctx) (h : HS) (a n : Word) (t : Option Word) : (k.afterIssue h a n t).spilled = k.spilled := rfl
@[simp] theorem Ctx.afterIssue_vsave (k : Ctx) (h : HS) (a n : Word) (t : Option Word) : (k.afterIssue h a n t).vsave = k.vsave := rfl
@[simp] theorem Ctx.afterIssue_saveSeed (k : Ctx) (h : HS) (a n : Word) (t : Option Word) : (k.afterIssue h a n t).saveSeed = k.saveSeed := rfl
@[simp] theorem Ctx.afterIssue_serial (k : Ctx) (h : HS) (a n : Word) (t : Option Word) : (k.afterIssue h a n t).serial = k.serial := rfl
@[simp] theorem Ctx.afterIssue_bclk (k : Ctx) (h : HS) (a n : Word) (t : Option Word) : (k.afterIssue h a n t).bclk = k.bclk + 1 := rfl
@[simp] theorem Ctx.afterIssue_infl (k : Ctx) (h : HS) (a n : Word) (t : Option Word) : (k.afterIssue h a n t).infl = age k.infl := rfl
@[simp] theorem Ctx.afterIssue_pc (k : Ctx) (h : HS) (a n : Word) (t : Option Word) : (k.afterIssue h a n t).pc = t.getD n := rfl
@[simp] theorem Ctx.afterIssue_waiting (k : Ctx) (h : HS) (a n : Word) (t : Option Word) : (k.afterIssue h a n t).waiting = false := rfl
@[simp] theorem Ctx.afterIssue_dueStall (k : Ctx) (h : HS) (a n : Word) (t : Option Word) : (k.afterIssue h a n t).dueStall = 0 := rfl
@[simp] theorem Ctx.afterIssue_aliased (k : Ctx) (h : HS) (a n : Word) (t : Option Word) : (k.afterIssue h a n t).aliased = [] := rfl
@[simp] theorem Ctx.afterIssue_xfer (k : Ctx) (h : HS) (a n : Word) (t : Option Word) : (k.afterIssue h a n t).xfer = t.map fun t => (a, t) := rfl
@[simp] theorem Ctx.afterIssue_barrier (k : Ctx) (h : HS) (a n : Word) (t : Option Word) : (k.afterIssue h a n t).barrier = k.barrier.set h.code none := rfl
@[simp] theorem enterUser_cond (k : Ctx) (r : TrapRec) : (enterUser k r).cond = k.cond := rfl
@[simp] theorem enterUser_bclk (k : Ctx) (r : TrapRec) : (enterUser k r).bclk = k.bclk := rfl
@[simp] theorem enterUser_sreg (k : Ctx) (r : TrapRec) : (enterUser k r).sreg = k.sreg := rfl
@[simp] theorem enterUser_preg (k : Ctx) (r : TrapRec) : (enterUser k r).preg = k.preg := rfl
@[simp] theorem enterUser_streams (k : Ctx) (r : TrapRec) : (enterUser k r).streams = k.streams := rfl
@[simp] theorem enterUser_names (k : Ctx) (r : TrapRec) : (enterUser k r).names = k.names := rfl
@[simp] theorem enterUser_tids (k : Ctx) (r : TrapRec) : (enterUser k r).tids = k.tids := rfl
@[simp] theorem enterUser_gCue (k : Ctx) (r : TrapRec) : (enterUser k r).gCue = k.gCue := rfl
@[simp] theorem enterUser_gSave (k : Ctx) (r : TrapRec) : (enterUser k r).gSave = k.gSave := rfl
@[simp] theorem enterUser_post (k : Ctx) (r : TrapRec) : (enterUser k r).post = k.post := rfl
@[simp] theorem enterUser_asyncs (k : Ctx) (r : TrapRec) : (enterUser k r).asyncs = k.asyncs := rfl
@[simp] theorem enterUser_susp (k : Ctx) (r : TrapRec) : (enterUser k r).susp = k.susp := rfl
@[simp] theorem enterUser_gq (k : Ctx) (r : TrapRec) : (enterUser k r).gq = k.gq := rfl
@[simp] theorem enterUser_failed (k : Ctx) (r : TrapRec) : (enterUser k r).failed = k.failed := rfl
@[simp] theorem enterUser_nextTag (k : Ctx) (r : TrapRec) : (enterUser k r).nextTag = k.nextTag := rfl
@[simp] theorem enterUser_rq (k : Ctx) (r : TrapRec) : (enterUser k r).rq = k.rq := rfl
@[simp] theorem enterUser_queues (k : Ctx) (r : TrapRec) : (enterUser k r).queues = k.queues := rfl
@[simp] theorem enterUser_tickets (k : Ctx) (r : TrapRec) : (enterUser k r).tickets = k.tickets := rfl
@[simp] theorem enterUser_fences (k : Ctx) (r : TrapRec) : (enterUser k r).fences = k.fences := rfl
@[simp] theorem enterUser_seq (k : Ctx) (r : TrapRec) : (enterUser k r).seq = k.seq := rfl
@[simp] theorem enterUser_subs (k : Ctx) (r : TrapRec) : (enterUser k r).subs = k.subs := rfl
@[simp] theorem enterUser_bktHbm (k : Ctx) (r : TrapRec) : (enterUser k r).bktHbm = k.bktHbm := rfl
@[simp] theorem enterUser_reqs (k : Ctx) (r : TrapRec) : (enterUser k r).reqs = k.reqs := rfl
@[simp] theorem enterUser_nodes (k : Ctx) (r : TrapRec) : (enterUser k r).nodes = k.nodes := rfl
@[simp] theorem enterUser_demands (k : Ctx) (r : TrapRec) : (enterUser k r).demands = k.demands := rfl
@[simp] theorem enterUser_holds (k : Ctx) (r : TrapRec) : (enterUser k r).holds = k.holds := rfl
@[simp] theorem enterUser_ctt (k : Ctx) (r : TrapRec) : (enterUser k r).ctt = k.ctt := rfl
@[simp] theorem enterUser_pins (k : Ctx) (r : TrapRec) : (enterUser k r).pins = k.pins := rfl
@[simp] theorem enterUser_barrier (k : Ctx) (r : TrapRec) : (enterUser k r).barrier = k.barrier := rfl
@[simp] theorem enterUser_task (k : Ctx) (r : TrapRec) : (enterUser k r).task = k.task := rfl
@[simp] theorem enterUser_allot (k : Ctx) (r : TrapRec) : (enterUser k r).allot = k.allot := rfl
@[simp] theorem enterUser_priv (k : Ctx) (r : TrapRec) : (enterUser k r).priv = k.priv := rfl
@[simp] theorem enterUser_saveArea (k : Ctx) (r : TrapRec) : (enterUser k r).saveArea = k.saveArea := rfl
@[simp] theorem enterUser_spilled (k : Ctx) (r : TrapRec) : (enterUser k r).spilled = k.spilled := rfl
@[simp] theorem enterUser_vsave (k : Ctx) (r : TrapRec) : (enterUser k r).vsave = k.vsave := rfl
@[simp] theorem enterUser_saveSeed (k : Ctx) (r : TrapRec) : (enterUser k r).saveSeed = k.saveSeed := rfl
@[simp] theorem enterUser_serial (k : Ctx) (r : TrapRec) : (enterUser k r).serial = k.serial := rfl
@[simp] theorem enterUser_infl (k : Ctx) (r : TrapRec) : (enterUser k r).infl = [] := rfl
@[simp] theorem enterUser_pc (k : Ctx) (r : TrapRec) : (enterUser k r).pc = k.spr' Spr.utvec := rfl
@[simp] theorem enterUser_waiting (k : Ctx) (r : TrapRec) : (enterUser k r).waiting = false := rfl
@[simp] theorem enterUser_dueStall (k : Ctx) (r : TrapRec) : (enterUser k r).dueStall = 0 := rfl
@[simp] theorem enterUser_aliased (k : Ctx) (r : TrapRec) : (enterUser k r).aliased = [] := rfl
@[simp] theorem enterUser_gTrap (k : Ctx) (r : TrapRec) : (enterUser k r).gTrap = k.infl := rfl
@[simp] theorem enterUser_hs (k : Ctx) (r : TrapRec) : (enterUser k r).hs = if k.hs = .cue then .trapInCue else .trap := rfl
@[simp] theorem enterUser_spr (k : Ctx) (r : TrapRec) : (enterUser k r).spr = sprWrites k.spr (trapWrites k r) := rfl
@[simp] theorem enterUser_xfer (k : Ctx) (r : TrapRec) : (enterUser k r).xfer = some (0#64, k.spr' Spr.utvec) := rfl
@[simp] theorem enterUser_la (k : Ctx) (r : TrapRec) : (enterUser k r).la = default := rfl
@[simp] theorem enterUser_lb (k : Ctx) (r : TrapRec) : (enterUser k r).lb = default := rfl
@[simp] theorem enterUser_ll (k : Ctx) (r : TrapRec) : (enterUser k r).ll = default := rfl
@[simp] theorem Ctx.enterLatchNone_cond (k : Ctx) (v : Vec) : (k.enterLatch none v).cond = k.cond := rfl
@[simp] theorem Ctx.enterLatchNone_bclk (k : Ctx) (v : Vec) : (k.enterLatch none v).bclk = k.bclk := rfl
@[simp] theorem Ctx.enterLatchNone_pc (k : Ctx) (v : Vec) : (k.enterLatch none v).pc = k.pc := rfl
@[simp] theorem Ctx.enterLatchNone_hs (k : Ctx) (v : Vec) : (k.enterLatch none v).hs = k.hs := rfl
@[simp] theorem Ctx.enterLatchNone_sreg (k : Ctx) (v : Vec) : (k.enterLatch none v).sreg = k.sreg := rfl
@[simp] theorem Ctx.enterLatchNone_preg (k : Ctx) (v : Vec) : (k.enterLatch none v).preg = k.preg := rfl
@[simp] theorem Ctx.enterLatchNone_spr (k : Ctx) (v : Vec) : (k.enterLatch none v).spr = k.spr := rfl
@[simp] theorem Ctx.enterLatchNone_la (k : Ctx) (v : Vec) : (k.enterLatch none v).la = k.la := rfl
@[simp] theorem Ctx.enterLatchNone_lb (k : Ctx) (v : Vec) : (k.enterLatch none v).lb = k.lb := rfl
@[simp] theorem Ctx.enterLatchNone_ll (k : Ctx) (v : Vec) : (k.enterLatch none v).ll = k.ll := rfl
@[simp] theorem Ctx.enterLatchNone_streams (k : Ctx) (v : Vec) : (k.enterLatch none v).streams = k.streams := rfl
@[simp] theorem Ctx.enterLatchNone_names (k : Ctx) (v : Vec) : (k.enterLatch none v).names = k.names := rfl
@[simp] theorem Ctx.enterLatchNone_tids (k : Ctx) (v : Vec) : (k.enterLatch none v).tids = k.tids := rfl
@[simp] theorem Ctx.enterLatchNone_infl (k : Ctx) (v : Vec) : (k.enterLatch none v).infl = k.infl := rfl
@[simp] theorem Ctx.enterLatchNone_gTrap (k : Ctx) (v : Vec) : (k.enterLatch none v).gTrap = k.gTrap := rfl
@[simp] theorem Ctx.enterLatchNone_gCue (k : Ctx) (v : Vec) : (k.enterLatch none v).gCue = k.gCue := rfl
@[simp] theorem Ctx.enterLatchNone_gSave (k : Ctx) (v : Vec) : (k.enterLatch none v).gSave = k.gSave := rfl
@[simp] theorem Ctx.enterLatchNone_post (k : Ctx) (v : Vec) : (k.enterLatch none v).post = k.post := rfl
@[simp] theorem Ctx.enterLatchNone_asyncs (k : Ctx) (v : Vec) : (k.enterLatch none v).asyncs = k.asyncs := rfl
@[simp] theorem Ctx.enterLatchNone_susp (k : Ctx) (v : Vec) : (k.enterLatch none v).susp = k.susp := rfl
@[simp] theorem Ctx.enterLatchNone_xfer (k : Ctx) (v : Vec) : (k.enterLatch none v).xfer = k.xfer := rfl
@[simp] theorem Ctx.enterLatchNone_gq (k : Ctx) (v : Vec) : (k.enterLatch none v).gq = k.gq := rfl
@[simp] theorem Ctx.enterLatchNone_failed (k : Ctx) (v : Vec) : (k.enterLatch none v).failed = k.failed := rfl
@[simp] theorem Ctx.enterLatchNone_nextTag (k : Ctx) (v : Vec) : (k.enterLatch none v).nextTag = k.nextTag := rfl
@[simp] theorem Ctx.enterLatchNone_rq (k : Ctx) (v : Vec) : (k.enterLatch none v).rq = k.rq := rfl
@[simp] theorem Ctx.enterLatchNone_queues (k : Ctx) (v : Vec) : (k.enterLatch none v).queues = k.queues := rfl
@[simp] theorem Ctx.enterLatchNone_tickets (k : Ctx) (v : Vec) : (k.enterLatch none v).tickets = k.tickets := rfl
@[simp] theorem Ctx.enterLatchNone_fences (k : Ctx) (v : Vec) : (k.enterLatch none v).fences = k.fences := rfl
@[simp] theorem Ctx.enterLatchNone_seq (k : Ctx) (v : Vec) : (k.enterLatch none v).seq = k.seq := rfl
@[simp] theorem Ctx.enterLatchNone_subs (k : Ctx) (v : Vec) : (k.enterLatch none v).subs = k.subs := rfl
@[simp] theorem Ctx.enterLatchNone_bktHbm (k : Ctx) (v : Vec) : (k.enterLatch none v).bktHbm = k.bktHbm := rfl
@[simp] theorem Ctx.enterLatchNone_reqs (k : Ctx) (v : Vec) : (k.enterLatch none v).reqs = k.reqs := rfl
@[simp] theorem Ctx.enterLatchNone_nodes (k : Ctx) (v : Vec) : (k.enterLatch none v).nodes = k.nodes := rfl
@[simp] theorem Ctx.enterLatchNone_demands (k : Ctx) (v : Vec) : (k.enterLatch none v).demands = k.demands := rfl
@[simp] theorem Ctx.enterLatchNone_holds (k : Ctx) (v : Vec) : (k.enterLatch none v).holds = k.holds := rfl
@[simp] theorem Ctx.enterLatchNone_aliased (k : Ctx) (v : Vec) : (k.enterLatch none v).aliased = k.aliased := rfl
@[simp] theorem Ctx.enterLatchNone_ctt (k : Ctx) (v : Vec) : (k.enterLatch none v).ctt = k.ctt := rfl
@[simp] theorem Ctx.enterLatchNone_pins (k : Ctx) (v : Vec) : (k.enterLatch none v).pins = k.pins := rfl
@[simp] theorem Ctx.enterLatchNone_barrier (k : Ctx) (v : Vec) : (k.enterLatch none v).barrier = k.barrier := rfl
@[simp] theorem Ctx.enterLatchNone_waiting (k : Ctx) (v : Vec) : (k.enterLatch none v).waiting = k.waiting := rfl
@[simp] theorem Ctx.enterLatchNone_dueStall (k : Ctx) (v : Vec) : (k.enterLatch none v).dueStall = k.dueStall := rfl
@[simp] theorem Ctx.enterLatchNone_task (k : Ctx) (v : Vec) : (k.enterLatch none v).task = k.task := rfl
@[simp] theorem Ctx.enterLatchNone_allot (k : Ctx) (v : Vec) : (k.enterLatch none v).allot = k.allot := rfl
@[simp] theorem Ctx.enterLatchNone_priv (k : Ctx) (v : Vec) : (k.enterLatch none v).priv = k.priv := rfl
@[simp] theorem Ctx.enterLatchNone_saveArea (k : Ctx) (v : Vec) : (k.enterLatch none v).saveArea = k.saveArea := rfl
@[simp] theorem Ctx.enterLatchNone_spilled (k : Ctx) (v : Vec) : (k.enterLatch none v).spilled = k.spilled := rfl
@[simp] theorem Ctx.enterLatchNone_vsave (k : Ctx) (v : Vec) : (k.enterLatch none v).vsave = k.vsave := rfl
@[simp] theorem Ctx.enterLatchNone_saveSeed (k : Ctx) (v : Vec) : (k.enterLatch none v).saveSeed = k.saveSeed := rfl
@[simp] theorem Ctx.enterLatchNone_serial (k : Ctx) (v : Vec) : (k.enterLatch none v).serial = k.serial := rfl
@[simp] theorem Ctx.enterLatch_cond (k : Ctx) (p : Option Pair) (v : Vec) : (k.enterLatch p v).cond = k.cond := by
  cases p with
  | none => rfl
  | some p => cases p <;> rfl
@[simp] theorem Ctx.enterLatch_bclk (k : Ctx) (p : Option Pair) (v : Vec) : (k.enterLatch p v).bclk = k.bclk := by
  cases p with
  | none => rfl
  | some p => cases p <;> rfl
@[simp] theorem Ctx.enterLatch_pc (k : Ctx) (p : Option Pair) (v : Vec) : (k.enterLatch p v).pc = k.pc := by
  cases p with
  | none => rfl
  | some p => cases p <;> rfl
@[simp] theorem Ctx.enterLatch_hs (k : Ctx) (p : Option Pair) (v : Vec) : (k.enterLatch p v).hs = k.hs := by
  cases p with
  | none => rfl
  | some p => cases p <;> rfl
@[simp] theorem Ctx.enterLatch_sreg (k : Ctx) (p : Option Pair) (v : Vec) : (k.enterLatch p v).sreg = k.sreg := by
  cases p with
  | none => rfl
  | some p => cases p <;> rfl
@[simp] theorem Ctx.enterLatch_preg (k : Ctx) (p : Option Pair) (v : Vec) : (k.enterLatch p v).preg = k.preg := by
  cases p with
  | none => rfl
  | some p => cases p <;> rfl
@[simp] theorem Ctx.enterLatch_spr (k : Ctx) (p : Option Pair) (v : Vec) : (k.enterLatch p v).spr = k.spr := by
  cases p with
  | none => rfl
  | some p => cases p <;> rfl
@[simp] theorem Ctx.enterLatch_streams (k : Ctx) (p : Option Pair) (v : Vec) : (k.enterLatch p v).streams = k.streams := by
  cases p with
  | none => rfl
  | some p => cases p <;> rfl
@[simp] theorem Ctx.enterLatch_names (k : Ctx) (p : Option Pair) (v : Vec) : (k.enterLatch p v).names = k.names := by
  cases p with
  | none => rfl
  | some p => cases p <;> rfl
@[simp] theorem Ctx.enterLatch_tids (k : Ctx) (p : Option Pair) (v : Vec) : (k.enterLatch p v).tids = k.tids := by
  cases p with
  | none => rfl
  | some p => cases p <;> rfl
@[simp] theorem Ctx.enterLatch_infl (k : Ctx) (p : Option Pair) (v : Vec) : (k.enterLatch p v).infl = k.infl := by
  cases p with
  | none => rfl
  | some p => cases p <;> rfl
@[simp] theorem Ctx.enterLatch_gTrap (k : Ctx) (p : Option Pair) (v : Vec) : (k.enterLatch p v).gTrap = k.gTrap := by
  cases p with
  | none => rfl
  | some p => cases p <;> rfl
@[simp] theorem Ctx.enterLatch_gCue (k : Ctx) (p : Option Pair) (v : Vec) : (k.enterLatch p v).gCue = k.gCue := by
  cases p with
  | none => rfl
  | some p => cases p <;> rfl
@[simp] theorem Ctx.enterLatch_gSave (k : Ctx) (p : Option Pair) (v : Vec) : (k.enterLatch p v).gSave = k.gSave := by
  cases p with
  | none => rfl
  | some p => cases p <;> rfl
@[simp] theorem Ctx.enterLatch_post (k : Ctx) (p : Option Pair) (v : Vec) : (k.enterLatch p v).post = k.post := by
  cases p with
  | none => rfl
  | some p => cases p <;> rfl
@[simp] theorem Ctx.enterLatch_asyncs (k : Ctx) (p : Option Pair) (v : Vec) : (k.enterLatch p v).asyncs = k.asyncs := by
  cases p with
  | none => rfl
  | some p => cases p <;> rfl
@[simp] theorem Ctx.enterLatch_susp (k : Ctx) (p : Option Pair) (v : Vec) : (k.enterLatch p v).susp = k.susp := by
  cases p with
  | none => rfl
  | some p => cases p <;> rfl
@[simp] theorem Ctx.enterLatch_xfer (k : Ctx) (p : Option Pair) (v : Vec) : (k.enterLatch p v).xfer = k.xfer := by
  cases p with
  | none => rfl
  | some p => cases p <;> rfl
@[simp] theorem Ctx.enterLatch_gq (k : Ctx) (p : Option Pair) (v : Vec) : (k.enterLatch p v).gq = k.gq := by
  cases p with
  | none => rfl
  | some p => cases p <;> rfl
@[simp] theorem Ctx.enterLatch_failed (k : Ctx) (p : Option Pair) (v : Vec) : (k.enterLatch p v).failed = k.failed := by
  cases p with
  | none => rfl
  | some p => cases p <;> rfl
@[simp] theorem Ctx.enterLatch_nextTag (k : Ctx) (p : Option Pair) (v : Vec) : (k.enterLatch p v).nextTag = k.nextTag := by
  cases p with
  | none => rfl
  | some p => cases p <;> rfl
@[simp] theorem Ctx.enterLatch_rq (k : Ctx) (p : Option Pair) (v : Vec) : (k.enterLatch p v).rq = k.rq := by
  cases p with
  | none => rfl
  | some p => cases p <;> rfl
@[simp] theorem Ctx.enterLatch_queues (k : Ctx) (p : Option Pair) (v : Vec) : (k.enterLatch p v).queues = k.queues := by
  cases p with
  | none => rfl
  | some p => cases p <;> rfl
@[simp] theorem Ctx.enterLatch_tickets (k : Ctx) (p : Option Pair) (v : Vec) : (k.enterLatch p v).tickets = k.tickets := by
  cases p with
  | none => rfl
  | some p => cases p <;> rfl
@[simp] theorem Ctx.enterLatch_fences (k : Ctx) (p : Option Pair) (v : Vec) : (k.enterLatch p v).fences = k.fences := by
  cases p with
  | none => rfl
  | some p => cases p <;> rfl
@[simp] theorem Ctx.enterLatch_seq (k : Ctx) (p : Option Pair) (v : Vec) : (k.enterLatch p v).seq = k.seq := by
  cases p with
  | none => rfl
  | some p => cases p <;> rfl
@[simp] theorem Ctx.enterLatch_subs (k : Ctx) (p : Option Pair) (v : Vec) : (k.enterLatch p v).subs = k.subs := by
  cases p with
  | none => rfl
  | some p => cases p <;> rfl
@[simp] theorem Ctx.enterLatch_bktHbm (k : Ctx) (p : Option Pair) (v : Vec) : (k.enterLatch p v).bktHbm = k.bktHbm := by
  cases p with
  | none => rfl
  | some p => cases p <;> rfl
@[simp] theorem Ctx.enterLatch_reqs (k : Ctx) (p : Option Pair) (v : Vec) : (k.enterLatch p v).reqs = k.reqs := by
  cases p with
  | none => rfl
  | some p => cases p <;> rfl
@[simp] theorem Ctx.enterLatch_nodes (k : Ctx) (p : Option Pair) (v : Vec) : (k.enterLatch p v).nodes = k.nodes := by
  cases p with
  | none => rfl
  | some p => cases p <;> rfl
@[simp] theorem Ctx.enterLatch_demands (k : Ctx) (p : Option Pair) (v : Vec) : (k.enterLatch p v).demands = k.demands := by
  cases p with
  | none => rfl
  | some p => cases p <;> rfl
@[simp] theorem Ctx.enterLatch_holds (k : Ctx) (p : Option Pair) (v : Vec) : (k.enterLatch p v).holds = k.holds := by
  cases p with
  | none => rfl
  | some p => cases p <;> rfl
@[simp] theorem Ctx.enterLatch_aliased (k : Ctx) (p : Option Pair) (v : Vec) : (k.enterLatch p v).aliased = k.aliased := by
  cases p with
  | none => rfl
  | some p => cases p <;> rfl
@[simp] theorem Ctx.enterLatch_ctt (k : Ctx) (p : Option Pair) (v : Vec) : (k.enterLatch p v).ctt = k.ctt := by
  cases p with
  | none => rfl
  | some p => cases p <;> rfl
@[simp] theorem Ctx.enterLatch_pins (k : Ctx) (p : Option Pair) (v : Vec) : (k.enterLatch p v).pins = k.pins := by
  cases p with
  | none => rfl
  | some p => cases p <;> rfl
@[simp] theorem Ctx.enterLatch_barrier (k : Ctx) (p : Option Pair) (v : Vec) : (k.enterLatch p v).barrier = k.barrier := by
  cases p with
  | none => rfl
  | some p => cases p <;> rfl
@[simp] theorem Ctx.enterLatch_waiting (k : Ctx) (p : Option Pair) (v : Vec) : (k.enterLatch p v).waiting = k.waiting := by
  cases p with
  | none => rfl
  | some p => cases p <;> rfl
@[simp] theorem Ctx.enterLatch_dueStall (k : Ctx) (p : Option Pair) (v : Vec) : (k.enterLatch p v).dueStall = k.dueStall := by
  cases p with
  | none => rfl
  | some p => cases p <;> rfl
@[simp] theorem Ctx.enterLatch_task (k : Ctx) (p : Option Pair) (v : Vec) : (k.enterLatch p v).task = k.task := by
  cases p with
  | none => rfl
  | some p => cases p <;> rfl
@[simp] theorem Ctx.enterLatch_allot (k : Ctx) (p : Option Pair) (v : Vec) : (k.enterLatch p v).allot = k.allot := by
  cases p with
  | none => rfl
  | some p => cases p <;> rfl
@[simp] theorem Ctx.enterLatch_priv (k : Ctx) (p : Option Pair) (v : Vec) : (k.enterLatch p v).priv = k.priv := by
  cases p with
  | none => rfl
  | some p => cases p <;> rfl
@[simp] theorem Ctx.enterLatch_saveArea (k : Ctx) (p : Option Pair) (v : Vec) : (k.enterLatch p v).saveArea = k.saveArea := by
  cases p with
  | none => rfl
  | some p => cases p <;> rfl
@[simp] theorem Ctx.enterLatch_spilled (k : Ctx) (p : Option Pair) (v : Vec) : (k.enterLatch p v).spilled = k.spilled := by
  cases p with
  | none => rfl
  | some p => cases p <;> rfl
@[simp] theorem Ctx.enterLatch_vsave (k : Ctx) (p : Option Pair) (v : Vec) : (k.enterLatch p v).vsave = k.vsave := by
  cases p with
  | none => rfl
  | some p => cases p <;> rfl
@[simp] theorem Ctx.enterLatch_saveSeed (k : Ctx) (p : Option Pair) (v : Vec) : (k.enterLatch p v).saveSeed = k.saveSeed := by
  cases p with
  | none => rfl
  | some p => cases p <;> rfl
@[simp] theorem Ctx.enterLatch_serial (k : Ctx) (p : Option Pair) (v : Vec) : (k.enterLatch p v).serial = k.serial := by
  cases p with
  | none => rfl
  | some p => cases p <;> rfl
@[simp] theorem State.issue_cur (s : State) (i : Instr) (d : Dev) (k : Ctx) (t : Option Word) : (s.issue i d k t).cur = s.cur := rfl
@[simp] theorem State.issue_agenda (s : State) (i : Instr) (d : Dev) (k : Ctx) (t : Option Word) : (s.issue i d k t).agenda = s.agenda := rfl
@[simp] theorem State.issue_bundle (s : State) (i : Instr) (d : Dev) (k : Ctx) (t : Option Word) : (s.issue i d k t).bundle = none := rfl
@[simp] theorem State.issue_dev_npkg (s : State) (i : Instr) (d : Dev) (k : Ctx) (t : Option Word) :
    (s.issue i d k t).dev.npkg = d.npkg := rfl
@[simp] theorem State.issue_dev_bridge (s : State) (i : Instr) (d : Dev) (k : Ctx) (t : Option Word) :
    (s.issue i d k t).dev.bridge = d.bridge := rfl
@[simp] theorem State.issue_dev_cxl (s : State) (i : Instr) (d : Dev) (k : Ctx) (t : Option Word) :
    (s.issue i d k t).dev.cxl = d.cxl := rfl
@[simp] theorem State.issue_dev_caps (s : State) (i : Instr) (d : Dev) (k : Ctx) (t : Option Word) :
    (s.issue i d k t).dev.caps = d.caps := rfl
@[simp] theorem State.issue_dev_pageVa (s : State) (i : Instr) (d : Dev) (k : Ctx) (t : Option Word) :
    (s.issue i d k t).dev.pageVa = d.pageVa := rfl
@[simp] theorem State.issue_dev_disabled (s : State) (i : Instr) (d : Dev) (k : Ctx) (t : Option Word) :
    (s.issue i d k t).dev.disabled = d.disabled := rfl
@[simp] theorem State.issue_dev_cycle (s : State) (i : Instr) (d : Dev) (k : Ctx) (t : Option Word) :
    (s.issue i d k t).dev.cycle = d.cycle := rfl
@[simp] theorem State.issue_dev_vpool (s : State) (i : Instr) (d : Dev) (k : Ctx) (t : Option Word) :
    (s.issue i d k t).dev.vpool = d.vpool := rfl
@[simp] theorem State.issue_dev_cbt (s : State) (i : Instr) (d : Dev) (k : Ctx) (t : Option Word) :
    (s.issue i d k t).dev.cbt = d.cbt := rfl
@[simp] theorem State.issue_dev_slots (s : State) (i : Instr) (d : Dev) (k : Ctx) (t : Option Word) :
    (s.issue i d k t).dev.slots = d.slots := rfl
@[simp] theorem State.issue_dev_barriers (s : State) (i : Instr) (d : Dev) (k : Ctx) (t : Option Word) :
    (s.issue i d k t).dev.barriers = d.barriers := rfl
@[simp] theorem State.issue_dev_dies (s : State) (i : Instr) (d : Dev) (k : Ctx) (t : Option Word) :
    (s.issue i d k t).dev.dies = d.dies := rfl
@[simp] theorem State.issue_dev_gmem (s : State) (i : Instr) (d : Dev) (k : Ctx) (t : Option Word) :
    (s.issue i d k t).dev.gmem = d.gmem := rfl
@[simp] theorem State.issue_dev_spad (s : State) (i : Instr) (d : Dev) (k : Ctx) (t : Option Word) :
    (s.issue i d k t).dev.spad = d.spad := rfl
@[simp] theorem State.issue_dev_lanes (s : State) (i : Instr) (d : Dev) (k : Ctx) (t : Option Word) :
    (s.issue i d k t).dev.lanes = d.lanes := rfl
@[simp] theorem State.issue_dev_dspad (s : State) (i : Instr) (d : Dev) (k : Ctx) (t : Option Word) :
    (s.issue i d k t).dev.dspad = d.dspad := rfl
@[simp] theorem State.issue_dev_badLines (s : State) (i : Instr) (d : Dev) (k : Ctx) (t : Option Word) :
    (s.issue i d k t).dev.badLines = d.badLines := rfl
@[simp] theorem State.issue_dev_badBlocks (s : State) (i : Instr) (d : Dev) (k : Ctx) (t : Option Word) :
    (s.issue i d k t).dev.badBlocks = d.badBlocks := rfl
@[simp] theorem State.issue_dev_badSpad (s : State) (i : Instr) (d : Dev) (k : Ctx) (t : Option Word) :
    (s.issue i d k t).dev.badSpad = d.badSpad := rfl
@[simp] theorem State.issue_dev_badLane (s : State) (i : Instr) (d : Dev) (k : Ctx) (t : Option Word) :
    (s.issue i d k t).dev.badLane = d.badLane := rfl
@[simp] theorem State.issue_dev_badDie (s : State) (i : Instr) (d : Dev) (k : Ctx) (t : Option Word) :
    (s.issue i d k t).dev.badDie = d.badDie := rfl
@[simp] theorem State.issue_dev_badCtx (s : State) (i : Instr) (d : Dev) (k : Ctx) (t : Option Word) :
    (s.issue i d k t).dev.badCtx = d.badCtx := rfl
@[simp] theorem State.issue_dev_holders (s : State) (i : Instr) (d : Dev) (k : Ctx) (t : Option Word) :
    (s.issue i d k t).dev.holders = d.holders := rfl
@[simp] theorem State.issue_dev_homes (s : State) (i : Instr) (d : Dev) (k : Ctx) (t : Option Word) :
    (s.issue i d k t).dev.homes = d.homes := rfl
@[simp] theorem State.issue_dev_updOrder (s : State) (i : Instr) (d : Dev) (k : Ctx) (t : Option Word) :
    (s.issue i d k t).dev.updOrder = d.updOrder := rfl
@[simp] theorem State.issue_dev_comp (s : State) (i : Instr) (d : Dev) (k : Ctx) (t : Option Word) :
    (s.issue i d k t).dev.comp = d.comp := rfl
@[simp] theorem State.issue_dev_regions (s : State) (i : Instr) (d : Dev) (k : Ctx) (t : Option Word) :
    (s.issue i d k t).dev.regions = d.regions := rfl
@[simp] theorem State.issue_dev_pkgs (s : State) (i : Instr) (d : Dev) (k : Ctx) (t : Option Word) :
    (s.issue i d k t).dev.pkgs = d.pkgs := rfl
@[simp] theorem State.issue_dev_jobs (s : State) (i : Instr) (d : Dev) (k : Ctx) (t : Option Word) :
    (s.issue i d k t).dev.jobs = d.jobs := rfl
@[simp] theorem State.issue_dev_chains (s : State) (i : Instr) (d : Dev) (k : Ctx) (t : Option Word) :
    (s.issue i d k t).dev.chains = d.chains := rfl
@[simp] theorem State.issue_dev_gens (s : State) (i : Instr) (d : Dev) (k : Ctx) (t : Option Word) :
    (s.issue i d k t).dev.gens = d.gens := rfl
@[simp] theorem State.issue_dev_spilled (s : State) (i : Instr) (d : Dev) (k : Ctx) (t : Option Word) :
    (s.issue i d k t).dev.spilled = d.spilled := rfl
@[simp] theorem State.issue_dev_msgs (s : State) (i : Instr) (d : Dev) (k : Ctx) (t : Option Word) :
    (s.issue i d k t).dev.msgs = d.msgs := rfl
@[simp] theorem State.issue_dev_free (s : State) (i : Instr) (d : Dev) (k : Ctx) (t : Option Word) :
    (s.issue i d k t).dev.free = d.free := rfl

end Sys2Proof.Machine
end

