-- ==== Sys2Proof/Laws/Syllable.lean ====
section
/-! SUPPORT. What the shared operations over contexts and bundles can do: reading a context back, delivering results, and a
bundle of one syllable that issues, is suppressed, or waits. -/

namespace Sys2Proof.Machine

/-! ## Contexts in the device -/

theorem Ctx.ne_default {k : Ctx} (h : k.cond ≠ .free) : k ≠ default := fun e => h (by rw [e]; rfl)

theorem Ctx.ne_default_of_resident {k : Ctx} (h : k.cond = .resident) : k ≠ default := Ctx.ne_default (by rw [h]; decide)

@[simp] theorem Dev.ctx_setCtx (d : Dev) (c : Nat) (k : Ctx) : (d.setCtx c k).ctx c = k := SMap.get_set_same _ _ _

theorem Dev.ctx_setCtx_ne (d : Dev) {c x : Nat} (k : Ctx) (hx : x ≠ c) : (d.setCtx c k).ctx x = d.ctx x :=
  SMap.get_set_ne _ _ _ _ hx

@[simp] theorem Dev.ctx_updCtx (d : Dev) (c : Nat) (f : Ctx → Ctx) : (d.updCtx c f).ctx c = f (d.ctx c) :=
  SMap.get_set_same _ _ _

theorem Dev.ctx_updCtx_ne (d : Dev) {c x : Nat} (f : Ctx → Ctx) (hx : x ≠ c) : (d.updCtx c f).ctx x = d.ctx x :=
  SMap.get_set_ne _ _ _ _ hx

theorem Dev.setCtx_setCtx {d : Dev} {c : Nat} {k l : Ctx} (h : k.cond ≠ .free) :
    (d.setCtx c k).setCtx c l = d.setCtx c l := by
  simp only [Dev.setCtx, SMap.set_set _ _ _ _ (Ctx.ne_default h)]

theorem Dev.updCtx_setCtx {d : Dev} {c : Nat} {k : Ctx} (f : Ctx → Ctx) (h : k.cond ≠ .free) :
    (d.setCtx c k).updCtx c f = d.setCtx c (f k) := by
  simp only [Dev.updCtx, Dev.ctx_setCtx, Dev.setCtx_setCtx h]

@[simp] theorem noteIssue_ctx (d : Dev) (c x : Nat) (ws : List Word) : (noteIssue d c ws).ctx x = d.ctx x := rfl

theorem noteIssue_setCtx (d : Dev) (c : Nat) (k : Ctx) (ws : List Word) :
    noteIssue (d.setCtx c k) c ws = (noteIssue d c ws).setCtx c k := rfl

theorem addEntry_eq (d : Dev) (c : Nat) (e : Entry) : addEntry d c e = d.setCtx c ((d.ctx c).withEntry e) := rfl

/-! ## Delivery -/

/-- What delivering one entry keeps of the context it is delivered to. -/
structure Ctx.SameStream (k l : Ctx) : Prop where
  cond : l.cond = k.cond
  bclk : l.bclk = k.bclk
  pc : l.pc = k.pc
  hs : l.hs = k.hs
  infl : l.infl = k.infl
  allot : l.allot = k.allot
  task : l.task = k.task
  priv : l.priv = k.priv
  xfer : l.xfer = k.xfer

theorem Ctx.SameStream.refl (k : Ctx) : k.SameStream k := ⟨rfl, rfl, rfl, rfl, rfl, rfl, rfl, rfl, rfl⟩

theorem Ctx.SameStream.trans {k l m : Ctx} (h : k.SameStream l) (g : l.SameStream m) : k.SameStream m :=
  ⟨g.cond.trans h.cond, g.bclk.trans h.bclk, g.pc.trans h.pc, g.hs.trans h.hs, g.infl.trans h.infl, g.allot.trans h.allot,
   g.task.trans h.task, g.priv.trans h.priv, g.xfer.trans h.xfer⟩

theorem writeDest_same (d : Dev) (c : Nat) (e : Entry) : (d.ctx c).SameStream ((writeDest d c e).ctx c) := by
  unfold writeDest
  split
  · exact .refl _
  · rw [Dev.ctx_updCtx]; exact ⟨rfl, rfl, rfl, rfl, rfl, rfl, rfl, rfl, rfl⟩
  · exact .refl _
  · rw [Dev.ctx_updCtx]; exact ⟨rfl, rfl, rfl, rfl, rfl, rfl, rfl, rfl, rfl⟩
  · rw [Dev.ctx_updCtx]; exact ⟨rfl, rfl, rfl, rfl, rfl, rfl, rfl, rfl, rfl⟩

theorem deliver1_same (d : Dev) (c : Nat) (e : Entry) : (d.ctx c).SameStream ((deliver1 d c e).ctx c) := by
  refine (writeDest_same d c e).trans ?_
  unfold deliver1
  rw [Dev.ctx_updCtx]
  exact ⟨by simp, by simp, by simp, by simp, by simp, by simp, by simp, by simp, by simp⟩

theorem deliverAll_same (c : Nat) (l : List Entry) (d : Dev) : (d.ctx c).SameStream ((deliverAll d c l).ctx c) := by
  induction l generalizing d with
  | nil => exact .refl _
  | cons e r ih => exact (deliver1_same d c e).trans (ih _)

/-- Delivery keeps the condition, the clock, the pc, the handler state and the allotments; the entries that were not due
stay in flight. -/
theorem deliverDue_ctx (d : Dev) (c : Nat) :
    ((deliverDue d c).ctx c).cond = (d.ctx c).cond ∧ ((deliverDue d c).ctx c).pc = (d.ctx c).pc ∧
    ((deliverDue d c).ctx c).hs = (d.ctx c).hs ∧ ((deliverDue d c).ctx c).bclk = (d.ctx c).bclk ∧
    ((deliverDue d c).ctx c).allot = (d.ctx c).allot ∧
    ((deliverDue d c).ctx c).infl = (d.ctx c).infl.filter fun e => !e.due := by
  have h1 := deliverAll_same c ((d.ctx c).infl.filter Entry.due) d
  unfold deliverDue
  rw [Dev.ctx_updCtx]
  exact ⟨h1.cond, h1.pc, h1.hs, h1.bclk, h1.allot, rfl⟩

theorem writeDest_frame (d : Dev) (c : Nat) (e : Entry) :
    ∃ a b, writeDest d c e = { d with ctxs := a, vpool := b } := by
  unfold writeDest; split <;> exact ⟨_, _, rfl⟩

theorem deliver1_frame (d : Dev) (c : Nat) (e : Entry) :
    ∃ a b, deliver1 d c e = { d with ctxs := a, vpool := b } := by
  obtain ⟨a, b, h⟩ := writeDest_frame d c e
  exact ⟨_, b, by rw [deliver1, h]; rfl⟩

theorem deliverAll_frame (c : Nat) (l : List Entry) (d : Dev) :
    ∃ a b, deliverAll d c l = { d with ctxs := a, vpool := b } := by
  induction l generalizing d with
  | nil => exact ⟨_, _, rfl⟩
  | cons e r ih =>
    obtain ⟨a, b, h⟩ := deliver1_frame d c e
    obtain ⟨a2, b2, h2⟩ := ih (deliver1 d c e)
    exact ⟨a2, b2, by rw [deliverAll, h2, h]⟩

/-- Delivery changes contexts and vector registers, and nothing else of the device. -/
theorem deliverDue_frame (d : Dev) (c : Nat) : ∃ a b, deliverDue d c = { d with ctxs := a, vpool := b } := by
  obtain ⟨a, b, h⟩ := deliverAll_frame c ((d.ctx c).infl.filter Entry.due) d
  exact ⟨_, b, by rw [deliverDue, h]; rfl⟩

/-! ## One syllable -/

theorem bestHit_nil (h : Option Hit) : bestHit h [] = h := by cases h <;> rfl

namespace Issues

variable {i : Instr} {s : State}

theorem me_resident (h : Issues i s) : s.me.cond = .resident := by
  have := (deliverDue_ctx s.dev s.cur).1
  simpa [State.me, State.ready, h.resident] using this

theorem me_pc (_ : Issues i s) : s.me.pc = (s.dev.ctx s.cur).pc := (deliverDue_ctx s.dev s.cur).2.1

theorem me_hs (_ : Issues i s) : s.me.hs = (s.dev.ctx s.cur).hs := (deliverDue_ctx s.dev s.cur).2.2.1

/-- The bundle that opens at the boundary. -/
theorem opened (h : Issues i s) : openChecks s 8 = { s with dev := s.ready, bundle := some s.opening } := by
  rw [State.opening, h.me_pc]
  simp only [openChecks, openBundle, h.arrived, h.sound, Bool.false_eq_true, Bool.false_and, if_false]; rfl

theorem env_eq (_ : Issues i s) :
    syllableEnv { s with dev := s.ready, bundle := some s.opening } s.opening (encode true i) = s.env i := by
  simp [syllableEnv, State.env, State.opening]

end Issues

/-- What a syllable alone in its bundle comes to: the effect that its checks and its presence leave to decide. -/
theorem syllable_lone {i : Instr} {s : State} {chk : Env → Dev → List Hit} {eff : Env → Dev → Eff} (h : Issues i s) :
    syllable i s chk eff = .next (closeBundle
      (match bestHit none (chk (s.env i) s.ready) with
       | some x => { s with dev := s.ready, bundle := some { s.opening with words := [encode true i], hit := some x } }
       | none =>
         match eff (s.env i) s.ready with
         | .ok w t => { s with dev := w, bundle := some { s.opening with words := [encode true i], target := t } }
         | .stop base hit wt past =>
           let b := { s.opening with words := [encode true i], stop := some ⟨base, hit, wt⟩ }
           { s with dev := past.getD s.ready, bundle := some b })) := by
  have hw : (s.env i).word = encode true i := rfl
  have hc : ∀ l, s.opening.counted l = l := fun _ => rfl
  simp only [syllable, h.closed, h.opened]
  unfold runSyllable
  have e1 : s.opening.words = [] := rfl
  have e2 : s.opening.hit = none := rfl
  have e3 : s.opening.stop = none := rfl
  have e4 : s.opening.target = none := rfl
  have e5 : s.opening.saved = s.ready := rfl
  simp only [e1, hc, List.isEmpty_nil, h.env_eq, formHits, aloneHits, List.getLast?_nil, ite_self, List.nil_append, hw, e5, h.present,
    Bool.false_eq_true, if_false, e2, e3, e4]
  cases bestHit none (chk (s.env i) s.ready) with
  | some x => simp
  | none =>
    simp only [Option.isSome_none, Bool.false_eq_true, if_false]
    cases eff (s.env i) s.ready with
    | ok w t => simp
    | stop base hit wt past => rfl

/-- A syllable that passes its checks and goes on with the device `w` issues: the device is `w` but for the issuing context
and the note its core takes. -/
theorem syllable_issues {i : Instr} {s : State} {chk : Env → Dev → List Hit} {eff : Env → Dev → Eff} {w : Dev} {k : Ctx}
    {t : Option Word} (h : Issues i s) (hc : chk (s.env i) s.ready = [])
    (he : eff (s.env i) s.ready = .ok (w.setCtx s.cur k) t) (hr : k.cond = .resident) (ho : k.outstanding ≤ 32) :
    syllable i s chk eff = .next (s.issue i w k t) := by
  have hk : k.cond ≠ .free := by rw [hr]; decide
  have hw : (w.setCtx s.cur k).ctx s.cur = k := Dev.ctx_setCtx _ _ _
  rw [syllable_lone h, hc, bestHit_nil, he]
  simp only [closeBundle, h.alone, Bool.false_eq_true, if_false, decideStop, hw, State.opening]
  rw [if_neg (by omega)]
  simp only [commit, hw, hr, if_true, noteIssue_setCtx, Dev.updCtx_setCtx _ hk]
  rw [State.issue, h.me_hs]

/-- The same for an effect that leaves the context as the bundle found it but for what `f` does to it. -/
theorem syllable_issues_upd {i : Instr} {s : State} {chk : Env → Dev → List Hit} {eff : Env → Dev → Eff} {f : Ctx → Ctx}
    {t : Option Word} (h : Issues i s) (hc : chk (s.env i) s.ready = [])
    (he : eff (s.env i) s.ready = .ok (s.ready.updCtx s.cur f) t) (hr : (f s.me).cond = .resident)
    (ho : (f s.me).outstanding ≤ 32) : syllable i s chk eff = .next (s.issue i s.ready (f s.me) t) :=
  syllable_issues h hc he hr ho

theorem Dev.setCtx_self {d : Dev} {c : Nat} (h : (d.ctx c).cond ≠ .free) : d.setCtx c (d.ctx c) = d := by
  have : d.ctxs.set c (d.ctxs.get c) = d.ctxs := by
    have h1 : d.ctxs.get c ≠ default := Ctx.ne_default h
    generalize d.ctxs = m at h1
    induction m with
    | nil => exact absurd rfl h1
    | cons x r ih =>
      obtain ⟨i, v⟩ := x
      simp only [SMap.get] at h1 ⊢
      by_cases h2 : c = i
      · subst h2; simp only [if_true] at h1 ⊢; simp [SMap.set, h1]
      · by_cases h3 : c < i
        · simp [h2, h3] at h1
        · simp only [if_neg h2, if_neg h3] at h1 ⊢
          simp [SMap.set, h2, h3, ih h1]
  simp only [Dev.setCtx, Dev.ctx, this]

/-- The same for an effect that changes nothing. -/
theorem syllable_issues_none {i : Instr} {s : State} {chk : Env → Dev → List Hit} {eff : Env → Dev → Eff} {t : Option Word}
    (h : Issues i s) (hc : chk (s.env i) s.ready = []) (he : eff (s.env i) s.ready = .ok s.ready t) :
    syllable i s chk eff = .next (s.issue i s.ready s.me t) := by
  have h1 : s.me.cond ≠ .free := by rw [h.me_resident]; decide
  exact syllable_issues h hc (by rw [he]; exact congrArg (Eff.ok · t) (Dev.setCtx_self h1).symm) h.me_resident h.room

/-- A failed check of a syllable alone in its bundle: the bundle is suppressed and the trap that decides is taken. -/
theorem syllable_traps {i : Instr} {s : State} {chk : Env → Dev → List Hit} {eff : Env → Dev → Eff} {x : Hit}
    (h : Issues i s) (hc : bestHit none (chk (s.env i) s.ready) = some x) :
    syllable i s chk eff = .next (s.trapped x.rec_) := by
  rw [syllable_lone h, hc]
  simp only [closeBundle, h.alone, Bool.false_eq_true, if_false, decideStop, State.opening]
  rfl

/-- A syllable whose effect holds the bundle back: the device is what the effect left, with the wait noted. -/
theorem syllable_waits {i : Instr} {s : State} {chk : Env → Dev → List Hit} {eff : Env → Dev → Eff} {base : Dev} {wt : Wait}
    {past : Option Dev} (h : Issues i s) (hc : chk (s.env i) s.ready = []) (he : eff (s.env i) s.ready = .stop base none wt past) :
    syllable i s chk eff = .next { s with dev := stall base s.cur wt, bundle := none } := by
  rw [syllable_lone h, hc, bestHit_nil, he]
  simp only [closeBundle, State.opening, h.alone, Bool.false_eq_true, if_false, decideStop]

/-- An entry that has its value is not outstanding. -/
theorem Ctx.outstanding_withEntry (k : Ctx) (e : Entry) (h : e.ready = true) : (k.withEntry e).outstanding = k.outstanding := by
  simp [Ctx.outstanding, List.filter_append, h]

/-- An entry still without its value is one more outstanding. -/
theorem Ctx.outstanding_withEntry_waiting (k : Ctx) (e : Entry) (h : e.ready = false) (hf : e.fault = none) :
    (k.withEntry e).outstanding = k.outstanding + 1 := by
  simp [Ctx.outstanding, List.filter_append, h, hf]

/-- A syllable always answers a next state. -/
theorem syllable_next (i : Instr) (s : State) (chk : Env → Dev → List Hit) (eff : Env → Dev → Eff) :
    ∃ t, syllable i s chk eff = .next t := by
  unfold syllable
  split
  · exact ⟨_, rfl⟩
  · dsimp only; split <;> exact ⟨_, rfl⟩

end Sys2Proof.Machine
end

