-- ==== Sys2Proof/Laws/Vector.lean ====
section
/-! SUPPORT. The laws of a scalar and of a vector syllable alone in its bundle. -/

namespace Sys2Proof.Machine

open Sys2Proof

/-- A scalar syllable issues: where its guard is on, one result more is in flight, and otherwise nothing changes. -/
theorem scalarSyl_issues {i : Instr} {s : State} {g : Guard} {lat : Nat} {sd : BitVec 6} {f : Env → Word} (h : Issues i s) :
    scalarSyl i s g lat sd f = .next (s.issue i s.ready
      (if (s.env i).on g then s.me.withEntry ((s.env i).entry lat (s.me.destS sd) (vecOfWord (f (s.env i)))) else s.me) none) := by
  unfold scalarSyl
  cases hon : (s.env i).on g
  · rw [syllable_issues_none (t := none) h rfl (by simp [hon])]; simp
  · rw [syllable_issues_upd (f := fun k => k.withEntry ((s.env i).entry lat (s.me.destS sd) (vecOfWord (f (s.env i))))) (t := none)
      h rfl (by simp [hon]; rfl) h.me_resident]
    · simp
    · rw [Ctx.outstanding_withEntry _ _ rfl]; exact h.room

/-- Two devices differ, for a context, in nothing that decides whether it may issue. -/
def SameIssue (c : Nat) (d e : Dev) : Prop := (d.ctx c).cond = (e.ctx c).cond ∧ (d.ctx c).infl = (e.ctx c).infl

theorem SameIssue.refl (c : Nat) (d : Dev) : SameIssue c d d := ⟨rfl, rfl⟩

theorem SameIssue.trans {c : Nat} {d e f : Dev} (h : SameIssue c d e) (g : SameIssue c e f) : SameIssue c d f :=
  ⟨h.1.trans g.1, h.2.trans g.2⟩

theorem SameIssue.upd {c : Nat} (d : Dev) (f : Ctx → Ctx) (h1 : (f (d.ctx c)).cond = (d.ctx c).cond)
    (h2 : (f (d.ctx c)).infl = (d.ctx c).infl) : SameIssue c d (d.updCtx c f) := by
  constructor <;> simp only [Dev.ctx_updCtx, h1, h2]

theorem popStream_same {w w1 : Dev} {c q : Nat} {v : Vec} {f : Option TrapRec} (h : popStream w c q = some (v, f, w1)) :
    SameIssue c w w1 := by
  simp only [popStream] at h
  split at h
  · cases h
  · cases h; exact SameIssue.upd _ _ rfl rfl

theorem popWord_same {w w1 : Dev} {c : Nat} {v : Vec} (h : popWord w c = some (v, w1)) : SameIssue c w w1 := by
  simp only [popWord] at h
  split at h
  · cases h
  · cases h; exact SameIssue.upd _ _ rfl rfl

theorem readSrcs_same {E : Env} (l : List VOp) {w w1 : Dev} {vs : List Vec} {f : Option TrapRec}
    (h : E.readSrcs l w = some (vs, f, w1)) : SameIssue E.c w w1 := by
  induction l generalizing w w1 vs f with
  | nil => cases h; exact SameIssue.refl _ _
  | cons op r ih =>
    cases op with
    | v n =>
      simp only [Env.readSrcs] at h
      split at h
      · cases h
      · rename_i h1; cases h; exact ih h1
    | y n =>
      simp only [Env.readSrcs] at h
      split at h
      · cases h
      · rename_i h1; cases h; exact ih h1
    | q n =>
      simp only [Env.readSrcs] at h
      split at h
      · cases h
      · rename_i h1
        split at h
        · cases h
        · rename_i h2; cases h; exact (popStream_same h1).trans (ih h2)
    | p n => exact ih h

/-- A vector syllable with a register destination, no failed check, no faulty element and what it reads at hand issues with its
entry in flight. -/
theorem vecSyl_issues {i : Instr} {s : State} {srcs : List VOp} {dst : Option VOp} {random : Env → Bool}
    {extra : Env → Dev → List Hit} {mk : Env → Vec → List Vec → Entry} {vs : List Vec} {w1 w2 : Dev} {rw_ : Vec} (h : Issues i s)
    (hx : extra (s.env i) s.ready = []) (hs : (s.env i).srcsHits s.ready [] srcs = [])
    (hd : (match dst with | some d => (s.env i).dstHits s.ready d | none => []) = []) (hl : (s.env i).latchWaits srcs = false)
    (hr : (s.env i).readSrcs srcs s.ready = some (vs, none, w1)) (hq : ∀ n, dst ≠ some (.q n))
    (hw : (if random (s.env i) then popWord w1 s.cur else some (0, w1)) = some (rw_, w2))
    (he : (mk (s.env i) rw_ vs).ready = true) :
    vecSyl i s srcs dst random extra mk =
      .next (s.issue i w2 ((w2.ctx s.cur).withEntry (mk (s.env i) rw_ vs)) none) := by
  have hsame : SameIssue s.cur s.ready w2 := by
    refine (readSrcs_same srcs hr).trans ?_
    split at hw
    · exact popWord_same hw
    · cases hw; exact SameIssue.refl _ _
  have hout : (w2.ctx s.cur).outstanding = s.me.outstanding := by simp only [Ctx.outstanding, ← hsame.2, State.me]
  have hfull : dst.any (pushFull w1 s.cur) = false := by
    cases dst with
    | none => rfl
    | some d =>
      cases d with
      | q n => exact absurd rfl (hq n)
      | _ => rfl
  unfold vecSyl
  refine syllable_issues h ?_ ?_ ?_ ?_
  · show extra (s.env i) s.ready ++ (s.env i).srcsHits s.ready [] srcs ++ _ = []
    rw [hx, hs]
    cases dst with
    | none => rfl
    | some d => simpa using hd
  · have hc : (s.env i).c = s.cur := rfl
    have hb (k : Dev → (Entry → Entry) → Eff) : beforePush (s.env i) w2 dst k = k w2 id := by
      cases dst with
      | none => rfl
      | some d =>
        cases d with
        | q n => exact absurd rfl (hq n)
        | _ => rfl
    have he : vecEff (s.env i) s.ready srcs dst random mk = .ok (addEntry w2 s.cur (mk (s.env i) rw_ vs)) none := by
      simp only [vecEff, hl, Bool.false_eq_true, if_false, hr, hc, hfull, hw, hb]; rfl
    rw [he]; rfl
  · show (w2.ctx s.cur).cond = _
    rw [← hsame.1]; exact h.me_resident
  · rw [Ctx.outstanding_withEntry _ _ he, hout]; exact h.room

/-- The entries of vector results have their values. -/
@[simp] theorem Env.vecEntry_ready (E : Env) (lat : Nat) (p : Pair) (ws : Bool) (d : VOp) (m r : Vec) (fl : Flags)
    (f : Option TrapRec) : (E.vecEntry lat p ws d m r fl f).ready = true := rfl
@[simp] theorem Env.elemEntry_ready (E : Env) (g : Guard) (lat : Nat) (sl : VSlot) (ws : Bool) (d : VOp) (w : Nat)
    (f : Nat → Nat × Flags) : (E.elemEntry g lat sl ws d w f).ready = true := rfl
@[simp] theorem Env.plainEntry_ready (E : Env) (g : Guard) (lat : Nat) (sl : VSlot) (ws : Bool) (d : VOp) (w : Nat) (r : Vec) :
    (E.plainEntry g lat sl ws d w r).ready = true := rfl
@[simp] theorem Env.oneEntry_ready (E : Env) (g : Guard) (lat : Nat) (sl : VSlot) (ws : Bool) (d : VOp) (w : Nat) (r : Vec)
    (fl : Flags) : (E.oneEntry g lat sl ws d w r fl).ready = true := rfl
@[simp] theorem Env.predEntry_ready (E : Env) (lat w : Nat) (sel : Pred) (d : BitVec 4) (r : Pred) (fl : Flags)
    (f : Option TrapRec) : (E.predEntry lat w sel d r fl f).ready = true := rfl

end Sys2Proof.Machine
end

