-- ==== Sys2Proof/Tests/Slice0.lean ====
section
/-! SUPPORT. Tests of the model: decoding, ill-formed terms, single steps, and witnesses of the statements. -/

namespace Sys2Proof.Tests

open Sys2Proof Sys2Proof.Machine Sys2Proof.Claims

set_option Elab.async false

/-! ## Helpers -/

def g0 : Guard := ⟨false, 0⟩
def off : Guard := ⟨true, 0⟩

/-- A task of job 1 at 0x10000, with every kind of allotment. -/
def task0 : Ctx :=
  { (default : Ctx) with
    cond := .resident, pc := 0x10000#64, serial := 1
    task := { (default : QTask) with job := 1, type := 0 }
    allot := ⟨0x2000, 0x8000, 0x20000, 0x4000, 0, 0x8000, 0x0F#8, 0, 32⟩ }

/-- The reset machine with one task on context 0 of core 0. -/
def base : State :=
  { State.reset with
    dev := { Dev.reset with ctxs := [(0, task0)], cores := [(0, { (default : Core) with primary := 1 })] } }

def upd (f : Ctx → Ctx) (s : State := base) : State := { s with dev := s.dev.updCtx s.cur f }
def dev (f : Dev → Dev) (s : State := base) : State := { s with dev := f s.dev }
def regs (l : List (Nat × Word)) (s : State := base) : State :=
  upd (fun k => { k with sreg := l.foldl (fun m x => SMap.set m x.1 x.2) k.sreg }) s
def sprs (l : List (Nat × Word)) (s : State := base) : State :=
  upd (fun k => { k with spr := l.foldl (fun m x => SMap.set m x.1 x.2) k.spr }) s
def preds (l : List (Nat × Pred)) (s : State := base) : State :=
  upd (fun k => { k with preg := l.foldl (fun m x => SMap.set m x.1 x.2) k.preg }) s

def issuesB (i : Instr) (s : State) : Bool :=
  decide (s.bundle = none) && decide ((s.dev.ctx s.cur).cond = .resident) && !(s.dev.ctx s.cur).dueWaits &&
    decide ((s.dev.ctx s.cur).dueFault = none) && decide (s.me.outstanding ≤ 32) && !slotClash s.dev s.cur [encode true i] &&
    !absentFeature s.ready (encode true i)

theorem issues_of {i : Instr} {s : State} (h : issuesB i s = true) : Issues i s := by
  simp only [issuesB, Bool.and_eq_true, decide_eq_true_eq, Bool.not_eq_true'] at h
  obtain ⟨⟨⟨⟨⟨⟨h1, h2⟩, h3⟩, h4⟩, h5⟩, h6⟩, h7⟩ := h
  exact ⟨h1, h2, h3, h4, h5, h6, h7⟩

/-- The next state of an outcome. -/
def after (o : Out) : State :=
  match o with
  | .next t => t
  | _ => base

/-! ## Decoding: words composed field by field from R47, R56 and each entry of spec/, and the spec's own worked encodings -/

def reads (w : Word) (i : Instr) : Bool :=
  match decode w with
  | .ok j => decide (j = i)
  | .error _ => false

def scalarWords : List (Word × Instr) :=
  [(0x8000000000000000#64, .nop ⟨false, 0⟩),
   (0x80118DF820000000#64, .add ⟨⟨false, 3⟩, 6, 63, 1⟩),
   (0x80218FF840000000#64, .sub ⟨⟨false, 3⟩, 7, 63, 2⟩),
   (0x803191F860000000#64, .and ⟨⟨false, 3⟩, 8, 63, 3⟩),
   (0x804193F880000000#64, .or ⟨⟨false, 3⟩, 9, 63, 4⟩),
   (0x805195F8A0000000#64, .xor ⟨⟨false, 3⟩, 10, 63, 5⟩),
   (0x806197F8C0000000#64, .andn ⟨⟨false, 3⟩, 11, 63, 6⟩),
   (0x807199F8E0000000#64, .shl ⟨⟨false, 3⟩, 12, 63, 7⟩),
   (0x80819BF900000000#64, .shr ⟨⟨false, 3⟩, 13, 63, 8⟩),
   (0x80919DF920000000#64, .sar ⟨⟨false, 3⟩, 14, 63, 9⟩),
   (0x80A19FF940000000#64, .rol ⟨⟨false, 3⟩, 15, 63, 10⟩),
   (0x80D1A5F9A0000000#64, .mul ⟨⟨false, 3⟩, 18, 63, 13⟩)] ++
  [(0x80B0421500040000#64, .min ⟨⟨false, 0⟩, true, 33, 2, 40⟩),
   (0x80C0421500000000#64, .max ⟨⟨false, 0⟩, false, 33, 2, 40⟩),
   (0x80F0421500040000#64, .div ⟨⟨false, 0⟩, true, 33, 2, 40⟩),
   (0x8100421500000000#64, .rem ⟨⟨false, 0⟩, false, 33, 2, 40⟩),
   (0x80E0021060080000#64, .mulh .su ⟨⟨false, 0⟩, 1, 2, 3⟩),
   (0x811978A800000000#64, .clz ⟨⟨true, 2⟩, 60, 21⟩),
   (0x812978A800000000#64, .ctz ⟨⟨true, 2⟩, 60, 21⟩),
   (0x813978A800000000#64, .popc ⟨⟨true, 2⟩, 60, 21⟩),
   (0x8140021076040000#64, .ext true ⟨⟨false, 0⟩, 1, 2, 3⟩ 44),
   (0x8150021060140000#64, .set .geu ⟨⟨false, 0⟩, 1, 2, 3⟩),
   (0x816002107F800000#64, .csel ⟨⟨false, 0⟩, 1, 2, 3⟩ 63),
   (0x81701E28C0100000#64, .setp .ltu ⟨false, 0⟩ 15 5 6)] ++
  [(0x820009F7FFFFFFF0#64, .addi ⟨⟨false, 0⟩, 4, 62, 0xFFFFFFFE#32⟩),
   (0x821009F7FFFFFFF0#64, .andi ⟨⟨false, 0⟩, 4, 62, 0xFFFFFFFE#32⟩),
   (0x822009F7FFFFFFF0#64, .ori ⟨⟨false, 0⟩, 4, 62, 0xFFFFFFFE#32⟩),
   (0x823009F7FFFFFFF0#64, .xori ⟨⟨false, 0⟩, 4, 62, 0xFFFFFFFE#32⟩),
   (0x827009F7FFFFFFF0#64, .muli ⟨⟨false, 0⟩, 4, 62, 0xFFFFFFFE#32⟩),
   (0x829009F7FFFFFFF0#64, .movhi ⟨⟨false, 0⟩, 4, 62, 0xFFFFFFFE#32⟩),
   (0x824009F0000001F8#64, .shli ⟨⟨false, 0⟩, 4, 62, 63⟩),
   (0x825009F0000001F8#64, .shri ⟨⟨false, 0⟩, 4, 62, 63⟩),
   (0x826009F0000001F8#64, .sari ⟨⟨false, 0⟩, 4, 62, 63⟩),
   (0x8280120400000000#64, .movi ⟨false, 0⟩ 9 0x80000000#32),
   (0x82A0124000000039#64, .seti .ne ⟨⟨false, 0⟩, 9, 8, 7⟩)]

theorem test_decode_scalar : (scalarWords.all fun p => reads p.1 p.2) = true := by decide +kernel

def controlWords : List (Word × Instr) :=
  [(0x84000A3300000008#64, .br .ge ⟨false, 0⟩ 5 6 8),
   (0x84118000FFFFFFF0#64, .jmp ⟨false, 3⟩ 0xFFFFFFF0#32),
   (0x84218000FFFFFFF0#64, .call ⟨false, 3⟩ 0xFFFFFFF0#32),
   (0x84518000FFFFFFF0#64, .loop ⟨false, 3⟩ 0xFFFFFFF0#32),
   (0x84307A0000000004#64, .jr ⟨false, 0⟩ 61 4),
   (0x84407A0000000004#64, .callr ⟨false, 0⟩ 61 4),
   (0x84601C1000000040#64, .brp .none ⟨false, 0⟩ 14 64)]

theorem test_decode_control : (controlWords.all fun p => reads p.1 p.2) = true := by decide +kernel

def vectorIntegerWords : List (Word × Instr) :=
  [(0xA0101F256E008400#64, .vadd ⟨⟨false, 0⟩, .vb, false, .v 31, .y 5, .q 7, .i16, true⟩),
   (0xA0201F256E008400#64, .vsub ⟨⟨false, 0⟩, .vb, false, .v 31, .y 5, .q 7, .i16, true⟩),
   (0xA0301F256E008400#64, .vmul ⟨⟨false, 0⟩, .vb, false, .v 31, .y 5, .q 7, .i16, true⟩),
   (0x90503201040D4000#64, .vmac ⟨⟨false, 0⟩, .va, false, .q 2, .v 1, .v 2, .v 3, .n32, false⟩),
   (0x9040038104000000#64, .vmulh ⟨⟨false, 0⟩, .va, true, .v 3, .v 1, .v 2, .i8⟩),
   (0x9060038104000000#64, .vabsd ⟨⟨false, 0⟩, .va, true, .v 3, .v 1, .v 2, .i8⟩),
   (0x9070038104000000#64, .vmin ⟨⟨false, 0⟩, .va, true, .v 3, .v 1, .v 2, .i8⟩),
   (0x9080038104000000#64, .vmax ⟨⟨false, 0⟩, .va, true, .v 3, .v 1, .v 2, .i8⟩),
   (0x9101830104004000#64, .vand ⟨⟨false, 3⟩, .va, false, .v 3, .v 1, .v 2, .n8⟩),
   (0x9111830104004000#64, .vor ⟨⟨false, 3⟩, .va, false, .v 3, .v 1, .v 2, .n8⟩),
   (0x9121830104004000#64, .vxor ⟨⟨false, 3⟩, .va, false, .v 3, .v 1, .v 2, .n8⟩),
   (0x9131830104004000#64, .vandn ⟨⟨false, 3⟩, .va, false, .v 3, .v 1, .v 2, .n8⟩)] ++
  [(0x9141830104004000#64, .vshl ⟨⟨false, 3⟩, .va, false, .v 3, .v 1, .v 2, .n8⟩),
   (0x9151830104004000#64, .vshr ⟨⟨false, 3⟩, .va, false, .v 3, .v 1, .v 2, .n8⟩),
   (0x9161830104004000#64, .vsar ⟨⟨false, 3⟩, .va, false, .v 3, .v 1, .v 2, .n8⟩),
   (0x917003010007D003#64, .vshi .rol ⟨⟨false, 0⟩, .va, false, .v 3, .v 1, .i32⟩ 31)]

theorem test_decode_vectorInteger : (vectorIntegerWords.all fun p => reads p.1 p.2) = true := by decide +kernel

def vectorMoveWords : List (Word × Instr) :=
  [(0xA20059010401C006#64, .vcmp .uo ⟨false, 0⟩ .vb 9 (.v 1) (.v 2) .bf16),
   (0x92105152BE000000#64, .pand ⟨⟨false, 0⟩, .va, 1, 2, 15⟩),
   (0x92205152BE000000#64, .por ⟨⟨false, 0⟩, .va, 1, 2, 15⟩),
   (0x92305152BE000000#64, .pxor ⟨⟨false, 0⟩, .va, 1, 2, 15⟩),
   (0x92405152BE000000#64, .pandn ⟨⟨false, 0⟩, .va, 1, 2, 15⟩),
   (0x9250005424000C01#64, .pcnt true ⟨false, 0⟩ .va 9 4 .n16),
   (0x9260515200000000#64, .pmov ⟨false, 0⟩ .va 1 2),
   (0xA260510200010001#64, .pmovV2P ⟨false, 0⟩ .vb 1 (.v 2) .i32),
   (0x926001D200004002#64, .pmovP2V ⟨false, 0⟩ .va true (.v 1) 2 .n8),
   (0x92800102075E0000#64, .vsel ⟨⟨false, 0⟩, .va, false, .v 1, .v 2, .v 3, .f16⟩ 7),
   (0x9290012000018000#64, .vmov ⟨⟨false, 0⟩, .va, false, .v 1, .y 0, .f32⟩),
   (0x92A0010024000000#64, .vbcst none ⟨false, 0⟩ .va false (.v 1) 9 .i8)] ++
  [(0x92A0010003FF4001#64, .vbcst (some 0xFFD) ⟨false, 0⟩ .va false (.v 1) 0 .i8),
   (0x92B00002240FD001#64, .vext true ⟨false, 0⟩ .va 9 (.v 2) 63 .i32),
   (0x92C00102243FC400#64, .vins ⟨⟨false, 0⟩, .va, false, .v 1, .v 2, .n8⟩ 9 255),
   (0x92D0070010011000#64, .vidx ⟨false, 0⟩ .va false (.v 7) 4 4 .i32)]

theorem test_decode_vectorMove : (vectorMoveWords.all fun p => reads p.1 p.2) = true := by decide +kernel

def vectorFloatWords : List (Word × Instr) :=
  [(0x930185010401EC00#64, .vfadd ⟨⟨false, 3⟩, .va, false, .v 5, .v 1, .v 2, .bf16, .sr, true⟩),
   (0x931185010401EC00#64, .vfsub ⟨⟨false, 3⟩, .va, false, .v 5, .v 1, .v 2, .bf16, .sr, true⟩),
   (0x932185010401EC00#64, .vfmul ⟨⟨false, 3⟩, .va, false, .v 5, .v 1, .v 2, .bf16, .sr, true⟩),
   (0xA330040104123000#64, .vfma ⟨⟨false, 0⟩, .vb, false, .v 4, .v 1, .v 2, .v 4, .f16, .dyn, false⟩),
   (0xA340040104123000#64, .vfms ⟨⟨false, 0⟩, .vb, false, .v 4, .v 1, .v 2, .v 4, .f16, .dyn, false⟩),
   (0x9350040104018000#64, .vfmin ⟨⟨false, 0⟩, .va, false, .v 4, .v 1, .v 2, .f32⟩),
   (0x9360040104018000#64, .vfmax ⟨⟨false, 0⟩, .va, false, .v 4, .v 1, .v 2, .f32⟩),
   (0x9370040100018000#64, .vfabs ⟨⟨false, 0⟩, .va, false, .v 4, .v 1, .f32⟩),
   (0x9380040100018000#64, .vfneg ⟨⟨false, 0⟩, .va, false, .v 4, .v 1, .f32⟩),
   (0x9400040100018000#64, .vrcpa ⟨⟨false, 0⟩, .va, false, .v 4, .v 1⟩),
   (0x9410040100018000#64, .vrsqa ⟨⟨false, 0⟩, .va, false, .v 4, .v 1⟩),
   (0x9420040100018000#64, .vexp2 ⟨⟨false, 0⟩, .va, false, .v 4, .v 1⟩)] ++
  [(0x9430040100018000#64, .vlog2 ⟨⟨false, 0⟩, .va, false, .v 4, .v 1⟩),
   (0x9440070520009800#64, .vgkey ⟨⟨false, 0⟩, .va, false, .v 7, .v 5⟩ 8 2),
   (0x9500030200018017#64, .vcvt ⟨⟨false, 0⟩, .va, false, .v 3, .v 2, .f32⟩ .bf16 .rne false 1),
   (0x951003021805F002#64, .vcbdec ⟨false, 0⟩ .va false (.v 3) (.v 2) 6 .f16 3 5),
   (0x9520030202018802#64, .vscale ⟨⟨false, 0⟩, .va, false, .v 3, .v 2, .v 1, .f32, .rtz, false⟩ .b32)]

theorem test_decode_vectorFloat : (vectorFloatWords.all fun p => reads p.1 p.2) = true := by decide +kernel

def vectorPermuteWords : List (Word × Instr) :=
  [(0x9600030202258000#64, .vtlu ⟨⟨false, 0⟩, .va, false, .v 3, .v 2, .v 1, .f32⟩ (some (.v 9))),
   (0x9600030202018001#64, .vtlu ⟨⟨false, 0⟩, .va, false, .v 3, .v 2, .v 1, .f32⟩ none),
   (0x9610030207FFC000#64, .vrot ⟨⟨false, 0⟩, .va, false, .v 3, .v 2, .i8⟩ 1 4095),
   (0x9620030202248000#64, .vshuf ⟨⟨false, 0⟩, .va, false, .v 3, .v 2, .v 1, .i16⟩ .table (some (.v 9))),
   (0x9620030202008004#64, .vshuf ⟨⟨false, 0⟩, .va, false, .v 3, .v 2, .v 1, .i16⟩ .odd none),
   (0x9700030201548400#64, .vredsum ⟨⟨false, 0⟩, .va, false, .v 3, .v 2, 5, .i16⟩ true),
   (0x9710030201558000#64, .vredmax ⟨⟨false, 0⟩, .va, false, .v 3, .v 2, 5, .f32⟩),
   (0x9720030201558000#64, .vredmin ⟨⟨false, 0⟩, .va, false, .v 3, .v 2, 5, .f32⟩),
   (0x973006041C015801#64, .vmaxi ⟨⟨false, 0⟩, .va, false, true, .v 6, .v 4, 7, 5⟩),
   (0x974006041C015801#64, .vmini ⟨⟨false, 0⟩, .va, false, true, .v 6, .v 4, 7, 5⟩),
   (0x97800301040E400A#64, .vdot ⟨false, 0⟩ .va false (.v 3) (.v 1) (.v 2) (.v 3) .e4m3 .e5m2)]

theorem test_decode_vectorPermute : (vectorPermuteWords.all fun p => reads p.1 p.2) = true := by decide +kernel

def tileWords : List (Word × Instr) :=
  [(0xB010021400800000#64, .tld ⟨false, 0⟩ 1 2 4),
   (0xB020040830001500#64, .tew .mul ⟨false, 0⟩ .sr 2 1 3),
   (0xB030040800601100#64, .tews .rsub ⟨false, 0⟩ .rtz 2 1 3),
   (0xB040040800003000#64, .tfn .log2 ⟨false, 0⟩ 2 1),
   (0xB050040800C00000#64, .tmap ⟨false, 0⟩ 2 1 6),
   (0xB0700018415F8600#64, .tmma ⟨false, 0⟩ true true 3 4 10 63),
   (0xB090003800000081#64, .tforce ⟨false, 0⟩ 7 0x81),
   (0xB090000001408800#64, .tforceLink ⟨false, 0⟩ 10 1),
   (0xB0A0001000000000#64, .tdrop ⟨false, 0⟩ 2),
   (0xB0B0080800000000#64, .tmov ⟨false, 0⟩ 4 1),
   (0xB0C00A0001400000#64, .chclose ⟨false, 0⟩ 5 10),
   (0xB06004080000CC00#64, .tcvt .e4m3 ⟨false, 0⟩ .rna true 2 1)] ++
  [(0xB080001848A00004#64, .tst ⟨false, 0⟩ 4 5 3 4)]

theorem test_decode_tile : (tileWords.all fun p => reads p.1 p.2) = true := by decide +kernel

def onChipWords : List (Word × Instr) :=
  [(0xC010122000001200#64, .lds false ⟨false, 0⟩ 9 ⟨8, 0, .cluster⟩ .w32),
   (0xD010140000C10200#64, .sts ⟨false, 0⟩ 10 ⟨0, 0x304, .spad⟩ .w32),
   (0xC0300913FFC00C00#64, .vldl ⟨false, 0⟩ (.v 9) 4 0xFFF00),
   (0xD030311000400C00#64, .vstl ⟨false, 0⟩ (.q 1) 4 0x100),
   (0xC020091000401CFE#64, .vld ⟨false, 0⟩ (.v 9) ⟨4, 0x100, .die⟩ .g8 63),
   (0xD020241000400421#64, .vst ⟨false, 0⟩ (.y 4) ⟨4, 0x100, .spad⟩ .g16 8),
   (0xC050091000009100#64, .vldb ⟨false, 0⟩ (.v 9) ⟨4, 2, .cluster⟩ .w16),
   (0xC0400913FFFF0222#64, .vgth ⟨false, 0⟩ (.v 9) 4 0xFFFFC (.y 2)),
   (0xD0400913FFFF0203#64, .vsct ⟨false, 0⟩ (.v 9) 4 0xFFFFC (.v 3)),
   (0xC010122000000901#64, .lds true ⟨false, 0⟩ 9 ⟨8, 0, .lane⟩ .w16)]

theorem test_decode_onChip : (onChipWords.all fun p => reads p.1 p.2) = true := by decide +kernel

def globalWords : List (Word × Instr) :=
  [(0xC0600C2000320000#64, .ldg .d ⟨false, 0⟩ .pkg 6 4),
   (0xD060002120140000#64, .stg .w32 ⟨false, 0⟩ .die 4 9),
   (0xD0700E20A0400000#64, .amo ⟨⟨false, 0⟩, .fadd, 7, 4, 5, 0⟩ .dom),
   (0xD0500E20A3580000#64, .amol ⟨⟨false, 0⟩, .casw, 7, 4, 5, 6⟩),
   (0xD0800020A0300000#64, .red .maxF32 ⟨false, 0⟩ .dom 4 5)]

theorem test_decode_global : (globalWords.all fun p => reads p.1 p.2) = true := by decide +kernel

def engineWords : List (Word × Instr) :=
  [(0xE010180240008000#64, .cpy ⟨⟨false, 0⟩, true, 18, 12⟩),
   (0xE020180247000000#64, .subs ⟨⟨false, 0⟩, false, 18, 12⟩ 7),
   (0xE030000247008000#64, .unsub ⟨false, 0⟩ true 18 7),
   (0xE0400000E1FF0000#64, .rrel ⟨false, 0⟩ false 7 1 255),
   (0xE0500000E1020000#64, .rfin ⟨false, 0⟩ false 7 1 2),
   (0xE0600600E5000000#64, .strb ⟨⟨false, 0⟩, false, 7, 3⟩ 5),
   (0xE0700000E5000000#64, .stru ⟨false, 0⟩ false 7 5),
   (0xE0800000E03F8000#64, .qfence ⟨false, 0⟩ true 7 0x3F),
   (0xE0900800E2008000#64, .cttset ⟨⟨false, 0⟩, true, 7, 4⟩ false 2),
   (0xE0B00850E0000000#64, .chbuild ⟨⟨false, 0⟩, false, 7, 4⟩ 10),
   (0xE0C02450E0010000#64, .chsplice ⟨⟨false, 0⟩, false, 7, 18⟩ 10 1),
   (0xE0D00050E0000000#64, .chresume ⟨⟨false, 0⟩, false, 7, 10⟩)] ++
  [(0xE0E00050E0008000#64, .chfree ⟨⟨false, 0⟩, true, 7, 10⟩),
   (0xE1100048E0008000#64, .gstep ⟨⟨false, 0⟩, true, 7, 9⟩),
   (0xE0900800FF000001#64, .cttset ⟨⟨false, 0⟩, false, 7, 4⟩ true 31),
   (0xE0A0000122008000#64, .cttrdy ⟨false, 0⟩ true 9 2),
   (0xE0A0000122000001#64, .cttrdyQ ⟨false, 0⟩ 9 2),
   (0xE1000830E0000400#64, .gload ⟨⟨false, 0⟩, false, 7, 4⟩ 6 1024),
   (0xE1200828E0808001#64, .gmask true ⟨⟨false, 0⟩, true, 7, 4⟩ 5 128)]

theorem test_decode_engine : (engineWords.all fun p => reads p.1 p.2) = true := by decide +kernel

def systemWords : List (Word × Instr) :=
  [(0xF0100000007E001D#64, .fence ⟨false, 0⟩ (some .die) (some 0x3F) true),
   (0xF0200038000A0000#64, .waitT ⟨false, 0⟩ 7 5),
   (0xF020123900000001#64, .waitGe ⟨false, 0⟩ 9 7 8),
   (0xF0301200001E0000#64, .signal ⟨false, 0⟩ 9 15),
   (0xF0401200001E0000#64, .bar ⟨false, 0⟩ 9 15),
   (0xF040004800040001#64, .barSet ⟨false, 0⟩ 9 2),
   (0xF0500E2000000000#64, .spawn ⟨false, 0⟩ 7 4),
   (0xF060000000000000#64, .yield ⟨false, 0⟩),
   (0xF070000000000000#64, .halt ⟨false, 0⟩),
   (0xF080002800240000#64, .trap ⟨false, 0⟩ 5 0x12),
   (0xF090000000000000#64, .tret ⟨false, 0⟩),
   (0xF0A0000000000000#64, .cret ⟨false, 0⟩)] ++
  [(0xF0B0100001400000#64, .rds ⟨false, 0⟩ 8 0x0A0),
   (0xF0C0004800C40000#64, .wrs ⟨false, 0⟩ 9 0x062),
   (0xF0D01250007E0000#64, .chstat ⟨false, 0⟩ 9 10 63),
   (0xF0D01200000E0001#64, .chstatSlot ⟨false, 0⟩ 9 7),
   (0xF0E0002000120000#64, .tidset ⟨false, 0⟩ 9 4),
   (0xF0E00000007E0001#64, .tidsetInv ⟨false, 0⟩ 63),
   (0xF0E0002000060002#64, .tidsetCb ⟨false, 0⟩ 3 4),
   (0xF0F0002800000000#64, .frwait ⟨false, 0⟩ 5),
   (0xF0F0002800000001#64, .frwaitFrame ⟨false, 0⟩ 5),
   (0xF100002800000000#64, .cancel ⟨false, 0⟩ 5)]

theorem test_decode_system : (systemWords.all fun p => reads p.1 p.2) = true := by decide +kernel

def exampleWords : List (Word × Instr) :=
  [(0x8200082000000200#64, .addi ⟨⟨false, 0⟩, 4, 4, 64⟩),
   (0x8450000000000000#64, .loop ⟨false, 0⟩ 0),
   (0xF0E0002000120000#64, .tidset ⟨false, 0⟩ 9 4),
   (0xD0700A30E4500000#64, .amo ⟨⟨false, 0⟩, .cas, 5, 6, 7, 8⟩ .dom),
   (0xE0400000E1028000#64, .rrel ⟨false, 0⟩ true 7 1 2),
   (0xC020091000401420#64, .vld ⟨false, 0⟩ (.v 9) ⟨4, 0x100, .cluster⟩ .g32 8),
   (0x84000A32FFFFFFC0#64, .br .lt ⟨false, 0⟩ 5 6 0xFFFFFFC0#32),
   (0x81701228C0080000#64, .setp .lt ⟨false, 0⟩ 9 5 6),
   (0xB010021400800000#64, .tld ⟨false, 0⟩ 1 2 4),
   (0xB050040800C00000#64, .tmap ⟨false, 0⟩ 2 1 6),
   (0xB030040800601800#64, .tews .mul ⟨false, 0⟩ .rne 2 1 3),
   (0xB070001841408000#64, .tmma ⟨false, 0⟩ false false 3 4 10 1)] ++
  [(0xE0B00850E0000000#64, .chbuild ⟨⟨false, 0⟩, false, 7, 4⟩ 10),
   (0xE0C02450E0010000#64, .chsplice ⟨⟨false, 0⟩, false, 7, 18⟩ 10 1),
   (0xE0A0000122000001#64, .cttrdyQ ⟨false, 0⟩ 9 2),
   (0xE1000830E0000002#64, .gload ⟨⟨false, 0⟩, false, 7, 4⟩ 6 2),
   (0xE1200828E0010001#64, .gmask true ⟨⟨false, 0⟩, false, 7, 4⟩ 5 1),
   (0xF0100000007E0019#64, .fence ⟨false, 0⟩ (some .dom) (some 0x3F) true),
   (0xF0F0002800000000#64, .frwait ⟨false, 0⟩ 5),
   (0xF080002800240000#64, .trap ⟨false, 0⟩ 5 0x12),
   (0xF0B0100001400000#64, .rds ⟨false, 0⟩ 8 0x0A0),
   (0xF0C0004800C40000#64, .wrs ⟨false, 0⟩ 9 0x062),
   (0xE010180240008000#64, .cpy ⟨⟨false, 0⟩, true, 18, 12⟩),
   (0x9440070520009800#64, .vgkey ⟨⟨false, 0⟩, .va, false, .v 7, .v 5⟩ 8 2)] ++
  [(0x97800301040E4009#64, .vdot ⟨false, 0⟩ .va false (.v 3) (.v 1) (.v 2) (.v 3) .e4m3 .e4m3),
   (0xC0600C2000300000#64, .ldg .d ⟨false, 0⟩ .dom 6 4),
   (0xD010004400000100#64, .sts ⟨false, 0⟩ 0 ⟨17, 0, .spad⟩ .w16)]

theorem test_decode_example : (exampleWords.all fun p => reads p.1 p.2) = true := by decide +kernel

/-! ## Witnesses: for each statement with hypotheses, states and operands that meet them (expected values are the statements') -/

theorem reads_ok {w : Word} {i : Instr} (h : reads w i = true) : decode w = .ok i := by
  simp only [reads] at h
  split at h
  · rename_i j hj; rw [hj, of_decide_eq_true h]
  · cases h

def add1 : ScR3 := ⟨g0, 3, 4, 5⟩
def ar1 : VAr := ⟨g0, .va, false, .v 31, .v 0, .v 1, .i32, true⟩

theorem witness_DecodeEncodeRoundTrip :
    (Instr.vshi .rol ⟨g0, .va, false, .v 3, .v 1, .i32⟩ 31).wf = true ∧ (Instr.gload ⟨g0, false, 7, 4⟩ 6 1024).wf = true := by decide

theorem witness_DecodeAcceptsOnlyEncodings : decode 0x8200082000000200#64 = .ok (.addi ⟨g0, 4, 4, 64⟩) :=
  reads_ok (by decide +kernel)

/-- A word of each kind that is not an instruction: an unassigned opcode, a nonzero zero field, the pad. -/
theorem witness_DecodeSortsEveryWord :
    (match decode 0x8180000000000000#64, decode 0x8010000000000001#64, decode (BitVec.allOnes 64) with
     | .error .illegalOpcode, .error .illegalOperand, .error .pad => true
     | _, _, _ => false) = true ∧
    inMap 0 0x18 = false ∧ inMap 0 0x17 = true ∧ inMap 7 0xFE = false ∧ inMap 7 0xFF = true := by decide +kernel

/-- A bundle that is open with one syllable, and one that a check has failed. -/
def openAt (s : State) (ws : List Word) (h : Option Hit) : State :=
  { s with bundle := some ⟨s.dev, s.ready, 0x10000, 16, ws, h, none, none⟩ }

theorem witness_StepRunsDecoded_open : (openAt base [] none).bundle.isSome = true ∧ base.bundle = none ∧ base.agenda = [] := by decide +kernel

/-- A machine whose context 0 is about to run, its turn next. -/
def running : State :=
  { upd (fun k => { k with priv := true, xfer := some (0, 0x10000#64) }) with agenda := [.run 0] }

/-- Words, and a pad, in memory where the context at the pc of the reset machine's first turn fetches. -/
def code (ws : List Word) : State :=
  let s := State.reset.withFetchWord 64 0
  dev (fun d => { d with gmem := wrMem d.gmem ((fetchPa s.dev s.cur).getD 0) ((ws ++ [BitVec.allOnes 64]).flatMap fun w => littleEndian 8 w.toNat) }) s
/-- What the fetch of context 0 gives. -/
def fetched (s : State) : Option (Word × List Word) :=
  match fetchBundle (reportDemands s.dev 0) 0 with
  | .bundle _ a ws => some (a, ws)
  | _ => none

theorem witness_StepRunsDecoded_fetch :
    let w1 := encode true (.add add1)
    let w2 := encode false (.vadd ar1)
    (let s := code [w1]
     s.bundle = none ∧ s.agenda = [.run 0] ∧ mayIssue s.dev 0 = true ∧ nextDivert (reportDemands s.dev 0) 0 = .none ∧
       ((reportDemands s.dev 0).ctx 0).dueWaits = false ∧ (fetched s).map Prod.snd = some [w1] ∧ reads w1 (.add add1) = true) ∧
    (let s := code [w1, w2]
     mayIssue s.dev 0 = true ∧ nextDivert (reportDemands s.dev 0) 0 = .none ∧ (fetched s).map Prod.snd = some [w1, w2] ∧
       reads w2 (.vadd ar1) = true ∧ (openBundle { s with cur := 0, agenda := [] } 16).bundle.isSome = true) := by decide +kernel

theorem witness_StepsGoOnAndTurnsEnd : running.bundle = none ∧ running.agenda = [.run 0] ∧
    (match step running with | .next t => t.bundle.isNone | _ => false) = true := by decide +kernel

theorem witness_BundlesOpenAndIssue_issue : let s := openAt base [encode true (.add add1)] none
    ∃ b, s.bundle = some b ∧ slotClash b.pre s.cur b.words = false ∧ b.hit = none ∧ b.stop = none ∧
      (s.dev.ctx s.cur).cond = .resident ∧ (s.dev.ctx s.cur).outstanding ≤ 32 := ⟨_, rfl, by decide +kernel⟩

theorem witness_BundlesOpenAndIssue_trap : let s := openAt base [encode true (.add add1)] (some ⟨2, 0, default, false⟩)
    ∃ b h, s.bundle = some b ∧ slotClash b.pre s.cur b.words = false ∧ b.hit = some h ∧ b.stop = none :=
  ⟨_, _, rfl, by decide +kernel, rfl, by decide +kernel⟩

/-- A result due at the boundary: without its value, faulty, or ready for s3. -/
def dueEntry (ready : Bool) (f : Option TrapRec) : Entry :=
  { (default : Entry) with dest := .scalar 3, val := 7, ready := ready, rem := 0, fault := f }

theorem witness_BundlesOpenAndIssue_due :
    let s1 := upd fun k => { k with infl := [dueEntry false none] }
    let r : TrapRec := { (default : TrapRec) with cause := 0x0D }
    let s2 := upd fun k => { k with infl := [dueEntry true none, dueEntry true (some r)] }
    (Instr.add add1).wf = true ∧ s1.bundle = none ∧ (s1.dev.ctx s1.cur).dueWaits = true ∧
    s2.bundle = none ∧ (s2.dev.ctx s2.cur).dueWaits = false ∧ (s2.dev.ctx s2.cur).dueFault = some (dueEntry true (some r)) ∧
    (dueEntry true (some r)).fault = some r ∧
    (let s := upd fun k => { k with infl := [dueEntry false none, dueEntry true (some r)] }
     s.bundle = none ∧ (s.dev.ctx s.cur).dueWaits = true ∧ (s.dev.ctx s.cur).dueFault ≠ none) ∧
    (let s := dev (fun d => { d with cores := [(0, { (default : Core) with primary := 2, secondary := 1, slots := 0xFF, at_ := d.cycle })] }) s1
     s.bundle = none ∧ (s.dev.ctx s.cur).dueWaits = true ∧ (s.dev.ctx s.cur).dueFault = none ∧
       slotClash s.dev s.cur [encode true (.add add1)] = true) := by decide +kernel

/-- The allotment of `base` holds v31; one of eight registers does not. -/
theorem witness_BundlesOpenAndIssue_checks :
    let s := upd fun k => { k with infl := [dueEntry false none] }
    ar1.d = .v 31 ∧ ar1.a = .v 0 ∧ ar1.b = .v 1 ∧ s.bundle = none ∧ (s.dev.ctx s.cur).dueWaits = true ∧
    (s.dev.ctx s.cur).dueFault = none ∧ slotClash s.dev s.cur [encode true (.vadd ar1)] = false ∧
    (31#5).toNat < (s.dev.ctx s.cur).allot.vSize ∧
    ¬ (31#5).toNat < ((upd (fun k => { k with allot := { k.allot with vSize := 8 } }) s).dev.ctx 0).allot.vSize := by
  decide +kernel

theorem witness_SourcesAreReadBeforeResults :
    let s := openAt base [encode true (.add add1)] none
    ∃ u, s.bundle = some u ∧ u.words ≠ [] ∧ u.hit = none ∧ u.stop = none ∧
      (∀ w, u.words.getLast? = some w → bits w 60 3 < bits (encode false (.vadd ar1)) 60 3) ∧
      (31#5).toNat < (u.saved.ctx s.cur).allot.vSize ∧ ar1.d = .v 31 ∧ ar1.a = .v 0 ∧ ar1.b = .v 1 :=
  ⟨_, rfl, by decide +kernel, by decide +kernel, by decide +kernel, by intro w h; cases h; decide +kernel, by decide +kernel, rfl, rfl, rfl⟩

theorem witness_ScalarResults : ∃ f, scalarForm (.add add1) = some f ∧ Issues (.add add1) base ∧
    (guardOn base.me f.g = true → f.defined base.me) := ⟨_, rfl, issues_of (by decide +kernel), fun _ => trivial⟩

theorem witness_ScalarResults_setp : Issues (.setp .geu ⟨true, 0⟩ 15 5 6) base ∧ Issues (.nop off) base :=
  ⟨issues_of (by decide +kernel), issues_of (by decide +kernel)⟩

def div1 (u : Bool) : ScR3u := ⟨g0, u, 0, 4, 5⟩

/-- The pair −2^63 and −1; a zero divisor; an unsigned division; a guard that is off. -/
theorem witness_DivisionRoundsTowardZero :
    (let s := regs [(4, 0x8000000000000000#64), (5, 0xFFFFFFFFFFFFFFFF#64)]
     Issues (.div (div1 false)) s ∧ Issues (.rem (div1 false)) s ∧ guardOn s.me g0 = true ∧ s.me.rdS 5 ≠ 0 ∧
       (s.me.rdS 4).toInt = -2 ^ 63 ∧ (s.me.rdS 5).toInt = -1) ∧
    (Issues (.div (div1 true)) base ∧ Issues (.rem (div1 true)) base ∧ guardOn base.me g0 = true ∧ base.me.rdS 5 = 0) ∧
    (let s := regs [(4, 0xFFFFFFFFFFFFFFF9#64), (5, 2#64)]
     Issues (.div (div1 true)) s ∧ Issues (.rem (div1 true)) s ∧ s.me.rdS 5 ≠ 0) ∧
    (Issues (.div ⟨off, false, 3, 4, 5⟩) base ∧ Issues (.rem ⟨off, false, 3, 4, 5⟩) base ∧ guardOn base.me off = false) :=
  ⟨⟨issues_of (by decide +kernel), issues_of (by decide +kernel), by decide +kernel⟩,
   ⟨issues_of (by decide +kernel), issues_of (by decide +kernel), by decide +kernel⟩,
   ⟨issues_of (by decide +kernel), issues_of (by decide +kernel), by decide +kernel⟩,
   ⟨issues_of (by decide +kernel), issues_of (by decide +kernel), by decide +kernel⟩⟩

theorem witness_TransfersIssue :
    (∃ f, transferForm (.br .lt g0 5 6 0xFFFFFFC0#32) = some f ∧ Issues (.br .lt g0 5 6 0xFFFFFFC0#32) base ∧
      (Instr.isRegisterTransfer (.br .lt g0 5 6 0xFFFFFFC0#32) = true → (f.target base.me).toNat % 8 = 0)) ∧
    (∃ f, transferForm (.callr off 61 8) = some f ∧ Issues (.callr off 61 8) base ∧
      (Instr.isRegisterTransfer (.callr off 61 8) = true → (f.target base.me).toNat % 8 = 0)) ∧
    (∃ f, transferForm (.jr off 61 7) = some f ∧ Issues (.jr off 61 7) base ∧ Instr.isRegisterTransfer (.jr off 61 7) = true ∧
      (f.target base.me).toNat % 8 ≠ 0) :=
  ⟨⟨_, rfl, issues_of (by decide +kernel), by decide +kernel⟩, ⟨_, rfl, issues_of (by decide +kernel), by decide +kernel⟩,
   ⟨_, rfl, issues_of (by decide +kernel), by decide +kernel⟩⟩

theorem witness_LoopTurns : let i := Instr.loop g0 0xFFFFFFF8#32
    (Issues (.loop off 0) base ∧ base.me.allot.vSize = 32 ∧ guardOn base.me off = false) ∧
    (let s := sprs [(0x010, 1)]; Issues i s ∧ s.me.allot.vSize = 32 ∧ guardOn s.me g0 = true ∧ 0 < (s.me.spr' 0x010).toNat) ∧
    (let s := sprs [(0x011, 1)]
     Issues i s ∧ s.me.allot.vSize = 32 ∧ (s.me.spr' 0x010).toNat = 0 ∧ 0 < (s.me.spr' 0x011).toNat) ∧
    (Issues i base ∧ (base.me.spr' 0x010).toNat = 0 ∧ (base.me.spr' 0x011).toNat = 0) ∧
    (let s := upd fun k => { k with allot := { k.allot with vSize := 31 } }; Issues i s ∧ s.me.allot.vSize ≠ 32) :=
  ⟨⟨issues_of (by decide +kernel), by decide +kernel⟩, ⟨issues_of (by decide +kernel), by decide +kernel⟩,
   ⟨issues_of (by decide +kernel), by decide +kernel⟩, ⟨issues_of (by decide +kernel), by decide +kernel⟩,
   ⟨issues_of (by decide +kernel), by decide +kernel⟩⟩

/-! ### Traps and special registers -/

theorem witness_TrapsAreRouted :
    (let s := sprs [(0x05A, 0xBFF7BFE#64), (0x050, 0x20000#64)]
     (((s.dev.ctx 0).spr' 0x05A).getLsbD 0x0B = true ∧ (s.dev.ctx 0).spr' 0x050 ≠ 0 ∧ (s.dev.ctx 0).hs = .stream)) ∧
    ¬ ((((base.dev.ctx 0).spr' 0x05A).getLsbD 0x0A = true) ∧ (base.dev.ctx 0).spr' 0x050 ≠ 0 ∧
      ((base.dev.ctx 0).hs = .stream ∨ (base.dev.ctx 0).hs = .cue)) := by decide +kernel

def soft : TrapRec := { (default : TrapRec) with cause := 0x19 }

theorem witness_DiversionsAreTakenInOrder :
    Issues (.trap g0 5 0xFFF) base ∧
    (let s := upd fun k => { k with post := SMap.set [] 0 (some soft) }
     s.bundle = none ∧ nextDivert (reportDemands s.dev 0) 0 = .post soft ∧ (s.dev.ctx 0).susp = none ∧ (s.dev.ctx 0).dueFault = none) ∧
    (let e := dueEntry true (some soft)
     let s := upd fun k => { k with infl := [e] }
     nextDivert (reportDemands s.dev 0) 0 = .result e soft ∧ (s.dev.ctx 0).dueFault = some e ∧ e.fault = some soft ∧
       (s.dev.ctx 0).dueWaits = false) ∧
    (let s := upd fun k => { k with asyncs := [soft] }
     nextDivert (reportDemands s.dev 0) 0 = .async soft ∧ (s.dev.ctx 0).post.get (s.dev.ctx 0).hs.code = none ∧
       (s.dev.ctx 0).asyncs = [soft]) ∧
    (let s := sprs [(0x060, 0x30000#64), (0x061, 0x101#64), (0x062, 1#64)]
     nextDivert (reportDemands s.dev 0) 0 = .cue ∧ (s.dev.ctx 0).asyncs = [] ∧ (s.dev.ctx 0).cond = .resident) :=
  ⟨issues_of (by decide +kernel), by decide +kernel, by decide +kernel, by decide +kernel, by decide +kernel⟩

/-- A context in a handler, with one entry of its stream. -/
def inHandler (h : HS) (e : Entry) (l : List (Nat × Word)) : State := sprs l (upd fun k => { k with hs := h, infl := [e] })
def later (ready : Bool) (f : Option TrapRec) : Entry := { dueEntry ready f with rem := 1 }

theorem witness_ReturnsRestoreTheStream :
    (let s := inHandler .trapInCue (later true none) [(0x052, 0x20000#64)]
     Issues (.tret g0) s ∧ guardOn s.me g0 = true ∧ s.me.hs = .trapInCue ∧ (s.me.spr' 0x053 &&& 0xFFFFFFFFFF00FFF0#64) = 0 ∧
       (∀ e ∈ s.me.infl, e.ready = true ∧ e.fault = none) ∧ (s.me.gTrap.filter fun e => !e.ready && e.fault.isNone).length ≤ 32) ∧
    (let s := inHandler .cue (later true none) []
     Issues (.cret g0) s ∧ s.me.hs = .cue ∧ (∀ e ∈ s.me.infl, e.ready = true ∧ e.fault = none) ∧
       (s.me.gCue.filter fun e => !e.ready && e.fault.isNone).length ≤ 32) ∧
    (Issues (.tret off) base ∧ Issues (.cret off) base ∧ guardOn base.me off = false) ∧
    (Issues (.tret g0) base ∧ Issues (.cret g0) base ∧ base.me.hs ≠ .trap ∧ base.me.hs ≠ .trapInCue ∧ base.me.hs ≠ .cue) ∧
    (let s := inHandler .trap (later true none) [(0x053, 0x10#64)]
     Issues (.tret g0) s ∧ s.me.hs = .trap ∧ (s.me.spr' 0x053 &&& 0xFFFFFFFFFF00FFF0#64) ≠ 0) ∧
    (let s := inHandler .trap (later false none) []
     Issues (.tret g0) s ∧ s.me.hs = .trap ∧ ∃ e ∈ s.me.infl, e.ready = false ∧ e.fault = none) ∧
    (let s := inHandler .cue (later true (some soft)) []
     Issues (.cret g0) s ∧ s.me.hs = .cue ∧ (∀ x ∈ s.me.infl, x.ready = true ∨ x.fault ≠ none) ∧
       s.me.infl.find? (fun x => x.fault.isSome) = some (later true (some soft))) :=
  ⟨⟨issues_of (by decide +kernel), by decide +kernel⟩, ⟨issues_of (by decide +kernel), by decide +kernel⟩,
   ⟨issues_of (by decide +kernel), issues_of (by decide +kernel), by decide +kernel⟩,
   ⟨issues_of (by decide +kernel), issues_of (by decide +kernel), by decide +kernel⟩,
   ⟨issues_of (by decide +kernel), by decide +kernel⟩, ⟨issues_of (by decide +kernel), by decide +kernel⟩,
   ⟨issues_of (by decide +kernel), by decide +kernel⟩⟩

theorem witness_SpecialRegistersReadAndWrite :
    ((Instr.rds g0 8 0x0E1).wf = true ∧ Issues (.rds g0 8 0x0E1) base ∧ (0x0E1 ∈ privileged → base.me.privNow = true)) ∧
    (let s := upd fun k => { k with priv := true }
     (Instr.wrs g0 9 0x0D0).wf = true ∧ Issues (.wrs g0 9 0x0D0) s ∧ wrsAllowed s.me 0x0D0 (s.me.rdS 9)) ∧
    (let s := sprs [(0x041, 0x20000#64)] (upd fun k => { k with priv := true })
     Issues (.wrs g0 9 0x0E0) s ∧ wrsAllowed s.me 0x0E0 (s.me.rdS 9)) ∧
    (Issues (.rds g0 8 0x040) base ∧ Issues (.wrs g0 8 0x0E0) base ∧ 0x040 ∈ privileged ∧ base.me.privNow = false) ∧
    (let s := regs [(9, 7)]; Issues (.wrs g0 9 0x063) s ∧ (s.me.rdS 9).toNat % 8 ≠ 0) ∧
    (let s := regs [(9, 128)] (upd fun k => { k with priv := true })
     Issues (.wrs g0 9 0x0E0) s ∧ s.me.privNow = true ∧ (s.me.rdS 9).toNat % 256 ≠ 0) ∧
    (let s := sprs [(0x040, 0x200000#64), (0x041, 0x200000#64)] (regs [(9, 0x3E0100#64)] (upd fun k => { k with priv := true }))
     Issues (.wrs g0 9 0x0E0) s ∧ s.me.privNow = true ∧ (s.me.rdS 9).toNat % 256 = 0 ∧
       (s.me.spr' 0x040).toNat + (s.me.spr' 0x041).toNat < (s.me.rdS 9).toNat + 0x20000) :=
  ⟨⟨by decide, issues_of (by decide +kernel), by decide +kernel⟩,
   ⟨by decide, issues_of (by decide +kernel), by decide +kernel, by decide +kernel, by decide +kernel⟩,
   ⟨issues_of (by decide +kernel), by decide +kernel, by decide +kernel, by decide +kernel⟩,
   ⟨issues_of (by decide +kernel), issues_of (by decide +kernel), by decide +kernel⟩,
   ⟨issues_of (by decide +kernel), by decide +kernel⟩, ⟨issues_of (by decide +kernel), by decide +kernel⟩,
   ⟨issues_of (by decide +kernel), by decide +kernel⟩⟩

/-! ### Vector results and operands -/

/-- What the statement of vector results asks of an instruction and a state, as one question. -/
def vecReady (i : Instr) (s : State) : Bool :=
  match vectorForm i with
  | some o => i.wf && issuesB i s && decide ((s.env i).srcsHits s.ready [] o.srcs = []) && !(s.env i).latchWaits o.srcs &&
    (match o.d, (s.env i).readSrcs o.srcs s.ready with
     | .v n, some (_, none, w1) => decide (n.toNat < s.me.allot.vSize) && (draws s o w1).isSome
     | _, _ => false)
  | none => false

theorem vecReady_spec {i : Instr} {s : State} (h : vecReady i s = true) :
    ∃ o n vs w1 rw w2, vectorForm i = some o ∧ i.wf = true ∧ Issues i s ∧ o.d = .v n ∧ n.toNat < s.me.allot.vSize ∧
      (s.env i).srcsHits s.ready [] o.srcs = [] ∧ (s.env i).latchWaits o.srcs = false ∧
      (s.env i).readSrcs o.srcs s.ready = some (vs, none, w1) ∧ draws s o w1 = some (rw, w2) := by
  unfold vecReady at h
  split at h
  · rename_i o ho
    split at h
    · rename_i n vs w1 hd hr
      simp only [Bool.and_eq_true, decide_eq_true_eq, Bool.not_eq_true'] at h
      obtain ⟨⟨⟨⟨h1, h2⟩, h3⟩, h4⟩, h5, h6⟩ := h
      obtain ⟨⟨rw, w2⟩, hw⟩ := Option.isSome_iff_exists.1 h6
      exact ⟨o, n, vs, w1, rw, w2, ho, h1, issues_of h2, hd, h5, h3, h4, hr, hw⟩
    · simp at h
  · cases h

/-- Latch y0 valid; stream 1 an input stream with one element; the random key ready. -/
def fed : State :=
  upd fun k =>
    { k with
      rq := [0]
      la := { k.la with cur := some 0 }
      streams := SMap.set [] 1 { (default : Stream) with bound := true, total := 2, fetch := 1, buf := [(0, none)] } }

theorem witness_VectorIntegerAndMoveResults :
    vecReady (.vadd ar1) fed = true ∧ vecReady (.vshi .rol ⟨g0, .va, false, .v 3, .y 0, .i32⟩ 31) fed = true ∧
    vecReady (.vmac ⟨off, .vb, true, .v 4, .q 1, .y 0, .v 2, .i8, false⟩) fed = true ∧
    vecReady (.vtlu ⟨g0, .vb, false, .v 0, .v 1, .v 2, .i8⟩ (some (.v 3))) fed = true ∧
    vecReady (.vbcst (some 0x800) g0 .va false (.v 31) 0 .i16) fed = true ∧
    vecReady (.vins ⟨g0, .va, false, .v 3, .v 1, .i32⟩ 7 63) fed = true := by decide +kernel

theorem witness_VectorFloatResults :
    vecReady (.vfma ⟨g0, .va, false, .v 3, .v 1, .v 2, .q 1, .f32, .rne, false⟩) fed = true ∧
    vecReady (.vfadd ⟨g0, .va, false, .v 3, .y 0, .v 2, .f16, .sr, true⟩) fed = true ∧
    vecReady (.vgkey ⟨g0, .va, false, .v 3, .v 1⟩ 5 15) fed = true := by decide +kernel

theorem witness_VectorConversionAndReductionResults :
    vecReady (.vcvt ⟨g0, .va, false, .v 3, .v 1, .f32⟩ .e5m2 .rtz true 3) fed = true ∧
    vecReady (.vscale ⟨g0, .va, false, .v 3, .v 1, .q 1, .bf16, .rne, false⟩ .b32) fed = true ∧
    vecReady (.vredsum ⟨g0, .va, false, .v 3, .v 1, 15, .i16⟩ true) fed = true ∧
    vecReady (.vdot g0 .vb false (.v 3) (.v 1) (.v 2) (.y 0) .e4m3 .e5m2) fed = true := by decide +kernel

theorem witness_PredicateAndScalarResults :
    (Issues (.pand ⟨off, .va, 15, 0, 1⟩) base ∧ Issues (.pmov g0 .vb 0 3) base) ∧
    ((Instr.pmovV2P g0 .va 15 (.y 0) .i8).wf = true ∧ Issues (.pmovV2P g0 .va 15 (.y 0) .i8) fed ∧
      (fed.env (.pmovV2P g0 .va 15 (.y 0) .i8)).srcsHits fed.ready [] [.y 0] = [] ∧
      (fed.env (.pmovV2P g0 .va 15 (.y 0) .i8)).latchWaits [.y 0] = false) ∧
    (let i := Instr.vcmp .uo g0 .va 1 (.v 1) (.v 31) .f32
     i.wf = true ∧ Issues i base ∧ (base.env i).srcsHits base.ready [] [.v 1, .v 31] = [] ∧
       (base.env i).latchWaits [.v 1, .v 31] = false) ∧
    ((Instr.pcnt true g0 .va 63 15 .i32).wf = true ∧ Issues (.pcnt true g0 .va 63 15 .i32) base) ∧
    (let i := Instr.vext true off .vb 0 (.v 31) 255 .i8
     i.wf = true ∧ Issues i base ∧ (base.env i).srcsHits base.ready [] [.v 31] = [] ∧ (base.env i).latchWaits [.v 31] = false) :=
  ⟨⟨issues_of (by decide +kernel), issues_of (by decide +kernel)⟩,
   ⟨by decide, issues_of (by decide +kernel), by decide +kernel, by decide +kernel⟩,
   ⟨by decide, issues_of (by decide +kernel), by decide +kernel, by decide +kernel⟩,
   ⟨by decide, issues_of (by decide +kernel)⟩,
   ⟨by decide, issues_of (by decide +kernel), by decide +kernel, by decide +kernel⟩⟩

theorem witness_PredicateElementsAreCounted :
    (Instr.pcnt false off .vb 0 0 .i8).wf = true ∧ Issues (.pcnt false off .vb 0 0 .i8) base :=
  ⟨by decide, issues_of (by decide +kernel)⟩

/-- An output stream whose one element is still to be pushed. -/
def outStream : Stream := { (default : Stream) with bound := true, out := true, depth := 1, total := 1 }

/-- The stream 3 is an input stream with nothing present, or with one element. -/
theorem witness_OperandsReadAsNamed :
    (∃ v f, ((fed.dev.ctx 0).streams.get 1).buf = [(v, f)]) ∧ base.me.allot.vSize = 32 ∧
    (let i := Instr.vmov ⟨g0, .va, false, .v 3, .q 3, .i32⟩
     let s := upd fun k => { k with streams := SMap.set [] 3 { (default : Stream) with bound := true, total := 1 } }
     (∃ o, vectorForm i = some o ∧ o.srcs = [.q 3]) ∧ i.wf = true ∧ Issues i s ∧ mayPop s.me 3 ∧ (s.me.streams.get 3).buf = []) :=
  ⟨⟨_, _, rfl⟩, by decide +kernel, ⟨_, rfl, rfl⟩, by decide, issues_of (by decide +kernel), ⟨by decide +kernel, by decide +kernel, by decide +kernel⟩,
   by decide +kernel⟩

def pushing (st : Stream) : State := upd fun k => { k with streams := SMap.set [] 7 st }

theorem witness_VectorStreamsAndOperandFaults :
    (let i := Instr.vadd { ar1 with d := .q 7 }
     let s := pushing outStream
     ∃ o, vectorForm i = some o ∧ o.d = .q 7 ∧ i.wf = true ∧ Issues i s ∧ mayPush s.me 7 ∧
       (s.env i).srcsHits s.ready [] o.srcs = [] ∧ (s.env i).latchWaits o.srcs = false ∧ pushFull s.ready s.cur (.q 7) = false ∧
       aliasStarts s.ready s.cur (pushRange s.ready s.cur 7) = []) ∧
    (let i := Instr.vadd { ar1 with d := .q 7 }
     i.wf = true ∧ Issues i base ∧ ¬ mayPush base.me 7 ∧ ¬ mayPop base.me 0) ∧
    (let i := Instr.vadd ar1
     let s := upd fun k => { k with allot := { k.allot with vSize := 31 } }
     Issues i s ∧ s.me.allot.vSize ≤ 31) ∧
    (let i := Instr.vadd { ar1 with a := .y 5 }
     i.wf = true ∧ Issues i base ∧ (base.dev.cores.get 0).secondary ≠ 1 ∧ base.me.latch 5 = none) ∧
    (let i := Instr.vadd { ar1 with a := .q 1 }
     let s := upd (fun k => { k with streams := k.streams.set 1 { (k.streams.get 1) with buf := [(0, some soft)] } }) fed
     i.wf = true ∧ Issues i s ∧ (s.env i).srcsHits s.ready [] [.q 1, .v 1] = [] ∧
       ((s.env i).readSrcs [.q 1, .v 1] s.ready).map (fun x => x.2.1) = some (some soft)) ∧
    (let i := Instr.vadd { ar1 with a := .y 0 }
     let s := dev (fun d => { d with cores := [(0, { (default : Core) with primary := 2, secondary := 1 })] }) fed
     Issues i s ∧ (s.env i).srcsHits s.ready [] [.y 0, .v 1] = [] ∧ (s.env i).latchWaits [.y 0, .v 1] = true) ∧
    (let i := Instr.vadd { ar1 with a := .q 1 }
     let s := upd (fun k => { k with streams := k.streams.set 1 { (k.streams.get 1) with buf := [] } }) fed
     Issues i s ∧ mayPop s.me 1 ∧ (s.env i).srcsHits s.ready [] [.q 1, .v 1] = [] ∧ (s.env i).latchWaits [.q 1, .v 1] = false ∧
       ((s.env i).readSrcs [.q 1, .v 1] s.ready).isNone = true) ∧
    (let i := Instr.vadd { ar1 with d := .q 7 }
     let s := pushing { outStream with depth := 0 }
     Issues i s ∧ mayPush s.me 7 ∧ (s.env i).srcsHits s.ready [] [.v 0, .v 1] = [] ∧ (s.env i).latchWaits [.v 0, .v 1] = false ∧
       ((s.env i).readSrcs [.v 0, .v 1] s.ready).map (fun x => pushFull x.2.2 s.cur (.q 7)) = some true) :=
  ⟨⟨_, rfl, rfl, by decide, issues_of (by decide +kernel), by unfold mayPush; decide +kernel, by decide +kernel, by decide +kernel,
     by decide +kernel, by decide +kernel⟩,
   ⟨by decide, issues_of (by decide +kernel), by unfold mayPush; decide +kernel, by unfold mayPop; decide +kernel⟩,
   ⟨issues_of (by decide +kernel), by decide +kernel⟩,
   ⟨by decide, issues_of (by decide +kernel), by decide +kernel, by decide +kernel⟩,
   ⟨by decide, issues_of (by decide +kernel), by decide +kernel, by decide +kernel⟩,
   ⟨issues_of (by decide +kernel), by decide +kernel⟩,
   ⟨issues_of (by decide +kernel), by unfold mayPop; decide +kernel, by decide +kernel⟩,
   ⟨issues_of (by decide +kernel), by unfold mayPush; decide +kernel, by decide +kernel⟩⟩

/-! ### Rounding: −2.5 lies between −2 and −3, and 12 is twice the largest element of e2m1 -/

theorem finite_of {c : Nat} (h : (decide (c < 16) && match valueOf .e2m1 c with | .fin _ _ _ => true | _ => false) = true) :
    finite .e2m1 c := by
  simp only [Bool.and_eq_true, decide_eq_true_eq] at h
  refine ⟨h.1, ?_⟩
  have h2 := h.2
  split at h2
  · exact ⟨_, _, _, by assumption⟩
  · cases h2

theorem witness_RoundingSelectsNeighbour :
    let x := inUnits (-149) (.fin true 5 (-1))
    let value (c : Nat) : Int := inUnits (-149) (valueOf .e2m1 c)
    (.e2m1 ∈ signedFormats ∧ .sr ∈ modes ∧ min (-1 : Int) (-149) = -149 ∧ finite .e2m1 7 ∧ x.natAbs ≤ (value 7).natAbs) ∧
    (finite .e2m1 4 ∧ finite .e2m1 5 ∧ (value 4).natAbs < x.natAbs ∧ x.natAbs < (value 5).natAbs ∧
      ∀ c, finite .e2m1 c → ¬ ((value 4).natAbs < (value c).natAbs ∧ (value c).natAbs < (value 5).natAbs)) ∧
    (∀ c, finite .e2m1 c → 2 * (value c).natAbs ≤ (inUnits (-149) (.fin false 12 0)).natAbs) := by
  refine ⟨⟨by decide, by decide, by decide, finite_of (by decide +kernel), by decide +kernel⟩,
    ⟨finite_of (by decide +kernel), finite_of (by decide +kernel), by decide +kernel, by decide +kernel, fun c h => ?_⟩, fun c h => ?_⟩
  · have := (by decide +kernel : ∀ c, c < 16 → ¬ ((inUnits (-149) (valueOf .e2m1 4)).natAbs < (inUnits (-149) (valueOf .e2m1 c)).natAbs ∧
      (inUnits (-149) (valueOf .e2m1 c)).natAbs < (inUnits (-149) (valueOf .e2m1 5)).natAbs))
    exact this c h.1
  · have := (by decide +kernel : ∀ c, c < 16 → 2 * (inUnits (-149) (valueOf .e2m1 c)).natAbs ≤ (inUnits (-149) (.fin false 12 0)).natAbs)
    exact this c h.1

/-! ### The on-chip memories -/

theorem accepted_spad {s : State} {a : Word} {n al : Nat} (h : a.toNat % al = 0 ∧ a.toNat + n ≤ s.me.allot.spLen) : accepted s 0 a n al :=
  ⟨h.1, h.2, fun h => by cases h⟩
theorem accepted_lane {s : State} {a : Word} {n al : Nat} (h : a.toNat % al = 0 ∧ a.toNat + n ≤ s.me.allot.lsLen) : accepted s 1 a n al :=
  ⟨h.1, h.2, fun h => by cases h⟩
theorem accepted_cluster {s : State} {a : Word} {n al : Nat} (h : a.toNat % al = 0 ∧ a.toNat < 2 ^ 26 ∧ a.toNat % 2 ^ 20 + n ≤ 2 ^ 20) :
    accepted s 2 a n al := ⟨h.1, h.2, fun h => by cases h⟩
theorem accepted_die {s : State} {a : Word} {n al : Nat} (h : a.toNat % al = 0 ∧ a.toNat + n ≤ 2 ^ 26)
    (g : ((s.dev.dies.get (s.cur / 2 ^ 8 % 2 ^ 9)).dsown).getLsbD 63 = true ∧
      (s.dev.dies.get (s.cur / 2 ^ 8 % 2 ^ 9)).dsown.toNat % 2 ^ 63 = s.me.task.job) : accepted s 3 a n al := ⟨h.1, h.2, fun _ => g⟩

/-- The last bytes of each space: s6, with the die scratchpad owned by job 1. -/
def edge (a : Word) : State :=
  dev (fun d => { d with dies := [(0, { (default : Die) with dsown := 0x8000000000000001 })] }) (regs [(6, a)])

theorem witness_ScalarLoadsAndStores :
    (let m : MAddr := ⟨6, 0xFFFF8, .spad⟩
     (Instr.lds false g0 5 m .w64).wf = true ∧ Issues (.lds false g0 5 m .w64) (edge 0x8000) ∧
       accepted (edge 0x8000) 0 (addressOf (edge 0x8000).me 6 0xFFFF8) 8 8 ∧
       unread (edge 0x8000).ready 0 (span (edge 0x8000).ready 0 0 0x7FF8 8)) ∧
    (let m : MAddr := ⟨6, 0, .die⟩
     Issues (.lds true off 5 m .w8) (edge 0x3FFFFFF) ∧ accepted (edge 0x3FFFFFF) 3 (addressOf (edge 0x3FFFFFF).me 6 0) 1 1) ∧
    (let m : MAddr := ⟨6, 0, .lane⟩
     Issues (.sts g0 5 m .w16) (edge 0x3FFE) ∧ accepted (edge 0x3FFE) 1 (addressOf (edge 0x3FFE).me 6 0) 2 2 ∧
       unused (edge 0x3FFE).ready 0 (span (edge 0x3FFE).ready 0 1 0x3FFE 2) ∧ guardOn (edge 0x3FFE).me g0 = true ∧
       firstFault (edge 0x3FFE) (.sts g0 5 m .w16) (edge 0x3FFE).ready 1 2 (scalarSpan 0x3FFE 2 true) = none ∧
       guardOn (edge 0x3FFE).me off = false) ∧
    (let m : MAddr := ⟨6, 0, .cluster⟩
     Issues (.sts g0 5 m .w32) (edge 0x3FFFFFC) ∧ accepted (edge 0x3FFFFFC) 2 (addressOf (edge 0x3FFFFFC).me 6 0) 4 4 ∧
       (firstFault (edge 0x3FFFFFC) (.sts g0 5 m .w32) (edge 0x3FFFFFC).ready 2 2 (scalarSpan 0x3FFFFFC 4 false)).isSome = true) :=
  ⟨⟨by decide, issues_of (by decide +kernel), accepted_spad (by decide +kernel), by unfold unread; decide +kernel⟩,
   ⟨issues_of (by decide +kernel), accepted_die (by decide +kernel) (by decide +kernel)⟩,
   ⟨issues_of (by decide +kernel), accepted_lane (by decide +kernel), by unfold unused; decide +kernel, by decide +kernel, by decide +kernel,
    by decide +kernel⟩,
   ⟨issues_of (by decide +kernel), accepted_cluster (by decide +kernel), by decide +kernel⟩⟩

theorem witness_VectorLoadsAndStores :
    (let i := Instr.vld g0 (.v 31) ⟨6, 0, .spad⟩ .g8 63
     i.wf = true ∧ Issues i (edge 0x7F00) ∧ (31#5).toNat < (edge 0x7F00).me.allot.vSize ∧
       accepted (edge 0x7F00) 0 (addressOf (edge 0x7F00).me 6 0) 256 4 ∧
       unread (edge 0x7F00).ready 0 (span (edge 0x7F00).ready 0 0 0x7F00 256)) ∧
    (let i := Instr.vldl off (.v 0) 6 0
     Issues i (edge 0x3F00) ∧ accepted (edge 0x3F00) 1 (addressOf (edge 0x3F00).me 6 0) 256 256) ∧
    (let i := Instr.vldb g0 (.v 0) ⟨6, 0, .die⟩ .w16
     i.wf = true ∧ Issues i (edge 0x3FFFFFE) ∧ accepted (edge 0x3FFFFFE) 3 (addressOf (edge 0x3FFFFFE).me 6 0) 2 2) ∧
    (let i := Instr.vst g0 (.v 2) ⟨6, 4, .spad⟩ .g16 1
     i.wf = true ∧ Issues i (edge 0) ∧ accepted (edge 0) 0 (addressOf (edge 0).me 6 4) 256 4 ∧
       (∃ v w, readOne (edge 0) i (.v 2) v w ∧ unused w 0 (span w 0 0 4 256))) ∧
    (let i := Instr.vstl g0 (.y 0) 6 0
     i.wf = true ∧ Issues i fed ∧ accepted fed 1 (addressOf fed.me 6 0) 256 256 ∧
       (∃ v w, readOne fed i (.y 0) v w ∧ unused w 0 (span w 0 1 0 256))) :=
  ⟨⟨by decide, issues_of (by decide +kernel), by decide +kernel, accepted_spad (by decide +kernel), by unfold unread; decide +kernel⟩,
   ⟨issues_of (by decide +kernel), accepted_lane (by decide +kernel)⟩,
   ⟨by decide, issues_of (by decide +kernel), accepted_die (by decide +kernel) (by decide +kernel)⟩,
   ⟨by decide, issues_of (by decide +kernel), accepted_spad (by decide +kernel), _, _, ⟨by decide +kernel, by decide +kernel, rfl⟩,
     by unfold unused; decide +kernel⟩,
   ⟨by decide, issues_of (by decide +kernel), accepted_lane (by decide +kernel), _, _, ⟨by decide +kernel, by decide +kernel, rfl⟩,
     by unfold unused; decide +kernel⟩⟩

theorem lanes_of {s : State} {g : Guard} {base : BitVec 6} {off : BitVec 20} {idx : VOp}
    (h : ((lanesOf s g base off idx).all fun x => decide (x.2.toNat % 4 = 0 ∧ x.2.toNat + 4 ≤ s.me.allot.spLen)) = true) :
    ∀ x ∈ lanesOf s g base off idx, accepted s 0 x.2 4 4 := fun x hx =>
  accepted_spad (of_decide_eq_true (List.all_eq_true.1 h x hx))

theorem witness_GatherAndScatter :
    (let s := edge 0x7FFC
     Issues (.vgth g0 (.v 31) 6 0 (.v 1)) s ∧ (31#5).toNat < s.me.allot.vSize ∧ indexReadable s (.v 1) ∧
       (∀ x ∈ lanesOf s g0 6 0 (.v 1), accepted s 0 x.2 4 4) ∧ (lanesOf s g0 6 0 (.v 1)).length = 64 ∧
       unread s.ready 0 ((lanesOf s g0 6 0 (.v 1)).flatMap fun x => span s.ready 0 0 x.2.toNat 4)) ∧
    (let i := Instr.vsct g0 (.v 2) 6 0 (.y 0)
     i.wf = true ∧ Issues i fed ∧ indexReadable fed (.y 0) ∧ (∀ x ∈ lanesOf fed g0 6 0 (.y 0), accepted fed 0 x.2 4 4) ∧
       ∃ v w, readOne fed i (.v 2) v w ∧ unused w 0 ((lanesOf fed g0 6 0 (.y 0)).flatMap fun x => span w 0 0 x.2.toNat 4)) :=
  ⟨⟨issues_of (by decide +kernel), by decide +kernel, .inl ⟨1, rfl, by decide +kernel⟩, lanes_of (by decide +kernel), by decide +kernel,
     by unfold unread; decide +kernel⟩,
   ⟨by decide, issues_of (by decide +kernel), .inr ⟨0, rfl, by decide +kernel⟩, lanes_of (by decide +kernel), _, _,
     ⟨by decide +kernel, by decide +kernel, rfl⟩, by unfold unused; decide +kernel⟩⟩

def amo1 (op : AmoOp) : Amo := ⟨g0, op, 5, 6, 7, 8⟩

theorem witness_LocalAtomics :
    (Issues (.amol (amo1 .casw)) (edge 0x7FFC) ∧ accepted (edge 0x7FFC) 0 ((edge 0x7FFC).me.rdS 6) 4 4 ∧
      unused (edge 0x7FFC).ready 0 (span (edge 0x7FFC).ready 0 0 0x7FFC 4) ∧ guardOn (edge 0x7FFC).me g0 = true ∧
      firstFault (edge 0x7FFC) (.amol (amo1 .casw)) (edge 0x7FFC).ready 0 3 (scalarSpan 0x7FFC 4 true) = none ∧
      guardOn (edge 0x7FFC).me off = false) ∧
    (let s := dev (fun d => { d with badSpad := [placeOf d 0 0 0 / 4] }) (edge 0)
     Issues (.amol (amo1 .add)) s ∧ accepted s 0 (s.me.rdS 6) 8 8 ∧
       (firstFault s (.amol (amo1 .add)) s.ready 0 3 (scalarSpan 0 8 true)).isSome = true) :=
  ⟨⟨issues_of (by decide +kernel), accepted_spad (by decide +kernel), by unfold unused; decide +kernel, by decide +kernel⟩,
   ⟨issues_of (by decide +kernel), accepted_spad (by decide +kernel), by decide +kernel⟩⟩

theorem witness_OnChipIssueTraps :
    (Issues (.lds false off 5 ⟨6, 7, .die⟩ .w64) (edge 0) ∧ (addressOf (edge 0).me 6 7).toNat % 8 ≠ 0) ∧
    (Issues (.sts g0 5 ⟨6, 4, .spad⟩ .w32) (edge 0x7FFC) ∧ outOfSpace (edge 0x7FFC).me 0 (addressOf (edge 0x7FFC).me 6 4).toNat 4 = true) ∧
    (Issues (.lds false g0 5 ⟨6, 0, .die⟩ .w8) base ∧ outOfSpace base.me 3 (addressOf base.me 6 0).toNat 1 = false ∧
      ¬ accepted base 3 (addressOf base.me 6 0) 1 1) ∧
    (let i := Instr.vld g0 (.v 31) ⟨6, 1, .cluster⟩ .g8 63
     i.wf = true ∧ Issues i (edge 0) ∧ ((edge 0).env i).dstHits (edge 0).ready (.v 31) = [] ∧ (addressOf (edge 0).me 6 1).toNat % 4 ≠ 0) ∧
    (let i := Instr.vldb off (.v 0) ⟨6, 0, .spad⟩ .w8
     i.wf = true ∧ Issues i (edge 0x8000) ∧ ((edge 0x8000).env i).dstHits (edge 0x8000).ready (.v 0) = [] ∧
       outOfSpace (edge 0x8000).me 0 (addressOf (edge 0x8000).me 6 0).toNat 1 = true) ∧
    (let i := Instr.vldl g0 (.v 0) 6 128
     i.wf = true ∧ Issues i (edge 0) ∧ ((edge 0).env i).dstHits (edge 0).ready (.v 0) = [] ∧ (addressOf (edge 0).me 6 128).toNat % 256 ≠ 0) ∧
    (let i := Instr.vst g0 (.y 0) ⟨6, 0, .die⟩ .g32 0
     i.wf = true ∧ Issues i fed ∧ (fed.env i).srcsHits fed.ready [] [.y 0] = [] ∧ outOfSpace fed.me 3 (addressOf fed.me 6 0).toNat 256 = false ∧
       ¬ accepted fed 3 (addressOf fed.me 6 0) 256 4) ∧
    (let i := Instr.vstl off (.v 2) 6 0
     i.wf = true ∧ Issues i (edge 0x8000) ∧ ((edge 0x8000).env i).srcsHits (edge 0x8000).ready [] [.v 2] = [] ∧
       outOfSpace (edge 0x8000).me 1 (addressOf (edge 0x8000).me 6 0).toNat 256 = true) ∧
    (let i := Instr.vgth g0 (.v 31) 6 2 (.v 1)
     i.wf = true ∧ Issues i (edge 0) ∧ ((edge 0).env i).dstHits (edge 0).ready (.v 31) = [] ∧ indexReadable (edge 0) (.v 1) ∧
       ((lanesOf (edge 0) g0 6 2 (.v 1)).find? fun x => x.2.toNat % 4 != 0).isSome = true) ∧
    (let i := Instr.vsct g0 (.v 2) 6 0 (.v 1)
     let ls := lanesOf (edge 0x8000) g0 6 0 (.v 1)
     i.wf = true ∧ Issues i (edge 0x8000) ∧ ((edge 0x8000).env i).srcsHits (edge 0x8000).ready [] [.v 2] = [] ∧
       indexReadable (edge 0x8000) (.v 1) ∧ (ls.all fun y => y.2.toNat % 4 == 0) = true ∧
       (ls.find? fun x => outOfSpace (edge 0x8000).me 0 x.2.toNat 4).isSome = true) :=
  ⟨⟨issues_of (by decide +kernel), by decide +kernel⟩, ⟨issues_of (by decide +kernel), by decide +kernel⟩,
   ⟨issues_of (by decide +kernel), by decide +kernel, fun h => absurd (h.2.2 rfl).1 (by decide +kernel)⟩,
   ⟨by decide, issues_of (by decide +kernel), by decide +kernel⟩, ⟨by decide, issues_of (by decide +kernel), by decide +kernel⟩,
   ⟨by decide, issues_of (by decide +kernel), by decide +kernel⟩,
   ⟨by decide, issues_of (by decide +kernel), by decide +kernel, by decide +kernel, fun h => absurd (h.2.2 rfl).1 (by decide +kernel)⟩,
   ⟨by decide, issues_of (by decide +kernel), by decide +kernel⟩,
   ⟨by decide, issues_of (by decide +kernel), by decide +kernel, .inl ⟨1, rfl, by decide +kernel⟩, by decide +kernel⟩,
   ⟨by decide, issues_of (by decide +kernel), by decide +kernel, .inl ⟨1, rfl, by decide +kernel⟩, by decide +kernel⟩⟩

/-! ### Global memory -/

theorem mayAccess_load {s : State} {f : GlobalForm} {op : LdgOp} (h : f.op = .ldg op)
    (h2 : f.va.toNat % f.n = 0 ∧ issueViolation s.me f.va (kindOf f.op) = false ∧ s.me.outstanding ≤ 31) : mayAccess s f :=
  ⟨h2.1, h2.2.1, h2.2.2, .inl ⟨op, h⟩⟩
theorem mayAccess_write {s : State} {f : GlobalForm}
    (h : f.va.toNat % f.n = 0 ∧ issueViolation s.me f.va (kindOf f.op) = false ∧ s.me.outstanding ≤ 31 ∧
      aliasStarts s.ready s.cur [(2 ^ 62 + f.va.toNat, 2 ^ 62 + f.va.toNat + f.n - 1)] = []) : mayAccess s f :=
  ⟨h.1, h.2.1, h.2.2.1, .inr h.2.2.2⟩

/-- s6 an address of the window at 0x200000. -/
def window (a : Word) : State := sprs [(0x040, 0x200000), (0x041, 0x200000)] (regs [(6, a)])
/-- The L2 of die 0 with tokens and the data of the line of address 0x200000. -/
def holding (n : Nat) (s : State) : State :=
  dev (fun d => d.setHl 0x4000 0 { (default : HLine) with tokens := n, owner := true, data := some 5 }) s
def trOk (s : State) (i : Instr) (f : GlobalForm) : Option (Nat × Bool) :=
  match translation s i f with
  | .ok pa cmp => some (pa, cmp)
  | .fault _ => none
theorem trOk_spec {s : State} {i : Instr} {f : GlobalForm} {pa : Nat} {cmp : Bool} (h : trOk s i f = some (pa, cmp)) :
    translation s i f = .ok pa cmp := by
  unfold trOk at h; split at h <;> simp_all

def ldg1 : Instr := .ldg .d g0 .dom 5 6
def stg1 : Instr := .stg .w32 g0 .dom 6 5

theorem witness_GlobalAccessesIssue :
    (∃ f, globalForm (window 0x200078).me ldg1 = some f ∧ ldg1.wf = true ∧ Issues ldg1 (window 0x200078) ∧
      mayAccess (window 0x200078) f ∧ guardOn (window 0x200078).me f.g = true ∧ (window 0x200078).me.gq = [] ∧
      translation (window 0x200078) ldg1 f = .ok 0x200078 true ∧
      paKind 0x200078 ≠ .system ∧ ((translated (window 0x200078) ldg1 f).hl 0x4000 0).tokens = 0 ∧
      ((translated (window 0x200078) ldg1 f).hl 0x4000 0).req = none) ∧
    (∃ f, globalForm base.me ldg1 = some f ∧ Issues ldg1 base ∧ mayAccess base f ∧ base.me.gq = [] ∧
      translation base ldg1 f = .fault 0x0A) ∧
    (let s := upd (fun k => { k with gq := [{ accessOf base ldg1 ⟨g0, .ldg .d, .dom, 5, 0, 8, 0, 0⟩ 0 false with susp := true }] })
       (window 0x200078)
     ∃ f, globalForm s.me stg1 = some f ∧ Issues stg1 s ∧ mayAccess s f ∧ s.me.gq.head?.map GAcc.susp = some true ∧
       trOk s stg1 f = some (0x200078, true)) ∧
    (∃ f, globalForm base.me (.red .addI64 off .dom 6 5) = some f ∧ Issues (.red .addI64 off .dom 6 5) base ∧ mayAccess base f ∧
      guardOn base.me f.g = false) :=
  ⟨⟨_, rfl, by decide, issues_of (by decide +kernel), mayAccess_load rfl (by decide +kernel), by decide +kernel, by decide +kernel,
     trOk_spec (by decide +kernel), by decide +kernel⟩,
   ⟨_, rfl, issues_of (by decide +kernel), mayAccess_load rfl (by decide +kernel), by decide +kernel⟩,
   ⟨_, rfl, issues_of (by decide +kernel), mayAccess_write (by decide +kernel), by decide +kernel, by decide +kernel⟩,
   ⟨_, rfl, issues_of (by decide +kernel), mayAccess_write (by decide +kernel), by decide +kernel⟩⟩

theorem witness_GlobalAccessesPerform :
    (let s := holding 1 (window 0x200078)
     ∃ f, globalForm s.me ldg1 = some f ∧ Issues ldg1 s ∧ mayAccess s f ∧ guardOn s.me f.g = true ∧ s.me.gq = [] ∧
       trOk s ldg1 f = some (0x200078, true) ∧ paKind 0x200078 ≠ .system ∧ 0x200078 % 128 + f.n ≤ 128 ∧
       (accessOf s ldg1 f 0x200078 true).scope = .dom ∧ (translated s ldg1 f).dataBad 0x4000 = false ∧ holderHere s = 0 ∧
       1 ≤ ((translated s ldg1 f).hl 0x4000 0).tokens ∧ ((translated s ldg1 f).hl 0x4000 0).data = some 5) ∧
    (let s := holding 1024 (window 0x20007C)
     ∃ f, globalForm s.me stg1 = some f ∧ Issues stg1 s ∧ mayAccess s f ∧ trOk s stg1 f = some (0x20007C, true) ∧
       ((translated s stg1 f).hl 0x4000 0).tokens = 1024 ∧ ((translated s stg1 f).hl 0x4000 0).data = some 5) ∧
    (let s := holding 1024 (window 0x200000)
     ∃ f, globalForm s.me (.amo (amo1 .fadd) .dom) = some f ∧ Issues (.amo (amo1 .fadd) .dom) s ∧ mayAccess s f ∧
       trOk s (.amo (amo1 .fadd) .dom) f = some (0x200000, true) ∧ ((translated s (.amo (amo1 .fadd) .dom) f).hl 0x4000 0).tokens = 1024 ∧
       ((translated s (.amo (amo1 .fadd) .dom) f).hl 0x4000 0).data = some 5) ∧
    (let i := Instr.red .addI64 g0 .dom 6 5
     let u : UpdEnt := { (default : UpdEnt) with line := 0x4000, op := .addI64 }
     let s := dev (fun d => { d with
       dies := d.dies.update 0 fun x => { x with upd := [u], tlb := [⟨1, 0x200000, 4096, 0x200000, 0x1FF⟩] }
       homes := d.homes.update 0x4000 fun x => { x with upd := some .addI64 } }) (regs [(6, 0x200078)])
     ∃ f, globalForm s.me i = some f ∧ Issues i s ∧ mayAccess s f ∧ trOk s i f = some (0x200078, true) ∧
       ((translated s i f).dies.get 0).upd.find? (fun y => y.line == 0x4000) = some u ∧ ((translated s i f).home 0x4000).upd = some .addI64) :=
  ⟨⟨_, rfl, issues_of (by decide +kernel), mayAccess_load rfl (by decide +kernel), by decide +kernel⟩,
   ⟨_, rfl, issues_of (by decide +kernel), mayAccess_write (by decide +kernel), by decide +kernel⟩,
   ⟨_, rfl, issues_of (by decide +kernel), mayAccess_write (by decide +kernel), by decide +kernel⟩,
   ⟨_, rfl, issues_of (by decide +kernel), mayAccess_write (by decide +kernel), by decide +kernel⟩⟩

/-! ### Tiles and chains -/

/-- A descriptor of two by two tiles of f16 in the scratchpad, or of f32 in global memory at 0x200000. -/
def desc (glob : Bool) : BitVec 256 :=
  BitVec.ofNat 256 ((if glob then 0x200000 else 0x2000 + 8 * 2 ^ 60) + 7 * 2 ^ 64 + 128 * 2 ^ 96 + 2 * 2 ^ 160 + 2 * 2 ^ 176)

/-- Identifier 2 local and 3 global, node 0 loaded by the first and bound to z1, an arena for it; s6 names the last tile. -/
def tiled : State :=
  upd (fun k => { k with
      tids := SMap.set (SMap.set [] 2 (some (desc false))) 3 (some (desc true))
      allot := { k.allot with arLen := 0x4000 }
      names := SMap.set [] 1 (some 0)
      nodes := SMap.set [] 0
        { (default : Node) with
          used := true, op := .tld (desc false) 0 0, ety := tdType (desc false), ps := List.replicate 8 .pending }
      seq := 1 }) (regs [(6, 0x10001), (7, 0x3F000050), (8, 0x40000000)])

theorem witness_TileNodesAreAppended :
    (∃ f, tileForm tiled (.tld g0 0 2 6) = some f ∧ Issues (.tld g0 0 2 6) tiled ∧ f.ok ∧ guardOn tiled.me f.g = true ∧ freeAt tiled 1) ∧
    (∃ f, tileForm tiled (.tew .add off .sr 2 1 1) = some f ∧ Issues (.tew .add off .sr 2 1 1) tiled ∧ f.ok ∧
      guardOn tiled.me f.g = false) ∧
    (∃ f, tileForm tiled (.tews .mul g0 .dyn 63 1 8) = some f ∧ Issues (.tews .mul g0 .dyn 63 1 8) tiled ∧ f.ok) ∧
    (∃ f, tileForm tiled (.tmap g0 2 1 7) = some f ∧ Issues (.tmap g0 2 1 7) tiled ∧ f.ok) ∧
    (∃ f, tileForm tiled (.tcvt .e4m3 g0 .sr true 5 1) = some f ∧ f.ok ∧ freeAt tiled 1) ∧
    (∃ f, tileForm tiled (.tfn .exp2 g0 0 3) = some f ∧ Issues (.tfn .exp2 g0 0 3) tiled ∧ ∃ z ∈ f.srcs, tiled.me.names.get z.toNat = none) ∧
    tiled.me.names.get 1 = some 0 ∧ (tiled.me.nodes.all fun x => !x.2.op.isSink) = true :=
  ⟨⟨_, rfl, issues_of (by decide +kernel), by decide +kernel, by decide +kernel, by unfold freeAt; decide +kernel⟩,
   ⟨_, rfl, issues_of (by decide +kernel), ⟨_, _, rfl, rfl, by unfold plainFloat; decide +kernel⟩, by decide +kernel⟩,
   ⟨_, rfl, issues_of (by decide +kernel), _, rfl, by unfold plainFloat; decide +kernel⟩, ⟨_, rfl, issues_of (by decide +kernel), _, rfl, by decide +kernel⟩,
   ⟨_, rfl, by decide +kernel, by unfold freeAt; decide +kernel⟩,
   ⟨_, rfl, issues_of (by decide +kernel), 3, by decide +kernel⟩, by decide +kernel, by decide +kernel⟩

theorem witness_TileNamesAndDemands :
    (Issues (.tdrop off 1) tiled ∧ Issues (.tmov g0 3 1) tiled ∧ (tileOf tiled.me 1).isSome = true) ∧
    (Issues (.tforce g0 1 0xFF) tiled ∧ tiled.me.names.get 1 = some 0 ∧ guardOn tiled.me g0 = true ∧
      (reserve tiled.ready 0 [(0, 0xFF)]).isSome = true) ∧
    (let s := upd (fun k => { k with allot := { k.allot with arLen := 0 } }) tiled
     Issues (.tforce g0 1 1) s ∧ s.me.names.get 1 = some 0 ∧ reserve s.ready 0 [(0, 1)] = none) ∧
    (let i := Instr.tst g0 3 6 1 0x80
     Issues i tiled ∧ tiled.me.tids.get 3 = some (desc true) ∧
       (∃ m, tileOf tiled.me 1 = some m ∧ m.sblk = 0 ∧ (m.tscale = 0 ∨ m.tscale = 0x3F800000) ∧
         tileType (tdEt (desc true)) = some m.ety ∧
         let x : Node :=
           { freshNode tiled (.store (desc true) 1 1 0x80) (some 0) none m.ety with
             ps := (List.range 8).map fun p => if p = 7 then .pending else .done }
         let k := withNode tiled 1 x none
         storeAliases (tiled.ready.setCtx 0 k) 0 (k.nodes.get 1) (desc true) 1 1 0x80 = [] ∧
           (reserve (tiled.ready.setCtx 0 k) 0 [(1, 0x80)]).isSome = true) ∧
       tdBlock (desc true) = 0 ∧ 1 < tdRows (desc true) ∧ 1 < tdCols (desc true) ∧ tdLoc (desc true) = 0 ∧
       (tiled.me.queues.get 2).length < 16 ∧ freeAt tiled 1) ∧
    (let i := Instr.tst g0 2 9 1 1
     Issues i tiled ∧ tiled.me.tids.get 2 = some (desc false) ∧ tdLoc (desc false) ≠ 0 ∧ tdBlock (desc false) = 0 ∧
       let x : Node :=
         { freshNode tiled (.store (desc false) 0 0 1) (some 0) none (tdType (desc false)) with
           ps := (List.range 8).map fun p => if p = 0 then .pending else .done }
       let k := withNode tiled 1 x none
       let al := storeAliases (tiled.ready.setCtx 0 k) 0 (k.nodes.get 1) (desc false) 0 0 1
       al ≠ [] ∧ (reserve (tiled.ready.setCtx 0 { k.setSpr 0x0C0 (k.spr' 0x0C0 + BitVec.ofNat 64 al.length) with
         nodes := k.nodes.update 1 fun y => { y with waits := y.waits ++ al } }) 0 [(1, 1)]).isSome = true) :=
  ⟨⟨issues_of (by decide +kernel), issues_of (by decide +kernel), by decide +kernel⟩, ⟨issues_of (by decide +kernel), by decide +kernel⟩,
   ⟨issues_of (by decide +kernel), by decide +kernel⟩,
   ⟨issues_of (by decide +kernel), by decide +kernel, ⟨_, rfl, by decide +kernel⟩, by decide +kernel, by decide +kernel, by decide +kernel,
    by decide +kernel, by decide +kernel, by unfold freeAt; decide +kernel⟩,
   ⟨issues_of (by decide +kernel), by decide +kernel⟩⟩

/-- A chain of one link, bound to slot 2 of core 0 and owned by context 0, with `n` of its two contributions appended; s10 its handle. -/
def chained (n : Nat) : State :=
  dev (fun d => { d with
      chains := [(5, { (default : Chain) with
        live := true, gen := 1, job := 1, outET := .bf16, rm := .sr
        links := [{ (default : Link) with slot := 2, hasSlot := true, count := 2, bound := 1 }] })]
      slots := [(2, { (default : Slot) with state := .opened, handle := 0x40005, count := 2, appended := n })] })
    (regs [(10, 0x40005)] tiled)

theorem witness_ChainInstructions :
    (let i := Instr.tmma g0 false true 1 1 10 0
     Issues i tiled ∧ (∃ m, tileOf tiled.me 1 = some m ∧ pairOk m m false true = true) ∧ liveChain tiled.ready (tiled.me.rdS 10) = none) ∧
    (let i := Instr.tmma g0 false true 1 1 10 0
     let s := chained 1
     Issues i s ∧ ∃ x t, liveChain s.ready 0x40005 = some x ∧ ownLink s x 0x40005 0 t ∧ t.appended = 1 ∧ t.count = 2 ∧ freeAt s 1) ∧
    (let s := chained 2
     ∃ x t, liveChain s.ready 0x40005 = some x ∧ ownLink s x 0x40005 0 t ∧ t.count ≤ t.appended) ∧
    (let s := chained 2
     Issues (.chclose g0 7 10) s ∧ ∃ x t, liveChain s.ready 0x40005 = some x ∧ ownLink s x 0x40005 (x.links.length - 1) t ∧
       closeLives s.ready x = false ∧ freeAt s 1) ∧
    (let s := chained 0
     Issues (.tforceLink g0 10 0) s ∧ ∃ x, liveChain s.ready 0x40005 = some x ∧ x.job = s.me.task.job ∧ x.links.length = 1 ∧ x.frozen = false) ∧
    (let s := upd (fun k => { k with task := { k.task with job := 2 } }) (chained 0)
     ∃ x, liveChain s.ready 0x40005 = some x ∧ x.job ≠ s.me.task.job) :=
  ⟨⟨issues_of (by decide +kernel), ⟨_, rfl, by decide +kernel⟩, by decide +kernel⟩,
   ⟨issues_of (by decide +kernel), _, (chained 1).dev.slots.get 2, rfl, by unfold ownLink; decide +kernel, by decide +kernel, by decide +kernel,
     by unfold freeAt; decide +kernel⟩,
   ⟨_, (chained 2).dev.slots.get 2, rfl, by unfold ownLink; decide +kernel, by decide +kernel⟩,
   ⟨issues_of (by decide +kernel), _, (chained 2).dev.slots.get 2, rfl, by unfold ownLink; decide +kernel, by decide +kernel,
     by unfold freeAt; decide +kernel⟩,
   ⟨issues_of (by decide +kernel), _, rfl, by decide +kernel⟩, ⟨_, rfl, by decide +kernel⟩⟩

/-! ### Engine instructions, waiting, barriers and tasks -/

/-- Numbers written at offsets of an address of the context's scratchpad allotment: offset, bytes, value. -/
def wr (a : Nat) (l : List (Nat × Nat × Nat)) (s : State) : State :=
  dev (fun d => { d with spad := l.foldl (fun m x => wrMem m (0x2000 + a + x.1) (bytesOf x.2.1 x.2.2)) d.spad }) s

/-- s4 the address of a record at 0x1000, s10 a handle; node 0 named z1 and identifier 3 global. -/
def recorded (l : List (Nat × Nat × Nat)) (s : State := tiled) : State := wr 0x1000 l (regs [(4, 0x1000)] s)
def ad : AsD := ⟨g0, false, 5, 4⟩

def readableB (s : State) (a : Word) (align n : Nat) : Bool :=
  decide (a.toNat % align = 0 ∧ a.toNat + n ≤ s.me.allot.spLen) &&
  (List.range n).all (fun j => !badWord s.ready (placeOf s.ready s.cur 0 (a.toNat + 4 * j))) &&
  decide (storesMeeting s.ready s.cur (block s a.toNat n) = [])

theorem readable_of {s : State} {a : Word} {align n : Nat} (h : readableB s a align n = true) : recordReadable s (some (a, align, n)) := by
  simp only [readableB, Bool.and_eq_true, decide_eq_true_eq, List.all_eq_true, List.mem_range, Bool.not_eq_true'] at h
  exact ⟨accepted_spad h.1.1, fun j hj => h.1.2 j (by omega), h.2⟩

def cpyRec : List (Nat × Nat × Nat) :=
  [(0, 4, 0x80), (4, 1, 1), (8, 8, 0x4000), (16, 8, 0x100), (24, 1, 0), (25, 1, 1), (28, 4, 64), (32, 2, 2), (34, 2, 1), (36, 2, 1),
   (40, 4, 64), (52, 4, 64)]
def cttRec (node : Bool) : List (Nat × Nat × Nat) :=
  [(0, 4, 0x80), (4, 1, 9), (8, 1, if node then 1 else 0x42), (10, 1, 1), (11, 1, 1), (12, 1, 0xFF), (32, 4, 0x4000)]
/-- The queues full, or the job cancelled. -/
def fullQueue (q : Nat) (s : State) : State := upd (fun k => { k with queues := k.queues.set q (List.replicate 16 default) }) s
def cancelledJob (s : State) : State := dev (fun d => d.updJob 0 1 fun j => { j with live := true, cancelled := true }) s
/-- A ring in pull mode with three tiles landed, and one in push mode with room for tiles to store. -/
def ring (mode fill : Nat) : Sub :=
  { (default : Sub) with
    state := 1, mode := mode, slotsz := 1, nslot := 4, cnt1 := 2, cnt2 := 2, fill := fill, dst := desc true }
def rings : State := upd (fun k => { k with subs := SMap.set (SMap.set [] 3 (ring 1 3)) 4 (ring 2 0) }) tiled

/-- A chain of one link for context 0 of core 0; and a package whose chain numbers are all held by chains not yet released. -/
def chRec : List (Nat × Nat × Nat) := [(0, 4, 0x80), (4, 1, 0x0B), (5, 1, 1), (6, 1, 7), (8, 1, 0xFF), (16, 8, 2 * 2 ^ 30 + 15 * 2 ^ 24)]
@[irreducible] def allChains : SMap Chain := (List.range Config.maxChains).map fun n => (0 * 4096 + n, default)
def crowded (s : State) : State := dev (fun d => { d with chains := allChains }) s
theorem crowded_full {d : Dev} (h : d.chains = allChains) : (freeChain d 0).isSome = false := by
  have : freeChain d 0 = none := by
    unfold freeChain
    rw [List.find?_eq_none, h]
    intro n hn hall
    have := List.all_eq_true.1 hall (0 * 4096 + n, default) (by unfold allChains; exact List.mem_map.2 ⟨n, hn, rfl⟩)
    simp at this
  rw [this]; rfl

theorem crowded_room {s : State} (hd : s.dev.chains = allChains) : (freeChain s.ready 0).isSome = false := by
  obtain ⟨a, b, e⟩ := deliverDue_frame s.dev s.cur
  exact crowded_full (by rw [State.ready, e]; exact hd)

theorem witness_EngineInstructions :
    (let s := recorded cpyRec
     ∃ f, engineForm s (.cpy ad) = some f ∧ (Instr.cpy ad).wf = true ∧ Issues (.cpy ad) s ∧ guardOn s.me f.g = true ∧
       recordReadable s f.record ∧ (s.me.queues.get f.q).length < 16 ∧ refusalOf s f.codes = 0 ∧
       aliasStarts s.ready s.cur f.places = []) ∧
    (let s := recorded []
     ∃ f, engineForm s (.subs ad 7) = some f ∧ Issues (.subs ad 7) s ∧ recordReadable s f.record ∧ refusalOf s f.codes ≠ 0) ∧
    (let s := fullQueue 0 (recorded cpyRec)
     ∃ f, engineForm s (.cpy ad) = some f ∧ Issues (.cpy ad) s ∧ recordReadable s f.record ∧ 16 ≤ (s.me.queues.get f.q).length) ∧
    (∃ f, engineForm rings (.rrel g0 true 0 3 3) = some f ∧ (Instr.rrel g0 true 0 3 3).wf = true ∧ Issues (.rrel g0 true 0 3 3) rings ∧
      engineChecks rings (.rrel g0 true 0 3 3) ∧ refusalOf rings f.codes = 0) ∧
    (∃ f, engineForm rings (.rfin g0 true 0 4 4) = some f ∧ Issues (.rfin g0 true 0 4 4) rings ∧
      engineChecks rings (.rfin g0 true 0 4 4) ∧ refusalOf rings f.codes = 0) ∧
    (let s := cancelledJob rings
     ∃ f, engineForm s (.unsub g0 true 5 3) = some f ∧ Issues (.unsub g0 true 5 3) s ∧ refusalOf s f.codes = 6) ∧
    (∃ f, engineForm tiled (.stru off true 6 3) = some f ∧ Issues (.stru off true 6 3) tiled ∧ guardOn tiled.me f.g = false ∧ f.record = none) ∧
    (let s := recorded (cttRec false)
     ∃ f, engineForm s (.cttset ad true 3) = some f ∧ Issues (.cttset ad true 3) s ∧ engineChecks s (.cttset ad true 3) ∧
       recordReadable s f.record) ∧
    (let s := crowded (recorded chRec)
     let i := Instr.chbuild ad 6
     ∃ f, engineForm s i = some f ∧ i.wf = true ∧ Issues i s ∧ engineChecks s i ∧ guardOn s.me f.g = true ∧
       recordReadable s f.record ∧ refusalOf s f.codes = 0) ∧
    -- the room that a `chbuild` needs
    (freeChain (crowded (recorded chRec)).ready 0).isSome = false ∧
    (let s := recorded chRec
     ∃ f, engineForm s (.chbuild ad 6) = some f ∧ recordReadable s f.record ∧ (s.me.queues.get f.q).length < 16 ∧
       refusalOf s f.codes = 0 ∧ f.room = true) ∧
    (let i := Instr.gmask true ad 5 1
     let s := sprs [(0x070, 0x2000)] (regs [(4, 0x4000)] tiled)
     ∃ f, engineForm s i = some f ∧ i.wf = true ∧ Issues i s ∧ engineChecks s i ∧ refusalOf s f.codes = 0) :=
  ⟨⟨_, rfl, by decide, issues_of (by decide +kernel), by decide +kernel, readable_of (by decide +kernel), by decide +kernel⟩,
   ⟨_, rfl, issues_of (by decide +kernel), readable_of (by decide +kernel), by decide +kernel⟩,
   ⟨_, rfl, issues_of (by decide +kernel), readable_of (by decide +kernel), by decide +kernel⟩,
   ⟨_, rfl, by decide, issues_of (by decide +kernel), by simp only [engineChecks]; decide +kernel, by decide +kernel⟩,
   ⟨_, rfl, issues_of (by decide +kernel), by simp only [engineChecks]; decide +kernel, by decide +kernel⟩,
   ⟨_, rfl, issues_of (by decide +kernel), by decide +kernel⟩,
   ⟨_, rfl, issues_of (by decide +kernel), by decide +kernel⟩,
   ⟨_, rfl, issues_of (by decide +kernel), fun _ => ⟨by decide +kernel, .inr (by unfold unread; decide +kernel)⟩, readable_of (by decide +kernel)⟩,
   ⟨_, rfl, by decide, issues_of (by decide +kernel), fun _ => .inr (by decide +kernel), by decide +kernel, readable_of (by decide +kernel),
     by decide +kernel⟩,
   crowded_room rfl,
   ⟨_, rfl, readable_of (by decide +kernel), by decide +kernel⟩,
   ⟨_, rfl, by decide, issues_of (by decide +kernel), by simp only [engineChecks]; decide +kernel, by decide +kernel⟩⟩

theorem witness_FencesAndEntries :
    (Issues (.qfence g0 true 5 0x3F) tiled ∧ guardOn tiled.me g0 = true ∧ refusalOf tiled [] = 0 ∧ guardOn tiled.me off = false) ∧
    (Issues (.qfence g0 true 5 1) (cancelledJob tiled) ∧ refusalOf (cancelledJob tiled) [] = 6) ∧
    Issues (.cttrdyQ g0 5 31) tiled ∧
    (let i := Instr.cttset ad true 31
     let s := recorded (cttRec true)
     Issues i s ∧ engineChecks s i ∧ recordReadable s (some (s.me.rdS 4, 32, 64)) ∧ guardOn s.me g0 = true ∧
       (s.env i).cttSrc 0x1000 = some (.node 0) ∧ (s.me.queues.get 3).length < 16 ∧ refusalOf s ((s.env i).cttCodes 0x1000 31) = 0 ∧
       (reserve s.ready 0 [(0, BitVec.ofNat 8 (field s 0x1000 12 1))]).isSome = true) ∧
    (let i := Instr.cttset { ad with g := off } true 31
     Issues i tiled ∧ engineChecks tiled i ∧ guardOn tiled.me off = false ∧ accepted tiled 0 (tiled.me.rdS 4) 64 32) ∧
    (let i := Instr.cttset ad true 31
     let s := upd (fun k => { k with allot := { k.allot with arLen := 0 } }) (recorded (cttRec true))
     Issues i s ∧ (s.env i).cttSrc 0x1000 = some (.node 0) ∧
       reserve s.ready 0 [(0, BitVec.ofNat 8 (field s 0x1000 12 1))] = none) :=
  ⟨⟨issues_of (by decide +kernel), by decide +kernel⟩, ⟨issues_of (by decide +kernel), by decide +kernel⟩, issues_of (by decide +kernel),
   ⟨issues_of (by decide +kernel), fun _ => ⟨by decide +kernel, .inr (by unfold unread; decide +kernel)⟩, readable_of (by decide +kernel), by decide +kernel⟩,
   ⟨issues_of (by decide +kernel), fun h => absurd h (by decide +kernel), by decide +kernel, accepted_spad (by decide +kernel)⟩,
   ⟨issues_of (by decide +kernel), by decide +kernel⟩⟩

/-- One operation in a queue; one pin of a line its holder knows; frame 7 of the package. -/
def queued (q : Nat) (s : State := base) : State := upd (fun k => { k with queues := k.queues.set q [{ (default : EngOp) with ticket := 9 }] }) s
def pinned : State :=
  dev (fun d => d.setHl 0x4000 0 { (d.hl 0x4000 0) with pinned := 1 }) (upd fun k => { k with pins := [⟨0x4000, 0, .die, 0x200000, none, 0, .die⟩] })

theorem pinned_quiet : quietPins pinned := by
  refine ⟨fun p h => ?_, ?_⟩
  · have : p = ⟨0x4000, 0, .die, 0x200000, none, 0, .die⟩ := by
      have e : pinned.me.pins = [⟨0x4000, 0, .die, 0x200000, none, 0, .die⟩] := rfl
      rw [e] at h; simpa using h
    subst this; decide +kernel
  · have e : pinned.me.pins = [⟨0x4000, 0, .die, 0x200000, none, 0, .die⟩] := rfl
    rw [e]; simp

theorem witness_FencesAndWaits :
    (let i := Instr.fence g0 (some .dom) (some 0x3F) true
     i.wf = true ∧ Issues i pinned ∧ guardOn pinned.me g0 = true ∧ fenceStarts pinned.dev 0 = [] ∧
       (List.range 6).all (fun j => (pinned.me.queues.get j).isEmpty) = true ∧ pinned.me.gq = [] ∧ quietPins pinned) ∧
    (Issues (.fence g0 (some .pkg) none false) pinned ∧ Issues (.fence off none (some 1) false) base ∧ guardOn base.me off = false) ∧
    (let s := queued 5
     Issues (.fence g0 none (some 0x20) false) s ∧ (0x20#6).getLsbD 5 = true ∧ s.me.queues.get 5 ≠ []) ∧
    (let a : GAcc := accessOf base ldg1 ⟨g0, .ldg .d, .dom, 5, 0, 8, 0, 0⟩ 0 false
     let s := upd fun k => { k with gq := [a] }
     Issues (.fence g0 (some .die) none false) s ∧ ∃ r, s.me.gq = a :: r ∧ (s.dev.ctx s.cur).gq = a :: r ∧ a.susp = false) ∧
    (let s := regs [(6, 9)] (queued 0)
     (Instr.waitT g0 6 0).wf = true ∧ Issues (.waitT g0 6 0) s ∧ ∃ o ∈ s.me.queues.get 0, o.ticket = (s.me.rdS 6).toNat % 2 ^ 32) ∧
    (Issues (.waitT g0 6 5) base ∧ base.me.queues.get 5 = []) ∧
    (let i := Instr.waitGe g0 5 6 7
     let s := wr 0x1000 [(0, 8, 7)] (regs [(6, 0x1000), (7, 7)])
     Issues i s ∧ accepted s 0 (s.me.rdS 6) 8 8 ∧ recordReadable s (some (s.me.rdS 6, 8, 8)) ∧ field s 0x1000 0 8 = 7 ∧
       (s.me.rdS 7).toNat = 7) ∧
    (let s := regs [(6, 0x1000), (7, 1)]
     Issues (.waitGe g0 5 6 7) s ∧ field s 0x1000 0 8 < (s.me.rdS 7).toNat) ∧
    (Issues (.frwait g0 6) (regs [(6, 1)]) ∧ ((regs [(6, 1)]).dev.pkg 0).frame.toNat < 1 ∧ ¬ (base.dev.pkg 0).frame.toNat < 0) ∧
    (let s := dev (fun d => d.updJob 0 1 fun j => { j with sheet := some { (default : Sheet) with started := true, frame := 4 } }) (regs [(6, 5)])
     Issues (.frwaitFrame g0 6) s ∧ ∃ sh, (s.dev.job 0 1).sheet = some sh ∧ sh.started = true ∧ sh.ended = false ∧ sh.frame < 5) :=
  ⟨⟨by decide, issues_of (by decide +kernel), by decide +kernel, by decide +kernel, by decide +kernel, by decide +kernel, pinned_quiet⟩,
   ⟨issues_of (by decide +kernel), issues_of (by decide +kernel), by decide +kernel⟩,
   ⟨issues_of (by decide +kernel), by decide +kernel⟩, ⟨issues_of (by decide +kernel), _, rfl, rfl, rfl⟩,
   ⟨by decide, issues_of (by decide +kernel), by decide +kernel⟩, ⟨issues_of (by decide +kernel), by decide +kernel⟩,
   ⟨issues_of (by decide +kernel), accepted_spad (by decide +kernel), readable_of (by decide +kernel), by decide +kernel⟩,
   ⟨issues_of (by decide +kernel), by decide +kernel⟩, ⟨issues_of (by decide +kernel), by decide +kernel⟩,
   ⟨issues_of (by decide +kernel), _, rfl, by decide +kernel⟩⟩

/-- A barrier of the job, or of another, with arrivals; and with context 0 already at `bar 15`. -/
def gathered (x : Barrier) (at15 : Option Nat := none) : State :=
  dev (fun d => { d with barriers := SMap.set [] 15 x })
    (upd (fun k => { k with barrier := SMap.set [] 0 (at15.map fun n => (k.pc, 15, n)) }) (regs [(6, 192), (7, 193)]))

theorem witness_BarriersCountArrivals :
    (let s := gathered ⟨1, 2, 1, 0xFFFF⟩
     Issues (.signal g0 5 15) s ∧ Issues (.bar g0 5 15) s ∧ guardOn s.me g0 = true ∧ guardOn s.me off = false ∧
       s.me.barrier.get s.me.hs.code = none ∧
       let x := s.ready.barriers.get (barrierAt s 15); x.expect ≠ 0 ∧ x.job = s.me.task.job ∧ x.arrived + 1 = x.expect) ∧
    (let s := gathered ⟨1, 3, 1, 0⟩
     Issues (.bar g0 5 15) s ∧ let x := s.ready.barriers.get (barrierAt s 15); x.job = s.me.task.job ∧ x.arrived + 1 ≠ x.expect) ∧
    (let s := gathered ⟨1, 3, 1, 4⟩ (some 4)
     Issues (.bar g0 5 15) s ∧ s.me.barrier.get s.me.hs.code = some (s.me.pc, 15, 4) ∧ (s.ready.barriers.get (barrierAt s 15)).gen = 4) ∧
    (let s := gathered ⟨1, 3, 0, 5⟩ (some 4)
     Issues (.bar g0 5 15) s ∧ s.me.barrier.get s.me.hs.code = some (s.me.pc, 15, 4) ∧ (s.ready.barriers.get (barrierAt s 15)).gen ≠ 4) ∧
    (let s := gathered ⟨2, 3, 0, 0⟩
     Issues (.signal g0 5 15) s ∧ Issues (.barSet g0 6 15) s ∧ (s.ready.barriers.get (barrierAt s 15)).job ≠ s.me.task.job ∧
       (s.me.rdS 6).toNat ≤ 192) ∧
    (let s := gathered default
     Issues (.barSet g0 6 15) s ∧ Issues (.barSet off 7 15) s ∧ (s.ready.barriers.get (barrierAt s 15)).expect = 0 ∧ 192 < (s.me.rdS 7).toNat) :=
  ⟨⟨issues_of (by decide +kernel), issues_of (by decide +kernel), by decide +kernel⟩, ⟨issues_of (by decide +kernel), by decide +kernel⟩,
   ⟨issues_of (by decide +kernel), by decide +kernel⟩, ⟨issues_of (by decide +kernel), by decide +kernel⟩,
   ⟨issues_of (by decide +kernel), issues_of (by decide +kernel), by decide +kernel⟩,
   ⟨issues_of (by decide +kernel), issues_of (by decide +kernel), by decide +kernel⟩⟩

/-- Job 1 live on package 0 with type 0; a second task beside the first; the first secondary. -/
def jobbed (s : State := base) : State :=
  dev (fun d => d.updJob 0 1 fun j => { j with live := true, gang := 1, types := [(0, { (default : TaskType) with entry := 0x10000 })], out := 1 }) s
def two (primary secondary : Nat) : State :=
  dev (fun d => { d with
    ctxs := d.ctxs.set (2 ^ 17) task0, cores := [(0, { (default : Core) with primary := primary, secondary := secondary })] })

/-- The allotment of a task without link slots. -/
def unlinked (s : State) : State := upd (fun k => { k with allot := { k.allot with links := 0 } }) s

theorem base_idle : idle (unlinked jobbed).me := ⟨rfl, rfl, fun _ => rfl, rfl, rfl, rfl, rfl⟩

theorem witness_TaskControl :
    (let s := jobbed (recorded [])
     let i := Instr.spawn g0 5 4
     Issues i s ∧ accepted s 0 (s.me.rdS 4) 32 32 ∧ guardOn s.me g0 = true ∧ recordReadable s (some (s.me.rdS 4, 32, 32)) ∧
       spawnStatus s 0x1000 = 0) ∧
    (let s := jobbed (recorded [(9, 1, 0x10)])
     recordReadable s (some (s.me.rdS 4, 32, 32)) ∧ spawnStatus s 0x1000 ≠ 0) ∧
    (Issues (.yield g0) base ∧ (base.dev.cores.get 0).primary = 1 ∧ (base.dev.cores.get 0).secondary = 0) ∧
    (let s := two 1 2
     Issues (.yield g0) s ∧ s.cur < 2 ^ 19 ∧ (s.dev.cores.get 0).primary = 0 + 1 ∧ (s.dev.cores.get 0).secondary = 1 + 1 ∧
       (s.dev.ctx (1 * 2 ^ 17 + 0)).cond = .resident) ∧
    (let s := two 2 1
     Issues (.yield g0) s ∧ (s.dev.cores.get 0).primary = 1 + 1 ∧ (s.dev.cores.get 0).secondary = 0 + 1) ∧
    (let s := unlinked jobbed
     Issues (.halt g0) s ∧ guardOn s.me g0 = true ∧ idle (s.dev.ctx s.cur) ∧ idle s.me ∧ s.me.pins = [] ∧ s.me.allot.links = 0 ∧
       s.me.task.sheet = none ∧ (s.dev.job 0 1).live = true) ∧
    (let s := queued 5
     Issues (.halt g0) s ∧ (s.dev.ctx s.cur).nodes = [] ∧ s.me.queues.get 5 ≠ [] ∧ (s.dev.ctx s.cur).gq = [] ∧
       (s.dev.ctx s.cur).queues = s.me.queues ∧ s.me.gq = []) ∧
    (Issues (.cancel g0 6) (regs [(6, 2)]) ∧ ((regs [(6, 2)]).me.rdS 6).toNat ≠ (regs [(6, 2)]).me.task.job ∧
      (regs [(6, 2)]).me.privNow = false) ∧
    (let s := jobbed
     Issues (.cancel g0 6) s ∧ s.me.rdS 6 = 0 ∧ (s.dev.job 0 s.me.task.job).live = true ∧ (s.dev.job 0 s.me.task.job).cancelled = false) ∧
    (Issues (.cancel off 6) base ∧ (base.dev.job 0 1).live = false) :=
  ⟨⟨issues_of (by decide +kernel), accepted_spad (by decide +kernel), by decide +kernel, readable_of (by decide +kernel), by decide +kernel⟩,
   ⟨readable_of (by decide +kernel), by decide +kernel⟩, ⟨issues_of (by decide +kernel), by decide +kernel⟩,
   ⟨issues_of (by decide +kernel), by decide +kernel⟩, ⟨issues_of (by decide +kernel), by decide +kernel⟩,
   ⟨issues_of (by decide +kernel), by decide +kernel, base_idle, base_idle, by decide +kernel⟩,
   ⟨issues_of (by decide +kernel), by decide +kernel⟩, ⟨issues_of (by decide +kernel), by decide +kernel⟩,
   ⟨issues_of (by decide +kernel), by decide +kernel⟩, ⟨issues_of (by decide +kernel), by decide +kernel⟩⟩

theorem witness_TablesAndInspection :
    (let s := chained 1
     Issues (.chstat g0 5 10 0) s ∧ ∃ x t, liveChain s.ready 0x40005 = some x ∧ x.job = s.me.task.job ∧ 0 < x.links.length ∧
       boundSlot s.ready x 0x40005 0 = some t) ∧
    (Issues (.chstat off 5 10 63) tiled ∧ liveChain tiled.ready (tiled.me.rdS 10) = none) ∧
    (let s := chained 1
     Issues (.chstat g0 5 10 1) s ∧ ∃ x, liveChain s.ready 0x40005 = some x ∧ x.links.length ≤ 1) ∧
    (Issues (.chstatSlot g0 5 7) base ∧ (base.ready.slots.get 7).state = .free) ∧
    (let i := Instr.tidset g0 63 4
     let s := recorded [(0, 32, (desc true).toNat)]
     Issues i s ∧ accepted s 0 (s.me.rdS 4) 32 32 ∧ recordReadable s (some (s.me.rdS 4, 32, 32)) ∧
       descFault s.ready s.me (BitVec.ofNat 256 (field s 0x1000 0 32)) = none) ∧
    (let s := recorded []
     ∃ n, descFault s.ready s.me (BitVec.ofNat 256 (field s 0x1000 0 32)) = some n) ∧
    Issues (.tidsetInv g0 63) base ∧
    (let s := regs [(4, 0x7C00)]
     Issues (.tidsetCb g0 3 4) s ∧ accepted s 0 (s.me.rdS 4) 1024 32 ∧ recordReadable s (some (s.me.rdS 4, 32, 1024)) ∧
       codebookStarts s.me 3 = []) :=
  ⟨⟨issues_of (by decide +kernel), _, (chained 1).dev.slots.get 2, rfl, by decide +kernel⟩, ⟨issues_of (by decide +kernel), by decide +kernel⟩,
   ⟨issues_of (by decide +kernel), _, rfl, by decide +kernel⟩, ⟨issues_of (by decide +kernel), by decide +kernel⟩,
   ⟨issues_of (by decide +kernel), accepted_spad (by decide +kernel), readable_of (by decide +kernel), by decide +kernel⟩,
   ⟨_, rfl⟩, issues_of (by decide +kernel),
   ⟨issues_of (by decide +kernel), accepted_spad (by decide +kernel), readable_of (by decide +kernel), by decide +kernel⟩⟩

/-! ### Roles, firmware and jobs -/

/-- Context 0, the primary, in an engine wait beside the secondary on context 1; or not. -/
def pair (waits : Bool) : State := upd (fun k => { k with waiting := waits }) (two 1 2)

theorem witness_RolesAndTimers_roles :
    (let s := pair true
     (s.dev.cores.get 0).primary = 0 + 1 ∧ (s.dev.cores.get 0).secondary = 1 + 1 ∧ (s.dev.ctx (0 * 2 ^ 17 + 0)).cond = .resident ∧
       (s.dev.ctx (1 * 2 ^ 17 + 0)).cond = .resident ∧ (s.dev.ctx (1 * 2 ^ 17 + 0)).susp = none ∧ (s.dev.ctx 0).waiting = true) ∧
    (let k := (pair false).dev.ctx 0; ¬ (k.waiting = true ∨ 17 ≤ k.dueStall ∨ k.susp ≠ none)) ∧
    ((pair false).dev.cores.get 0).idle + 1024 < (dev (fun d => { d with cycle := 1025 }) (pair false)).dev.cycle ∧
    (dev (fun d => { d with cycle := 1024 }) (pair false)).dev.cycle ≤ ((pair false).dev.cores.get 0).idle + 1024 ∧
    (let s := upd fun k => { k with infl := [dueEntry false none] }
     s.bundle = none ∧ (s.dev.ctx 0).cond = .resident ∧
       (s.dev.ctx 0).infl.any (fun e => decide (e.rem = 0) && !e.ready && e.fault.isNone) = true) := by decide +kernel

/-- A pin that has refused a request at cycle 5, and PINLIM 10. -/
def refusing (now : Nat) : State :=
  dev (fun d => { d.setHl 0x4000 0 { (d.hl 0x4000 0) with pinned := 1 } with cycle := now })
    (sprs [(0x0D0, 10)] (upd fun k => { k with pins := [⟨0x4000, 0, .die, 0x200000, some 5, 0, .die⟩] }))

theorem witness_RolesAndTimers_timers :
    (let s := refusing 15
     (s.dev.ctx 0).cond = .resident ∧ lone s.dev 0 ∧
       (s.dev.ctx 0).pins.find? (fun x => x.line == 0x4000) = some ⟨0x4000, 0, .die, 0x200000, some 5, 0, .die⟩ ∧
       (∀ x ∈ (s.dev.ctx 0).pins, x.line = 0x4000 → x.holder = 0) ∧ (s.dev.hl 0x4000 0).pinned = 0 + 1 ∧
       (s.dev.hl 0x4000 0).deferred = none ∧ 5 + ((s.dev.ctx 0).spr' 0x0D0).toNat ≤ s.dev.cycle) ∧
    (refusing 14).dev.cycle < 5 + (((refusing 14).dev.ctx 0).spr' 0x0D0).toNat ∧
    (base.dev.ctx 0).cond ≠ .free ∧ (base.dev.ctx 0).rq.length < 16 ∧
    16 ≤ ((upd fun k => { k with rq := List.replicate 16 0 }).dev.ctx 0).rq.length := by
  unfold lone; decide +kernel

/-- Context 0 suspended for firmware, with a handler or without. -/
def frozenAt (vec : Word) : State := sprs [(0x050, vec)] (unlinked (jobbed (upd fun k => { k with susp := some soft })))

theorem witness_FirmwareCommands :
    (let s := frozenAt 0x20000
     atRest s 0 ∧ lone s.dev 0 ∧ (s.dev.pkg 0).machineCheck = false ∧ (s.dev.ctx 0).cond = .resident ∧ (s.dev.ctx 0).susp = some soft ∧
       soft.acc = 0 ∧ (s.dev.ctx 0).gq = [] ∧ (s.dev.ctx 0).spr' 0x050 ≠ 0 ∧ (s.dev.ctx 0).hs = .stream) ∧
    (let s := frozenAt 0
     (s.dev.ctx 0).susp = some soft ∧ endsAlone s 0 ∧ (s.dev.ctx 0).spr' 0x050 = 0) ∧
    (atRest base 0 ∧ lone base.dev 0 ∧ (base.dev.ctx 0).susp = none ∧ (base.dev.ctx 0).queues = [] ∧ (base.dev.ctx 0).subs = [] ∧
      (base.dev.ctx 0).streams = [] ∧ (base.dev.ctx 0).nodes = []) := by
  unfold atRest lone endsAlone; decide +kernel

theorem get_below {α : Type} [Inhabited α] {m : SMap α} {k : Nat} (h : m.all (fun x => decide (x.1 < k)) = true) : m.get k = default := by
  induction m with
  | nil => rfl
  | cons x r ih =>
    simp only [List.all_cons, Bool.and_eq_true, decide_eq_true_eq] at h
    simp only [SMap.get]
    rw [if_neg (by omega), if_neg (by omega)]
    exact ih h.2

/-- A line that the home has to itself, all lines that holders know being lower ones. -/
def freeB (d : Dev) (line : Nat) : Bool :=
  decide ((d.home line).away = 0 ∧ (d.home line).ownerAway = false ∧ (d.home line).active = 0 ∧ (d.home line).upd = none) &&
    d.msgs.all (fun m => !m.isToks line) && d.holders.all fun x => decide (x.1 < hkey line 0)

theorem homeFree_of {d : Dev} {line : Nat} (h : freeB d line = true) : homeFree d line := by
  simp only [freeB, Bool.and_eq_true, decide_eq_true_eq] at h
  obtain ⟨⟨⟨h1, h2, h3, h4⟩, h5⟩, h6⟩ := h
  refine ⟨h1, h2, h3, h4, fun n => ?_, h5⟩
  have : d.hl line n = default := by
    apply get_below
    rw [List.all_eq_true] at h6 ⊢
    intro x hx
    have h7 : x.1 < hkey line 0 := of_decide_eq_true (h6 x hx)
    have h8 : hkey line 0 ≤ hkey line n := by unfold hkey; exact Nat.add_le_add_left (Nat.zero_le n) _
    exact decide_eq_true (Nat.lt_of_lt_of_le h7 h8)
  rw [this]; exact ⟨rfl, rfl, rfl, rfl⟩

theorem storable_of {d : Dev} {pkg a n : Nat}
    (h : (decide (pkg < d.npkg ∧ physFault d pkg a n = none ∧ a % 128 + n ≤ 128 ∧ (d.pkg (a / 2 ^ 46)).migThresh = 0) && freeB d (a / 128)) = true) :
    storable d pkg a n := by
  simp only [Bool.and_eq_true, decide_eq_true_eq] at h
  exact ⟨h.1.1, h.1.2.1, h.1.2.2.1, homeFree_of h.2, h.1.2.2.2⟩

/-- A fault ring of 64 records in memory at 0x100000 with one record waiting. -/
def ringed (size tail head : Nat) : State :=
  dev (fun d => d.updPkg 0 fun p =>
    { p with fringBase := 0x100000, fringSize := size, fringTail := tail, fringHead := head, frecs := [default] })

/-- A package that admits. -/
def admitting : State := dev (fun d => d.updPkg 0 fun p => { p with admitState := 1 }) base

theorem witness_FirmwareRegistersAndFaultRing :
    (let p := (ringed 6 63 0).dev.pkg 0
     p.frecs = default :: [] ∧ 6 ≤ p.fringSize ∧ p.fringSize ≤ 16 ∧ (p.fringTail + 128 - p.fringHead % 128) % 128 ≠ 64 ∧
       isMemory (p.fringBase.toNat + 64 * (p.fringTail % 64)) = true ∧ p.fringBase.toNat % 4096 = 0 ∧
       (ringed 6 63 0).dev.lineBad ((p.fringBase.toNat + 64 * 63) / 128) = false ∧
       ((ringed 6 63 0).dev.pkg ((p.fringBase.toNat + 64 * 63) / 2 ^ 46)).migThresh = 0) ∧
    homeFree (ringed 6 63 0).dev ((0x100000 + 64 * 63) / 128) ∧
    (let s := dev (fun d => d.setHl (0x100000 / 128) 8 { (default : HLine) with tokens := 1024, owner := true, data := some 5 }) (ringed 16 0 7)
     (s.dev.hl (0x100000 / 128) 8).tokens = 1024 ∧ (s.dev.hl (0x100000 / 128) 8).data = some 5 ∧ s.dev.dataBad (0x100000 / 128) = false) ∧
    (isMemory 0x80 = true ∧ 0 < base.dev.npkg ∧ homeFree base.dev (0x80 / 128)) ∧
    ((ringed 6 0 0).dev.pkg 0).admitState ≠ 1 ∧ ((admitting).dev.pkg 0).admitState = 1 ∧
    (let p := (ringed 6 64 0).dev.pkg 0; (p.fringTail + 128 - p.fringHead % 128) % 128 = 64) ∧
    ((ringed 17 0 0).dev.pkg 0).fringSize = 17 ∧ (base.dev.pkg 0).frecs = [] ∧
    (packageWrite (base.dev.pkg 0) 0x10320 1).isSome = true ∧ packageWrite (base.dev.pkg 0) 0x10240 1 = none ∧
    (1 ≤ (command 3 0 5).toNat / 2 ^ 56 ∧ (command 3 0 5).toNat / 2 ^ 56 ≤ 3 ∧ (command 3 0 5).toNat / 2 ^ 11 % 64 = 0) ∧
    ¬ 1 ≤ (command 0 0 5).toNat / 2 ^ 56 :=
  ⟨by decide +kernel, homeFree_of (by decide +kernel), by decide +kernel, ⟨by decide +kernel, by decide +kernel, homeFree_of (by decide +kernel)⟩,
   by decide +kernel⟩

/-- Job 1 with a type of 32 vector registers, a save pool of four areas and `q` waiting at its priority. -/
def waiting (q : QTask) (s : State := base) : State :=
  dev (fun d => d.updJob 0 1 fun j =>
    { j with
      live := true, gang := 1, saven := 4, queues := [(q.prio, [q])]
      types := [(0, { (default : TaskType) with entry := 0x10000, vregs := 32, spad := 0x1000 })] }) s
def specific (prio : Nat) : QTask := { (default : QTask) with job := 1, prio := prio }

/-- Every context of core 0 with a task of priority 0. -/
def crowd (s : State) : State := dev (fun d => { d with ctxs := (List.range 4).map fun n => (n * 2 ^ 17, task0) }) s

theorem witness_TasksComeAndGo :
    (let s := waiting (specific 15) (crowd base)
     let d := reportDemands s.dev 0
     atRest s 0 ∧ dispatch d 0 = some (.preempt 0) ∧ nextDivert d 0 = .none) ∧
    nextDivert (upd fun k => { k with asyncs := [soft] }).dev 0 ≠ .none ∧
    dispatch base.dev 0 ≠ some (.preempt 0) ∧
    (let s := upd fun k => { k with cond := .saved }
     dispatch s.dev 0 = some (.resume 0 none 0) ∧ (s.dev.ctx 0).cond = .saved ∧ (s.dev.ctx 0).spilled = false ∧ (s.dev.ctx 0).gq = [] ∧
       (s.dev.ctx 0).susp = none) ∧
    (let s := unlinked base
     atRest s 0 ∧ (s.dev.ctx 0).cond ≠ .free ∧ (s.dev.ctx 0).pins = [] ∧ (s.dev.ctx 0).allot.links = 0 ∧ (s.dev.ctx 0).queues.get 5 = []) := by
  unfold atRest; decide +kernel

/-- A job record at 0x10000 with its type table at 0x20000, one initial task at 0x30000 (none where the gang is 3) and DONE at 0x40000, its pool in WIN0. -/
def recordOf (id gang : Nat) : List Byte :=
  let le := littleEndian
  le 8 id ++ le 8 gang ++ le 8 0x8000 ++ le 8 0x20000 ++ le 8 0x200000 ++ le 8 0x1000000 ++ le 80 0 ++ le 8 0x400000 ++ le 4 2 ++ le 4 (if gang = 3 then 0 else 1) ++
    le 8 0x30000 ++ le 16 0 ++ le 8 0x40000 ++ le 1 0x21 ++ le 1 5 ++ le 78 0
def typeOf : List Byte :=
  let le := littleEndian
  le 8 0x5000 ++ le 4 0x0220 ++ le 4 0x2000 ++ le 4 0x3000 ++ le 4 0x1000 ++ le 8 0x00FFFF0500000006 ++ le 8 7 ++ le 4 0x03000101
def admitted (id gang : Nat) (l : List (Nat × Bool)) : State :=
  dev (fun d =>
    { d.updPkg 0 fun p => { p with admitState := 1, admitUsed := l.length, admissions := l } with
      ctxs := [], cores := [], npkg := if gang = 3 then 2 else 1
      gmem := wrMem (wrMem (wrMem d.gmem 0x10000 (recordOf id gang)) 0x20000 typeOf) 0x30000
        (littleEndian 8 0x77 ++ littleEndian 4 0x300 ++ littleEndian 4 1 ++ littleEndian 8 0x11 ++ littleEndian 8 0x22) })

/-- The device when the control die has read the record at 0x10000 and its tables, and what the capture meets there. -/
def touched (s : State) (rest : List (Nat × Bool)) : Dev := captureTouch (s.dev.updPkg 0 fun p => { p with admissions := rest }) 0 0x10000
def checked (s : State) : Option (Option (Bool × Nat) × List Nat × Nat × Nat) :=
  (readCapture (touched s []) 0 0x10000 false).map fun x =>
    ((captureChecks (touched s []) 0 x).find? fun y => y.1, members s.dev x.gang, x.doneAddr, x.rec_ / 2 ^ (8 * 152) % 2 ^ 64)

/-- A machine with one message. -/
def mail (m : Msg) (s : State) : State := dev (fun d => { d with msgs := [m] }) s
/-- A capture of job 7 that waits for a member, with or without a failing offset known. -/
def asking (waiting : List Nat) (bad : Option Nat) (off : Option Nat) : State :=
  mail (.captured 0 7 1 off) (dev (fun d =>
    { d.updPkg 0 fun p => { p with capturing := some ⟨7, { (default : Job) with gang := 3, doneAddr := 0x40000 }, waiting, bad⟩ } with npkg := 2 }) base)
def askedFor (waiting : List Nat) (bad : Option Nat) : Option Capturing :=
  some ⟨7, { (default : Job) with gang := 3, doneAddr := 0x40000 }, waiting, bad⟩

theorem witness_JobsAreAdmittedAndCaptured :
    (let p := (admitted 7 1 []).dev.pkg 0
     (0xFFFFFFFFFFF00#64).toNat / 2 ^ 52 = 0 ∧ (0xFFFFFFFFFFF00#64).toNat % 2 ^ 8 = 0 ∧ p.admitUsed < 64 ∧ p.admitState = 1 ∧ 0 = base.dev.bridge) ∧
    (base.dev.pkg 0).admitState ≠ 1 ∧ (base.dev.pkg 0).admissions = [] ∧
    (let s := admitted 7 1 [(2 ^ 51, false)]
     (s.dev.pkg 0).capturing = none ∧ (s.dev.pkg 0).admissions = (2 ^ 51, false) :: [] ∧
       (physFault (captureTouch (s.dev.updPkg 0 fun p => { p with admissions := [] }) 0 (2 ^ 51)) 0 (2 ^ 51) 256).isSome = true) ∧
    checked (admitted 0 1 [(0x10000, false)]) = some (some (true, 0), [0], 0x40000, 0) ∧
    storable (touched (admitted 0 1 [(0x10000, false)]) []) 0 0x40000 64 ∧
    checked (admitted 7 1 [(0x10000, false)]) = some (none, [0], 0x40000, 0) ∧
    checked (admitted 7 3 [(0x10000, false)]) = some (none, [0, 1], 0x40000, 0) ∧
    (let s := mail (.capture 1 7 0x20000 { (default : Job) with dsmask := 0x21 }) (admitted 7 3 [])
     s.dev.msgs[0]? = some (.capture 1 7 0x20000 { (default : Job) with dsmask := 0x21 }) ∧ (s.dev.job 1 7).live = false ∧
       (s.dev.job 1 7).tentative = false ∧ physFault (ctlRead (without s 0) 1 0x20000 4096) 1 0x20000 4096 = none ∧
       (s.dev.dies.get 8).dsown = 0) ∧
    ((asking [1, 2] none none).dev.msgs[0]? = some (.captured 0 7 1 none) ∧ [1, 2].erase 1 ≠ []) ∧
    (((asking [1] none none).dev.pkg 0).capturing = askedFor [1] none ∧ [1].erase 1 = []) ∧
    ((asking [1] (some 24) (some 0)).dev.pkg 0).capturing = askedFor [1] (some 24) ∧
    storable (asking [1] none (some 0)).dev 0 0x40000 64 ∧
    (∃ j : Job, (mail (.keep 0 7 true j) base).dev.msgs[0]? = some (.keep 0 7 true j) ∧ j.sheet = none ∧ j.queues = []) ∧
    (let s := mail (.keep 0 7 false default) (dev (fun d => d.updJob 0 7 fun _ => { (default : Job) with tentative := true }) base)
     s.dev.msgs[0]? = some (.keep 0 7 false default) ∧ (s.dev.job 0 7).tentative = true) :=
  ⟨by decide +kernel, by decide +kernel, by decide +kernel, by decide +kernel, by decide +kernel, storable_of (by decide +kernel),
   by decide +kernel, by decide +kernel, ⟨rfl, by decide +kernel⟩, ⟨rfl, by decide⟩, by decide +kernel, by decide +kernel,
   storable_of (by decide +kernel), ⟨default, rfl, rfl, rfl⟩, ⟨rfl, by decide +kernel⟩⟩

/-- The new task of a queue on a machine with no task: where the dispatcher puts it. -/
def taskless (s : State) : State := dev (fun d => { d with ctxs := [], cores := [] }) s

theorem witness_TasksArePlaced :
    let s := waiting (specific 3) (taskless base)
    ∃ n al, dispatch s.dev 0 = some (.place 1 3 0 n al) ∧ ((s.dev.job 0 1).queues.get 3) = specific 3 :: [] ∧
      freeArea s.dev 0 1 = some 0 ∧ n < 4 ∧ (∀ m, m < 4 → (s.dev.ctx (m * 2 ^ 17 + 0)).cond ≠ .saved) ∧ 32 ≤ al.spLen ∧
      al.spBase + al.spLen ≤ 2 ^ 20 ∧ al.arBase + al.arLen ≤ 2 ^ 20 ∧ al.lsBase + al.lsLen ≤ 2 ^ 18 ∧ al.vBase + al.vSize ≤ 128 := by
  have h : (match dispatch (waiting (specific 3) (taskless base)).dev 0 with
      | some (.place 1 3 0 0 al) => decide (al = ⟨0, 0x1000, 0, 0, 0, 0, 0, 0, 32⟩)
      | _ => false) = true := by decide +kernel
  refine ⟨0, ⟨0, 0x1000, 0, 0, 0, 0, 0, 0, 32⟩, ?_, by decide +kernel⟩
  split at h
  · rename_i al e; rw [e, of_decide_eq_true h]
  · cases h

def packet (any : Bool) (target : Nat) : SpawnPkt := ⟨0, 1, 0, 0, { (specific 3) with any := any, target := target }⟩

theorem nobody {d : Dev} {pkg job : Nat} (h : (d.msgs.all fun m => match m with
    | .capture _ _ _ _ | .keep _ _ _ _ => false
    | _ => true) = true) : ¬ onItsWay d pkg job := by
  rw [List.all_eq_true] at h
  rintro (⟨t, j, hm⟩ | ⟨a, j, hm⟩) <;> exact absurd (h _ hm) (by simp)

theorem witness_SpawnsAndCompletion :
    (let s := mail (.spawn (packet false 48)) jobbed
     s.dev.msgs[0]? = some (.spawn (packet false 48)) ∧ (s.dev.job 0 1).live = true ∧ spawnReady s.dev (packet false 48) = true ∧
       (s.dev.pkg 0).unreachable = false ∧ (s.dev.job 0 1).cancelled = false ∧ coreDown s.dev 48 = true ∧ coreDown s.dev 47 = false) ∧
    (let s := mail (.spawn (packet false 48)) base
     spawnReady s.dev (packet false 48) = true ∧ (s.dev.pkg 0).unreachable = false ∧ (s.dev.job 0 1).live = false) ∧
    (let s := mail (.spawn (packet false 48)) (dev (fun d => d.updPkg 0 fun p => { p with unreachable := true }) jobbed)
     spawnReady s.dev (packet false 48) = true ∧ (s.dev.pkg 0).unreachable = true) ∧
    (let p : SpawnPkt := { packet false 48 with gtag := 1 }
     spawnReady (mail (.spawn p) (upd (fun k => { k with gq := [{ accessOf base ldg1 ⟨g0, .ldg .d, .dom, 5, 0, 8, 0, 0⟩ 0 false with tag := 1 }] }) jobbed)).dev
       p = false) ∧
    ((cancelledJob base).dev.job 0 1).cancelled = true ∧
    (let s := mail (.spawnAck (packet true 0) true) base
     s.dev.msgs[0]? = some (.spawnAck (packet true 0) true) ∧ lone s.dev 0 ∧ (s.dev.ctx 0).serial = 1 ∧ (s.dev.ctx 0).cond = .resident) ∧
    ((mail (.cancel 0 1) jobbed).dev.msgs[0]? = some (.cancel 0 1) ∧ ¬ onItsWay (mail (.cancel 0 1) jobbed).dev 0 1 ∧
      (jobbed.dev.job 0 1).live = true ∧ (jobbed.dev.job 0 1).cancelled = false ∧ (base.dev.job 0 1).live = false) ∧
    onItsWay (mail (.capture 0 1 0 default) base).dev 0 1 ∧
    (let s := jobbed
     members s.dev (s.dev.job 0 1).gang = [0] ∧ (s.dev.job 0 1).live = true ∧ (s.dev.job 0 1).admitPkg = 0 ∧
       (s.dev.job 0 1).out + (s.dev.job 0 1).infl ≠ 0) ∧
    (let s := waiting (specific 3) base
     (s.dev.job 0 1).out + (s.dev.job 0 1).infl = 0 ∧ (s.dev.job 0 1).round ≠ some [0]) ∧
    (let s := dev (fun d => d.updJob 0 1 fun j => { j with round := some [0], doneAddr := 0x40000 }) (waiting (specific 3) base)
     (s.dev.job 0 1).round = some ([s.dev.job 0 1].map Job.epoch) ∧ storable s.dev 0 0x40000 64) :=
  ⟨by decide +kernel, by decide +kernel, by decide +kernel, by decide +kernel, by decide +kernel,
   ⟨by decide +kernel, by unfold lone; decide +kernel, by decide +kernel⟩,
   ⟨rfl, nobody (by decide +kernel), by decide +kernel⟩, .inl ⟨_, _, List.mem_singleton.2 rfl⟩,
   by decide +kernel, by decide +kernel, by decide +kernel, storable_of (by decide +kernel)⟩

/-- A sheet of three entries at 0x500000 in WIN0: two of frame 0, of a type and core that exist and of a type that does not, one of
frame 1. T0 is 900 and a frame has 100 ticks; two frames; slip records at 0x600000. -/
def entryText (f tick type core : Nat) : List Byte :=
  littleEndian 4 f ++ littleEndian 4 tick ++ littleEndian 4 type ++ littleEndian 4 core ++ littleEndian 16 5
def sheet0 : Sheet :=
  { (default : Sheet) with
    addr := 0x500000, nent := 3, fticks := 100, nframe := 2, slipn := 4, slipAddr := 0x600000, t0 := 900, start := 900, lastRetire := 900 }
def sheeted (now : Nat) (sh : Sheet) (gang : Word := 1) : State :=
  dev (fun d =>
    { ((d.updPkg 0 fun p => { p with frame := BitVec.ofNat 64 now }).updPkg 1 fun p => { p with frame := BitVec.ofNat 64 now }).updJob 0 1
        fun j => { j with gang := gang, wins := [0x400000, 0x400000, 0], sheet := some sh } with
      npkg := if gang = 1 then 1 else 2
      gmem := wrMem d.gmem 0x500020 (entryText 0 50 0 3 ++ entryText 0 60 9 3 ++ entryText 1 0 0 3) }) (waiting (specific 3) base)

theorem slip_window (va : Nat) (h : 0x400000 ≤ va ∧ va < 0x800000) (s : State)
    (hw : (s.dev.job 0 1).wins = [0x400000, 0x400000, 0]) : winPa (s.dev.job 0 1) va va := by
  simp only [winPa, hw]
  refine ⟨h.1, h.2, .inl (by decide), ?_⟩
  show va = (va + 0) % 2 ^ 52
  omega

/-- The device when the control die has read entry 0 or 1. -/
def entryRead (s : State) (n : Nat) : Dev := jobTouch s.dev 0 (s.dev.job 0 1) (0x500000 + 32 + 32 * n) 32

theorem witness_CallSheetsRun_entries :
    (let s := sheeted 950 { sheet0 with started := true, nent := 1 }
     (s.dev.job 0 1).sheet = some { sheet0 with started := true, nent := 1 } ∧
       sheetEntry s.dev 0 (s.dev.job 0 1) { sheet0 with started := true, nent := 1 } 0 =
         sheetEntry (entryRead s 0) 0 (s.dev.job 0 1) { sheet0 with started := true, nent := 1 } 0 ∧
       ∃ e, sheetEntry (entryRead s 0) 0 (s.dev.job 0 1) { sheet0 with started := true, nent := 1 } 0 = some e ∧
         e % 2 ^ 32 = 0 ∧ e / 2 ^ 72 % 2 ^ 24 = 0 ∧
         e / 2 ^ 113 % 2 ^ 15 = 0 ∧ e / 2 ^ 192 % 2 ^ 64 = 0 ∧ 900 + e / 2 ^ 32 % 2 ^ 32 ≤ (s.dev.pkg 0).frame.toNat ∧
         e / 2 ^ 64 % 2 ^ 8 ∈ (s.dev.job 0 1).types.map Prod.fst ∧ e / 2 ^ 96 % 2 ^ 17 / 2 ^ 11 = 0 ∧
         e / 2 ^ 96 % 2 ^ 17 ∉ s.dev.disabled ∧ e / 2 ^ 96 % 2 ^ 17 % 64 < 48) ∧
    (let sh := { sheet0 with started := true, next := 1, nent := 2 }
     let s := sheeted 959 sh
     sheetEntry s.dev 0 (s.dev.job 0 1) sh 1 = sheetEntry (entryRead s 1) 0 (s.dev.job 0 1) sh 1 ∧
     ∃ e, sheetEntry (entryRead s 1) 0 (s.dev.job 0 1) sh 1 = some e ∧ e % 2 ^ 32 = sh.frame ∧
       (s.dev.pkg 0).frame.toNat < 900 + e / 2 ^ 32 % 2 ^ 32 ∧ e / 2 ^ 64 % 2 ^ 8 ∉ (s.dev.job 0 1).types.map Prod.fst) :=
  ⟨⟨by decide +kernel, by decide +kernel, _, rfl, by decide +kernel⟩, by decide +kernel, _, rfl, by decide +kernel⟩

/-- The last sheet position of frame 0, all retired. -/
def overSheet : Sheet := { sheet0 with started := true, next := 2 }
theorem frameOver_of {s : State} {sh : Sheet} (h : sh.live = [] ∧
    ((sheetEntry s.dev 0 (s.dev.job 0 1) sh sh.next).any fun e => e % 2 ^ 32 != sh.frame) = true) :
    frameOver s.dev 0 (s.dev.job 0 1) sh := by
  refine ⟨h.1, .inr ?_⟩
  cases e : sheetEntry s.dev 0 (s.dev.job 0 1) sh sh.next with
  | none => simp [e] at h
  | some v => exact ⟨v, rfl, by simpa [e] using h.2⟩

theorem witness_CallSheetsRun_frames :
    ((sheeted 900 sheet0).dev.job 0 1).sheet = some sheet0 ∧ sheet0.started = false ∧ sheet0.ended = false ∧
    sheet0.t0 ≤ ((sheeted 900 sheet0).dev.pkg 0).frame.toNat ∧ ((sheeted 899 sheet0).dev.pkg 0).frame.toNat < sheet0.t0 ∧
    (let s := sheeted 1000 overSheet
     frameOver s.dev 0 (s.dev.job 0 1) overSheet ∧ overSheet.frame + 1 < overSheet.nframe ∧ members s.dev (s.dev.job 0 1).gang = [0] ∧
       900 + 100 ≤ (s.dev.pkg 0).frame.toNat ∧ overSheet.lastRetire ≤ 1000) ∧
    frameOver (sheeted 1000 { overSheet with nframe := 1 }).dev 0 ((sheeted 1000 { overSheet with nframe := 1 }).dev.job 0 1) { overSheet with nframe := 1 } ∧
    (let sh := { overSheet with lastRetire := 1050 }
     let s := sheeted 1060 sh
     frameOver s.dev 0 (s.dev.job 0 1) sh ∧ 1000 < sh.lastRetire ∧ sh.lastRetire ≤ (s.dev.pkg 0).frame.toNat ∧ sh.slipn ≠ 0 ∧
       winPa (s.dev.job 0 1) 0x600000 0x600000 ∧ winPa (s.dev.job 0 1) 0x500018 0x500018 ∧ storable s.dev 0 0x600000 32 ∧
       storable s.dev 0 0x500018 8) :=
  ⟨by decide +kernel, rfl, rfl, by decide +kernel, by decide +kernel, ⟨frameOver_of (by decide +kernel), by decide +kernel⟩,
   frameOver_of (by decide +kernel), frameOver_of (by decide +kernel), by decide +kernel, by decide +kernel, by decide +kernel,
   slip_window _ (by decide) _ (by decide +kernel), slip_window _ (by decide) _ (by decide +kernel), storable_of (by decide +kernel),
   storable_of (by decide +kernel)⟩

def rep (p tick : Nat) : FrameRep := ⟨p, tick, 1, 2⟩

theorem witness_CallSheetsRun_gangs :
    (let s := dev (fun d => d.updJob 1 1 fun _ => d.job 0 1) (sheeted 1000 overSheet 3)
     (s.dev.job 1 1).sheet = some overSheet ∧ members s.dev (s.dev.job 1 1).gang = [0, 1] ∧ overSheet.due = none ∧ overSheet.reported = false ∧
       ((sheetEntry s.dev 1 (s.dev.job 1 1) overSheet 2).any fun e => e % 2 ^ 32 != overSheet.frame) = true) ∧
    (let s := mail (.report 0 1 (rep 1 950)) (sheeted 1000 { overSheet with reports := [rep 0 940] } 3)
     s.dev.msgs[0]? = some (.report 0 1 (rep 1 950)) ∧ (s.dev.job 0 1).sheet = some { overSheet with reports := [rep 0 940] } ∧
       (∀ p ∈ members s.dev (s.dev.job 0 1).gang, ∃ r ∈ [rep 0 940, rep 1 950], r.member = p) ∧
       ∃ p ∈ members s.dev (s.dev.job 0 1).gang, ∀ r ∈ [rep 1 950], r.member ≠ p) ∧
    (let s := mail (.frame 0 1 1 ⟨1200, 1, 2⟩) (sheeted 1200 overSheet 3)
     s.dev.msgs[0]? = some (.frame 0 1 1 ⟨1200, 1, 2⟩) ∧ (s.dev.job 0 1).sheet = some overSheet ∧ overSheet.ended = false ∧
       (s.dev.pkg 0).frame.toNat ≤ 1200 ∧ ¬ ((sheeted 1201 overSheet 3).dev.pkg 0).frame.toNat ≤ 1200) := by decide +kernel

/-! ### Engines at work and the memory system -/

def op0 (kind : EOp) (phase : Phase := .queued) (pos : Nat := 0) : EngOp := { (default : EngOp) with kind := kind, phase := phase, seq := 5, pos := pos }
/-- Operations in a queue of context 0, its ring 2 as given; its fence as given. -/
def working (q : Nat) (l : List EngOp) (u : Sub := default) (f : List QFence := []) : State :=
  upd fun k => { k with queues := SMap.set [] q l, subs := SMap.set [] 2 u, fences := f }
/-- A copy of five runs of twelve bytes, in SPACE 0. -/
def copy0 (ssp : Nat) : CpyDesc :=
  { sa := 0x10, da := 0x1000, ssp := ssp, dsp := 0, n0 := 12, n1 := 5, n2 := 1, n3 := 1, ss1 := 20, ss2 := 0, ss3 := 0
    ds1 := -16, ds2 := 0, ds3 := 0 }

theorem mayGo_of {k : Ctx} {q : Nat} {o : EngOp} (h : o.phase = .started ∨
    o.phase = .queued ∧ (k.gq.all fun a => decide (o.gtag < a.tag)) = true ∧
      (k.fences.all fun f => !f.mask.getLsbD q || decide (o.seq ≤ f.seq)) = true) : mayGo k q o := by
  refine h.imp_right fun ⟨h1, h2, h3⟩ => ⟨h1, fun a ha => of_decide_eq_true (List.all_eq_true.1 h2 a ha), fun f hf hm => ?_⟩
  have := List.all_eq_true.1 h3 f hf
  rw [hm] at this
  exact of_decide_eq_true this

/-- What an engine's access answers. -/
def okOf {α : Type} (x : EAcc α) : Option Dev :=
  match x with
  | .ok d _ => some d
  | _ => none
def faultDev {α : Type} (x : EAcc α) : Option (Dev × Nat) :=
  match x with
  | .fault d cause _ => some (d, cause)
  | _ => none
/-- The fault of an engine's access. -/
def faultOf {α : Type} (x : EAcc α) : Option (Nat × Word) :=
  match x with
  | .fault _ cause a => some (cause, a)
  | _ => none

theorem witness_EnginesCarryOn_start :
    (let s := working 1 [op0 (.subs 1)] default [⟨2, 4, false⟩]
     lone s.dev 0 ∧ (s.dev.ctx 0).queues.get 1 = [op0 (.subs 1)] ∧ ∃ f ∈ (s.dev.ctx 0).fences, f.mask.getLsbD 1 = true ∧ f.seq < (op0 (.subs 1)).seq) ∧
    mayGo ((working 1 [op0 (.rrel 2 6)]).dev.ctx 0) 1 (op0 (.rrel 2 6)) ∧ quickQueue (.subs 1) = some 1 ∧
    (let u := { (ring 2 0) with rcb := 0x7FE0, stored := 3 }
     let s := working 1 [op0 (.unsub 2 3)] u
     (s.dev.ctx 0).subs.get 2 = u ∧ mayGo (s.dev.ctx 0) 1 (op0 (.unsub 2 3)) ∧ u.state ≠ 4 ∧ 3 ≤ u.stored ∧ ¬ 4 ≤ u.stored ∧ u.mode = 2 ∧
       soundSpad s.dev (s.dev.ctx 0) ∧ u.rcb + 32 ≤ (s.dev.ctx 0).allot.spLen) ∧
    (let o := op0 (.cpy (copy0 0)) .started 59
     let s := working 0 [o]
     mayGo (s.dev.ctx 0) 0 o ∧ (s.dev.ctx 0).nodes = [] ∧ soundSpad s.dev (s.dev.ctx 0) ∧ o.pos < (copy0 0).bytes ∧
       ((List.range (copy0 0).bytes).all fun j =>
         decide (((copy0 0).at j).1 < (s.dev.ctx 0).allot.spLen ∧ ((copy0 0).at j).2.1 < (s.dev.ctx 0).allot.spLen)) = true ∧
       ((List.range 5).all fun i => decide (0 ≤ (0x1000 : Int) + i * (copy0 0).ds1)) = true) ∧
    (let o := op0 (.hop 5 2 [(0, 7)])
     let s := working 5 [o]
     (s.dev.ctx 0).queues.get 5 = [o] ∧ mayGo (s.dev.ctx 0) 5 o ∧ o.phase = .queued) ∧
    (let o := op0 (.hop 5 2 [(0, 7)]) .started
     let s := mail (.hop 5 2 [(0, 7)]) (working 5 [o])
     mayGo (s.dev.ctx 0) 5 o ∧ Msg.hop 5 2 [(0, 7)] ∈ s.dev.msgs ∧ Msg.hop 5 2 [(0, 7)] ∉ (working 5 [o]).dev.msgs) ∧
    (let u := { (ring 1 3) with filling := true, state := 2 }
     u.state ≠ 4 ∧ u.filling = true) :=
  ⟨by unfold lone; decide +kernel, mayGo_of (by decide +kernel), rfl,
   ⟨by decide +kernel, mayGo_of (by decide +kernel), by decide +kernel, by decide +kernel, by decide +kernel, by decide +kernel,
    by unfold soundSpad; decide +kernel, by decide +kernel⟩,
   ⟨mayGo_of (by decide +kernel), by decide +kernel, by unfold soundSpad; decide +kernel, by decide +kernel⟩,
   ⟨by decide +kernel, mayGo_of (by decide +kernel), by decide +kernel⟩, ⟨mayGo_of (by decide +kernel), by decide +kernel⟩, by decide⟩

theorem witness_EnginesCarryOn_end :
    (let o := { op0 (.subs 1) .finished with done := some 0x7FF8 }
     let s := working 1 [o]
     (s.dev.ctx 0).queues.get 1 = [o] ∧ o.phase = .finished ∧ (s.dev.ctx 0).fences = [] ∧ soundSpad s.dev (s.dev.ctx 0) ∧
       0x7FF8 + 8 ≤ (s.dev.ctx 0).allot.spLen) ∧
    (let f : QFence := ⟨6, 9, true⟩
     let s := working 1 [op0 (.subs 1) .finished, op0 (.subs 3)] default [f]
     (s.dev.ctx 0).fences = [f] ∧ f.mask.getLsbD 1 = true ∧ f.mask.getLsbD 0 = false ∧ (op0 (.subs 3)).seq ≤ f.seq) ∧
    (let s := dev (fun d => { d with badSpad := [0x2010 / 4] }) (working 0 [op0 (.cpy (copy0 0)) .started])
     faultOf (cpyNext s.dev 0 (op0 (.cpy (copy0 0)) .started) (copy0 0)) = some (0x0C, 0x10)) ∧
    (let o := op0 (.cpy (copy0 4))
     let s := working 0 [o]
     faultOf (cpyNext s.dev 0 o (copy0 4)) = some (0x0A, 0x10) ∧ o.pos < (copy0 4).bytes ∧ mayGo (s.dev.ctx 0) 0 o ∧
       (faultDev (cpyNext s.dev 0 o (copy0 4))).map (fun x => (x.1.spilled, (x.1.ctx 0).queues.get 0)) = some (s.dev.spilled, [o])) :=
  ⟨by unfold soundSpad; decide +kernel, by decide +kernel, by decide +kernel,
   ⟨by decide +kernel, by decide +kernel, mayGo_of (by decide +kernel), by decide +kernel⟩⟩

/-- Stream 3, bound, its next element of four at 0x300 of a space; or outbound with an element pushed. -/
def stream3 (space base : Nat) (out : Bool) (l : List Push) : Stream :=
  { (default : Stream) with
    bound := true, out := out, space := space, base := base, depth := 2, counts := [4, 1, 1, 1], strides := [256, 0, 0, 0], total := 4
    fetch := 1, pushed := l }
def streaming (st : Stream) : State := upd fun k => { k with streams := SMap.set [] 3 st, bktL2 := 131072, bktHbm := 131072 }
def push3 (space a : Nat) : Push := { (default : Push) with space := space, addr := a, sel := 0xFF00F0F }
/-- A ring that loads tiles of a descriptor in global memory, with a control block. -/
def loading : Sub := { (ring 1 0) with src := desc true, rcb := 0x7FE0, cnt1 := 4, cnt2 := 1 }
/-- Small tiles in global memory at 0x200000, their rows apart or in one place. -/
def small (apart : Bool) : BitVec 256 :=
  BitVec.ofNat 256 (0x200000 + 12 * 2 ^ 64 + (if apart then 16 * 2 ^ 96 else 0) + 2 * 2 ^ 160 + 2 * 2 ^ 176)
def filling (u : Sub) (tlb : List Tlb) : State :=
  dev (fun d => { d with dies := [(0, { (default : Die) with tlb := tlb })] })
    (upd fun k => { k with subs := SMap.set [] 2 u, bktL2 := 131072, bktHbm := 131072 })

theorem witness_RingsAndStreamsMove :
    (let s := filling loading []
     mayFill (s.dev.ctx 0) 2 = true ∧ mayStore (s.dev.ctx 0) 2 = false ∧ mayFill (base.dev.ctx 0) 2 = false ∧ (s.dev.ctx 0).subs.get 2 = loading ∧
       loading.state ≠ 0 ∧ loading.rcb + 32 ≤ (s.dev.ctx 0).allot.spLen ∧ faultOf (fillNext s.dev 0 2) ≠ none) ∧
    (let s := filling loading []
     (ringFaultOf s.dev 0 2).map (fun x => (x.2.1, (x.1.ctx 0).subs == (s.dev.ctx 0).subs, x.1.spilled.isEmpty)) = some (0x0A, true, true) ∧
       (s.dev.ctx 0).queues.get 1 = [] ∧ ((s.dev.ctx 0).subs.all fun x => x.1 == 2 || x.2.state == 0) = true) ∧
    (let s := filling loading [⟨1, 0x200000, 0x200000, 0x200000, 0⟩]
     (ringFaultOf s.dev 0 2).map (fun x => (x.2.1, x.2.2.2, x.1.spilled.isEmpty, x.1.badSpad)) = some (0x0B, false, true, [])) ∧
    (let s := streaming (stream3 0 0x200 false [])
     mayPrefetch s.dev 0 3 = true ∧ ((stream3 0 0x200 false []).elemAddr 1) = 0x300 ∧ 0x300 + 256 ≤ (s.dev.ctx 0).allot.spLen) ∧
    faultOf (prefetchNext (streaming (stream3 4 0x200 false [])).dev 0 3) = some (0x0A, 0x300) ∧
    (pushReady (streaming (stream3 0 0 true [push3 0 0x7F00])).dev 0 3).isSome = true ∧
    pushReady (streaming (stream3 0 0 true [])).dev 0 3 = none ∧
    faultOf (pushWrite (streaming (stream3 4 0 true [])).dev 0 3 (push3 4 0x300)) = some (0x0A, 0x300) ∧
    mayPrefetch (streaming (stream3 0 0 true [push3 0 0x8000])).dev 0 3 = false ∧
    faultOf (pushWrite (streaming (stream3 0 0 true [])).dev 0 3 (push3 0 0x8000)) = some (0x0B, 0x8000) := by decide +kernel

/-- A regulated stream of global memory with a bucket; what its read comes to; that an access's device left the streams alone. -/
def regulated (bucket : Nat) : State :=
  dev (fun d => { d with dies := [(0, { (default : Die) with tlb := [⟨1, 0, 0x200000, 0x200000, 0x1FF⟩] })] })
    (sprs [(0x090, 0x8000000001#64)] (upd (fun k => { k with bktL2 := bucket }) (streaming (stream3 4 0x200 false []))))
def readOf (s : State) : EAcc (List Byte) := eRead (s.dev.updCtx 0 (transferring default)) 0 4 0x300 256
def streamsKept (s : State) (d : Option Dev) : Bool :=
  d.any fun d => d.spilled.isEmpty && decide ((d.ctx 0).streams = (s.dev.ctx 0).streams) && decide ((d.ctx 0).cond = .resident)

theorem witness_RingsAndStreamsMove_buckets :
    mayPrefetch (regulated 0).dev 0 3 = true ∧ unregulated ((regulated 0).dev.ctx 0) 0x091 ∧ ¬ unregulated ((regulated 0).dev.ctx 0) 0x090 ∧
    streamsKept (regulated 0) (okOf (readOf (regulated 0))) = true ∧
    (okOf (readOf (regulated 0))).map (fun d => (d.ctx 0).reqs.l2) = some 2 ∧ ¬ 2 * (128 * 1024) ≤ ((regulated 131072).dev.ctx 0).bktL2 ∧
    (let s := streaming (stream3 0 0x7F01 false [])
     streamsKept s ((faultDev (prefetchNext s.dev 0 3)).map Prod.fst) = true) ∧
    (let s := streaming (stream3 0 0 true [])
     streamsKept s ((faultDev (pushWrite s.dev 0 3 (push3 0 0x8000))).map Prod.fst) = true) := by
  unfold unregulated; decide +kernel

/-- A ring about to load a small tile, and one about to store one, with the translation. -/
def loader : State := filling { loading with src := small true } [⟨1, 0x200000, 0x200000, 0x200000, 0x1FF⟩]
def storer : State := filling { (ring 2 0) with rcb := 0x7FE0, finOk := 1, dst := small false } [⟨1, 0x200000, 0x200000, 0x200000, 0x1FF⟩]

theorem witness_RingsAndStreamsMove_fill : mayFill (loader.dev.ctx 0) 2 = true ∧
    ((okOf (fillNext loader.dev 0 2)).map fun d => (((d.ctx 0).subs.get 2).state, d.spilled.isEmpty, d.badSpad)) = some (1, true, []) := by
  decide +kernel
theorem witness_RingsAndStreamsMove_store : mayStore (storer.dev.ctx 0) 2 = true ∧
    ((okOf (storeNext storer.dev 0 2)).map fun d => (((d.ctx 0).subs.get 2).state, d.spilled.isEmpty, d.badSpad)) = some (1, true, []) := by
  decide +kernel

/-- The line at 0x280: its home's state, a holder's, and a message, with no task on the machine, at cycle 1000. -/
def lineAt (h : Home) (x : HLine) (l : List Msg) : State :=
  dev (fun d => { d.setHl 5 3 x with homes := SMap.set [] 5 h, msgs := l, cycle := 1000 }) (taskless base)
def homeOf (away : Nat) (owner : Bool) (hints : List Nat) : Home :=
  { (default : Home) with away := away, ownerAway := owner, hints := hints }
def lineOf (tokens : Nat) (owner : Bool) (req : Option Req := none) : HLine :=
  { (default : HLine) with tokens := tokens, owner := owner, data := some 77, req := req }
def reqOf (attempt first sent : Nat) (belay : Bool) : Req := ⟨true, attempt, first, sent, belay⟩

theorem quiet (h : Home) (x : HLine) (l : List Msg) (n : Nat) : noneWaits (lineAt h x l).dev n := fun _ _ => rfl

theorem witness_TokensMove :
    (let s := lineAt (homeOf 1023 false [3, 8]) default [.tread 5 2 1]
     plainLine s.dev 5 ∧ s.dev.msgs[0]? = some (.tread 5 2 1) ∧ (s.dev.homes.get 5).ownerAway = false) ∧
    (let s := lineAt (homeOf 1024 true [3]) default [.twrite 5 2 1]
     plainLine s.dev 5 ∧ s.dev.msgs[0]? = some (.twrite 5 2 1) ∧ 1024 ≤ (s.dev.homes.get 5).away ∧ (s.dev.homes.get 5).ownerAway = true) ∧
    ((lineAt default (lineOf 0 false (some (reqOf 3 700 760 false))) []).dev.hl 5 3).req = some (reqOf 3 700 760 false) ∧
    (760 + 240 ≤ 1000 ∧ 1000 < 761 + 240 ∧ 1000 < 700 + 1200) ∧
    (let s := lineAt default (lineOf 1 true) [.fread 5 3 2 1]
     s.dev.msgs[0]? = some (.fread 5 3 2 1) ∧ (s.dev.hl 5 3).pinned = 0 ∧ (s.dev.hl 5 3).owner = true ∧ (s.dev.hl 5 3).tokens = 1) ∧
    (let s := lineAt default (lineOf 2 true) [.fwrite 5 3 2 1]
     s.dev.msgs[0]? = some (.fwrite 5 3 2 1) ∧ 1 < (s.dev.hl 5 3).tokens) ∧
    (let s := dev (fun d => { d.setHl 5 3 { (lineOf 2 true) with pinned := 1 } with msgs := [.fread 5 3 2 1] })
       (upd fun k => { k with pins := [⟨5, 3, .die, 0x280, none, 0, .die⟩] })
     (s.dev.hl 5 3).pinned = 0 + 1 ∧ lone s.dev 0 ∧ (s.dev.ctx 0).pins = [⟨5, 3, .die, 0x280, none, 0, .die⟩] ∧ s.dev.msgs[0]? = some (.fread 5 3 2 1)) ∧
    (let s := lineAt default (lineOf 2 true) [.activate 5 3 2]
     s.dev.msgs[0]? = some (.activate 5 3 2) ∧ s.dev.holderDown 3 = false ∧ (s.dev.hl 5 3).pinned = 0) := by
  unfold plainLine soundLine lone; decide +kernel

theorem witness_TokensMove_arrive :
    (let s := lineAt default (lineOf 1 false) [.toks 5 (some 3) 2 1023 true false false (some 9)]
     s.dev.msgs[0]? = some (.toks 5 (some 3) 2 1023 true false false (some 9)) ∧ s.dev.holderDown 3 = false ∧
       (s.dev.hl 5 3).forwarding = false ∧ noneWaits s.dev 3 ∧ roomy (withHolder s.dev 5 3 (lineOf 1024 true) []) 3 ∧ (s.dev.hl 5 3).req = none) ∧
    (let s := lineAt default (lineOf 1 false (some (reqOf 4 0 0 true))) [.toks 5 (some 3) 2 1023 true false false (some 9)]
     (s.dev.hl 5 3).req = some (reqOf 4 0 0 true) ∧ (s.dev.hl 5 3).tokens + 1023 = 1024) ∧
    ((lineAt default { (lineOf 0 false) with forwarding := true, fwdTo := 2 } []).dev.hl 5 3).fwdTo ≠ 3 ∧
    (let s := lineAt (homeOf 4 true [2]) default [.toks 5 none 2 4 true true false (some 9)]
     s.dev.msgs[0]? = some (.toks 5 none 2 4 true true false (some 9)) ∧ (s.dev.homes.get 5).active = 0) ∧
    (let s := lineAt { (homeOf 1024 true []) with active := 4 } default [.toks 5 none 2 4 false false false none]
     (s.dev.homes.get 5).active = 3 + 1) ∧
    enginePinned (lineAt default (lineOf 1 true) []).dev 5 3 = false ∧
    (let s := lineAt (homeOf 3 false []) (lineOf 0 false (some (reqOf 4 0 0 true))) [.belay 5 3]
     s.dev.msgs[0]? = some (.belay 5 3) ∧ ((s.dev.hl 5 3).req.any fun q => q.belay) = true ∧ plainLine s.dev 5 ∧
       (s.dev.homes.get 5).active = 0 ∧ (s.dev.homes.get 5).queue = [] ∧ (s.dev.homes.get 5).away < 1024) ∧
    (let s := lineAt { (homeOf 1024 true []) with active := 4 } default [.belayDone 5 3]
     s.dev.msgs[0]? = some (.belayDone 5 3) ∧ (s.dev.homes.get 5).active = 3 + 1 ∧ (s.dev.homes.get 5).active ≠ 2 + 1 ∧
       (s.dev.homes.get 5).acks = [] ∧ (s.dev.homes.get 5).deact = false) ∧
    (let s := lineAt { (homeOf 1024 true []) with active := 4, complete := true, acks := [8] } default [.ack 5 8]
     s.dev.msgs[0]? = some (.ack 5 8) ∧ (s.dev.homes.get 5).active ≠ 0 ∧ (s.dev.homes.get 5).acks.erase 8 = [] ∧
       (s.dev.homes.get 5).deact = false ∧ (s.dev.homes.get 5).complete = true) ∧
    (let s := lineAt { (homeOf 1024 true []) with active := 4, deact := true, acks := [8] } default [.ack 5 8]
     s.dev.msgs[0]? = some (.ack 5 8) ∧ (s.dev.homes.get 5).acks.erase 8 = [] ∧ (s.dev.homes.get 5).acks.erase 7 ≠ [] ∧
       (s.dev.homes.get 5).deact = true ∧ (s.dev.homes.get 5).queue = []) ∧
    (let s := dev (fun d => { d with dies := SMap.set [] 3 { (default : Die) with inReset := true } }) (lineAt default default [.activate 5 3 2])
     s.dev.msgs[0]? = some (.activate 5 3 2) ∧ s.dev.holderDown 3 = true) :=
  ⟨⟨by decide +kernel, by decide +kernel, by decide +kernel, quiet _ _ _ _, by unfold roomy; decide +kernel⟩, by decide +kernel, by decide +kernel,
   by decide +kernel, by decide +kernel, by decide +kernel, by unfold plainLine soundLine; decide +kernel, by decide +kernel, by decide +kernel,
   by decide +kernel, by decide +kernel⟩

/-- The line in update state with one operation here and one in die 1's buffer. -/
def updating (l : List Msg) : State :=
  dev (fun d => { d with
      updOrder := [5], dies := SMap.set [] 1 { (default : Die) with upd := [⟨5, .addI32, [(31, 9)]⟩] } })
    (lineAt { (default : Home) with upd := some .addI32, dies := [1], part := [(0, 5)], reds := 2 ^ 40 } default l)
/-- Four levels of tables that map the page of an address of job 7 to 0x777000, readable, executable and writable, in the system cache of
package 0. -/
def tableAt (va level : Nat) : Nat := 0x10000 * level + 8 * (va / 2 ^ (12 + 9 * (4 - level)) % 512)
def mapped (va : Nat) : State :=
  let put (level v : Nat) (d : Dev) : Dev := { d with gmem := wrMem d.gmem (tableAt va level) (littleEndian 8 v) }
  let take (level : Nat) (d : Dev) : Dev :=
    d.setHl (tableAt va level / 128) 8 { (default : HLine) with tokens := 1, data := some (memLine d (tableAt va level / 128)) }
  dev (fun d => take 1 (take 2 (take 3 (take 4 (put 4 0x777087 (put 3 0x40001 (put 2 0x30001
    (put 1 0x20001 (d.updJob 0 7 fun j => { j with ptroot := 0x10000 }))))))))) base

theorem witness_UpdatesAndTranslations :
    (let s := updating [.join 5 2 .addI32]
     s.dev.msgs[0]? = some (.join 5 2 .addI32) ∧ soundLine s.dev 5 ∧ noneWaits s.dev 2 ∧
       (s.dev.dies.get 2).upd = [] ∧ 2 ∉ (s.dev.homes.get 5).dies ∧ (s.dev.homes.get 5).upd = some .addI32) ∧
    (let s := lineAt default default [.join 5 2 .addI32]
     s.dev.homes.get 5 = default ∧ (∀ y ∈ s.dev.allHolders, s.dev.hl 5 y = default) ∧ (stackLines s.dev 0 (stackOf 640)).length < 16384) ∧
    (let s := updating [.tread 5 3 1]
     s.dev.msgs[0]? = some (.tread 5 3 1) ∧ (s.dev.homes.get 5).upd = some .addI32 ∧ soundLine s.dev 5 ∧ (s.dev.homes.get 5).ownerAway = false ∧
       operandsOf (absorbed s.dev 5) 31 = [9] ∧ operandsOf (absorbed s.dev 5) 1 = []) ∧
    ((updating [.fread 5 3 2 1, .join 5 3 .addI32]).dev.msgs.all fun y => served 5 .addI32 y == false) = true ∧
    (let s := updating []
     (s.dev.dies.get 1).upd = ⟨5, .addI32, [(31, 9)]⟩ :: [] ∧ stackLines s.dev 0 (stackOf 640) = 5 :: [] ∧
       2 ^ 40 ≤ (s.dev.home 5).reds ∧ (s.dev.home 5).upd ≠ none ∧ s.dev.lineBad 5 = false) ∧
    joinWaiting (lineAt default default [.join 5 2 .addI32]).dev 0 (stackOf 640) ∧ ¬ joinWaiting (updating []).dev 0 (stackOf 640) ∧
    (let a : GAcc := accessOf base ldg1 ⟨g0, .ldg .d, .dom, 5, 0x1FFF, 8, 0, 0⟩ 0 false
     let s := upd fun k => { k with gq := [a] }
     ∃ x ∈ s.dev.ctxs, x.1 / 2 ^ 11 % 64 = 0 ∧ x.2.task.job = 1 ∧ ∃ a ∈ x.2.gq, a.susp = false ∧ 0x1000 ≤ a.va.toNat ∧ a.va.toNat < 0x1000 + 0x1000) ∧
    (let s := mapped 0x123456789ABC
     (s.dev.dies.get 1).inReset = false ∧ (s.dev.job 0 7).ptroot = 0x10000 ∧ (s.dev.dies.get 1).tlb = [] ∧
       ((List.range 4).all fun i => isMemory (tableAt 0x123456789ABC (i + 1)) &&
         decide (1 ≤ (s.dev.hl (tableAt 0x123456789ABC (i + 1) / 128) 8).tokens ∧
           (s.dev.hl (tableAt 0x123456789ABC (i + 1) / 128) 8).data ≠ none ∧ tableAt 0x123456789ABC (i + 1) / 128 ∉ s.dev.badLines)) = true ∧
       (List.range 4).map (fun i => tableEntry s.dev (tableAt 0x123456789ABC (i + 1))) =
         [some (0x20 * 2 ^ 12 + 1), some (0x30 * 2 ^ 12 + 1), some (0x40 * 2 ^ 12 + 1), some 0x777087] ∧
       0x777087 / 2 ^ 8 % 16 = 0x777087 / 2 ^ 9 % 2 * 2 ∧ 0x777087 / 2 ^ 7 % 2 = 1 ∧ 0x777087 / 2 ^ 6 % 2 = 0 ∧
       0x123456789ABC / 4096 ≠ s.dev.pageVa.toNat / 4096) ∧
    (isMemory (2 ^ 51 - 1) = false ∧ tableEntry (mapped 0).dev (2 ^ 51 - 1) = none) :=
  ⟨⟨by decide +kernel, by unfold soundLine; decide +kernel, fun _ _ => rfl, by decide +kernel⟩, by decide +kernel,
   ⟨by decide +kernel, by decide +kernel, by unfold soundLine; decide +kernel, by decide +kernel⟩,
   by decide +kernel, by decide +kernel, ⟨5, 2, .addI32, List.mem_singleton.2 rfl, by decide +kernel⟩,
   (fun ⟨_, _, _, h, _⟩ => by cases h), by decide +kernel, by decide +kernel, by decide +kernel⟩

/-! ### Panels, links and entries -/

/-- Nodes of context 0, the last of them named z3 and its panels of a mask demanded. -/
def nodesOf (l : List Node) (mask : BitVec 8) (demanded : Bool := true) : State :=
  upd fun k =>
    { k with
      nodes := (List.range l.length).zip l, names := SMap.set [] 3 (some (l.length - 1)), bktL2 := 131072, bktHbm := 131072
      demands := if demanded then [⟨l.length - 1, mask, 0, 0, 0⟩] else [] }
def nodeOf (op : NOp) (a b : Option Nat) (st : PState) : Node :=
  { (default : Node) with used := true, op := op, a := a, b := b, ety := .f32, ps := List.replicate 8 st }
def doneNode : Node := nodeOf (.tfn .exp2) none none .done
def faultyNode : Node := { (nodeOf (.tfn .exp2) none none .faulted) with faults := [(7, ⟨0x0C, 0, 0, 0⟩)] }

theorem due_of {s : State} {c i p : Nat} (z : Nat) (h : let k := s.dev.ctx c
    k.cond = .resident ∧ p < 8 ∧ ((k.closure k.starts).get i).getLsbD p = true ∧ (k.nodes.get i).pendingMask.getLsbD p = true ∧
    (k.nodes.get i).susp = false ∧ (k.nodes.get i).used = true ∧ (k.nodes.get i).ps.length = 8 ∧ k.names.get z = some i) :
    panelDue s c i p :=
  ⟨h.1, h.2.1, h.2.2.1, h.2.2.2.1, h.2.2.2.2.1, h.2.2.2.2.2.1, h.2.2.2.2.2.2.1, z, h.2.2.2.2.2.2.2⟩

def sum2 : Node := nodeOf (.tew .add .rne) (some 0) (some 1) .pending
def load1 (glob : Bool) : Node := { nodeOf (.tld (desc glob) 1 1) none none .pending with ety := tdType (desc glob) }
/-- How the reads of a panel end: the cause of their fault, 0 for none, and whether they leave the nodes and the names alone, give the
panel's rows and make no regulated request. -/
def panelRead (s : State) (glob : Bool) (p : Nat) : Nat × Bool :=
  let k := s.dev.ctx 0
  let kept (d : Dev) : Bool := decide ((d.ctx 0).nodes = k.nodes) && decide ((d.ctx 0).names = k.names)
  match readPanel (s.dev.updCtx 0 (transferring default)) 0 (desc glob) 1 1 p with
  | .ok d rows => (0, kept d && decide (rows.map Prod.fst = (List.range 8).map fun a => 8 * p + a) && decide ((d.ctx 0).reqs = ⟨0, 0⟩))
  | .fault d cause _ => (cause, kept d)
  | .wait _ => (0, false)
def bound2 (sl : Slot) (x : Chain) (s : State) : State :=
  dev (fun d => { d with chains := [(5, x)], slots := [(2, { sl with handle := 0x40005 })] }) s
def chain1 : Chain :=
  { (default : Chain) with
    live := true, gen := 1, job := 1, outET := .bf16, rm := .rne, ctt := 0xFF
    links := [{ (default : Link) with slot := 2, hasSlot := true, count := 2, bound := 1 }] }

theorem witness_PanelsAndStores_pure :
    (let s := nodesOf [doneNode, faultyNode] 0xFF false
     (s.dev.ctx 0).demands = [] ∧ ((s.dev.ctx 0).nodes.get 0).st 0 ≠ .pending ∧ ((s.dev.ctx 0).nodes.get 1).faults ≠ [] ∧
       (((s.dev.ctx 0).closure (s.dev.ctx 0).starts).get 1).getLsbD 3 = false) ∧
    (let s := nodesOf [doneNode, doneNode, sum2] 0x80
     panelDue s 0 2 7 ∧ sum2.op.isPure = true ∧ operandFault (s.dev.ctx 0) (sum2.needs 7) = none ∧
       operandsDone (s.dev.ctx 0) (sum2.needs 7) = true) ∧
    (let s := nodesOf [doneNode, faultyNode, sum2] 0x80
     panelDue s 0 2 7 ∧ (operandFault (s.dev.ctx 0) (sum2.needs 7)).isSome = true) :=
  ⟨by decide +kernel, ⟨due_of 3 (by decide +kernel), by decide +kernel⟩, ⟨due_of 3 (by decide +kernel), by decide +kernel⟩⟩

theorem witness_PanelsAndStores_loads :
    (let s := nodesOf [load1 false] 1
     panelDue s 0 0 0 ∧ (load1 false).op = .tld (desc false) 1 1 ∧ (s.dev.ctx 0).gq = [] ∧ (load1 false).ety ≠ .cb16 ∧
       storeAhead s.dev 0 (load1 false).seq (panelRanges s.dev 0 (desc false) 1 1 0) = false ∧ panelRead s false 0 = (0, true)) ∧
    (let s := nodesOf [load1 true] 1
     panelDue s 0 0 0 ∧ storeAhead s.dev 0 0 (panelRanges s.dev 0 (desc true) 1 1 0) = false ∧ panelRead s true 0 = (0x0A, true)) ∧
    (let s := dev (fun d => { d with badSpad := (List.range 0x8000).map fun i => 0x800 + i }) (nodesOf [load1 false] 1)
     panelDue s 0 0 0 ∧ storeAhead s.dev 0 0 (panelRanges s.dev 0 (desc false) 1 1 0) = false ∧ panelRead s false 0 = (0x0C, true)) :=
  ⟨⟨due_of 3 (by decide +kernel), rfl, by decide +kernel⟩, ⟨due_of 3 (by decide +kernel), by decide +kernel⟩,
   ⟨due_of 3 (by decide +kernel), by decide +kernel⟩⟩

theorem witness_PanelsAndStores_chains :
    (let n : Node := { nodeOf (.contrib 0x40005 0 1 false false) (some 0) (some 1) .done with ps := .pending :: List.replicate 7 .done }
     let s := bound2 { (default : Slot) with state := .opened, count := 2, done := 1 } chain1 (nodesOf [doneNode, doneNode, n] 1)
     panelDue s 0 2 0 ∧ n.a = some 0 ∧ n.b = some 1 ∧ liveChain s.dev 0x40005 = some chain1 ∧ chain1.frozen = false ∧
       (boundSlot s.dev chain1 0x40005 0).map (fun x => (x.done, x.badS)) = some (1, false) ∧
       operandFault (s.dev.ctx 0) (n.needs 0) = none ∧ operandsDone (s.dev.ctx 0) (n.needs 0) = true) ∧
    (let n : Node := { nodeOf (.close 0x40005 .rne) none none .done with ps := [.done, .done, .pending, .done, .done, .done, .done, .done] }
     let x := { chain1 with closed := some (0, 0) }
     let s := bound2 { (default : Slot) with state := .advanced, retained := true } x (nodesOf [n] 4)
     panelDue s 0 0 2 ∧ liveChain s.dev 0x40005 = some x ∧
       (boundSlot s.dev x 0x40005 (x.links.length - 1)).map Slot.state = some .advanced ∧ (∀ q, q < 8 → q ≠ 2 → n.st q ≠ .pending)) :=
  ⟨⟨due_of 3 (by decide +kernel), by decide +kernel⟩, ⟨due_of 3 (by decide +kernel), by decide +kernel⟩⟩

/-- A descriptor with whole words to a row, in SPACE 0. -/
def store1 (a : Nat) (st : PState) : Node :=
  { nodeOf (.store (desc false) 0 0 1) (some a) none .done with ps := st :: List.replicate 7 .done, seq := 9 }
def half (n : Node) : Node := { n with ety := .f16 }

theorem witness_PanelsAndStores_stores :
    (let s := nodesOf [half (nodeOf (.tfn .exp2) none none .pending), store1 0 .pending] 1 false
     let k := s.dev.ctx 0
     (store1 0 .pending).a = some 0 ∧ (store1 0 .pending).unfinished = true ∧ (store1 0 .pending).susp = false ∧
       operandFault k ((store1 0 .pending).needs 0) = none ∧ operandsDone k ((store1 0 .pending).needs 0) = false) ∧
    (let s := nodesOf [half { faultyNode with faults := [(0, ⟨0x0C, 0, 0, 0⟩)] }, store1 0 .pending] 1 false
     (operandFault (s.dev.ctx 0) ((store1 0 .pending).needs 0)).isSome = true) ∧
    (let s := nodesOf [half doneNode, { load1 false with op := .tld (desc false) 0 0 }, store1 0 .pending] 1 false
     let al := storeAliases s.dev 0 (store1 0 .pending) (desc false) 0 0 1
     operandFault (s.dev.ctx 0) ((store1 0 .pending).needs 0) = none ∧ operandsDone (s.dev.ctx 0) ((store1 0 .pending).needs 0) = true ∧
       al ≠ [] ∧ (s.dev.ctx 0).demands = [] ∧ (reserve s.dev 0 al).isSome = true) ∧
    (let s := nodesOf [half doneNode, { store1 0 .pending with seq := 3 }, store1 0 .pending] 1 false
     storeAliases s.dev 0 (store1 0 .pending) (desc false) 0 0 1 = [] ∧ tdLoc (desc false) = 8 ∧
       storeAhead s.dev 0 9 (storeRanges s.dev 0 (desc false) 0 0 1) = true) ∧
    (let s := nodesOf [half doneNode, store1 0 .pending] 1 false
     let bytes := storeBytes (half doneNode) (desc false) 0 0 1
     storeAliases s.dev 0 (store1 0 .pending) (desc false) 0 0 1 = [] ∧
       storeAhead s.dev 0 9 (storeRanges s.dev 0 (desc false) 0 0 1) = false ∧ soundSpad s.dev (s.dev.ctx 0) ∧
       bytes.map Prod.fst = (List.range 1024).map (0x2000 + ·) ∧ (∀ x ∈ bytes, x.1 / 4 * 4 + 4 ≤ (s.dev.ctx 0).allot.spLen)) ∧
    ((List.range 1024).map (0x2000 + ·)).Nodup := by
  unfold soundSpad
  refine ⟨by decide +kernel, by decide +kernel, by decide +kernel, by decide +kernel, by decide +kernel, ?_⟩
  exact List.Pairwise.map _ (fun a b (h : a ≠ b) e => h (Nat.add_left_cancel e)) List.nodup_range

/-- A chain of two links on core 0, the first bound to slot 1 and the second to slot 2. -/
def link (slot bound : Nat) : Link := { (default : Link) with want := 0xF, slot := slot, hasSlot := bound == 1, bound := bound, count := 2 }
def chain2 (l : List Link) : Chain := { chain1 with links := l }
def slotted (t1 t2 : Slot) (x : Chain) : State :=
  dev (fun d => { d with chains := [(5, x)], slots := [(1, { t1 with handle := 0x40005 }), (2, { t2 with handle := 0x40005, pos := 1 })] }) base
def ready1 : Slot := { (default : Slot) with state := .ready, count := 2, done := 2, inboxGot := true }
def open1 : Slot := { (default : Slot) with state := .opened, count := 2 }

theorem witness_LinksAndHops_bind :
    (let x := chain2 [link 0 0, link 0 0]
     let s := dev (fun d => { d with chains := [(5, x)] }) base
     chainHere s 0 5 x 0x40005 ∧ (x.link 0).bound = 0 ∧ buildWaits s.dev 0x40005 x.owner = false ∧ coreDown s.dev 0 = false ∧
       0 < s.dev.npkg ∧ (s.dev.pkg 0).unreachable = false ∧ (s.dev.ctx 0).cond = .resident ∧ (s.dev.ctx 0).task.job = x.job ∧
       chooseSlot s.dev (x.link 0) (s.dev.ctx 0) = some 0 ∧ (x.link 0).cause = 0 ∧ (x.link 1).bound = 0) ∧
    (let x := chain2 [{ link 0 0 with core := 48 }]
     let s := dev (fun d => { d with chains := [(5, x)] }) base
     chainHere s 0 5 x 0x40005 ∧ buildWaits s.dev 0x40005 x.owner = false ∧ coreDown s.dev 48 = true ∧ (x.link 0).cause = 0) ∧
    (let x := chain2 [link 0 0]
     let o := op0 (.chbuild 0x40005) .started
     let s := dev (fun d => { d with chains := [(5, x)] }) (working 5 [o])
     chainHere s 0 5 x 0x40005 ∧ x.links.length = 1 ∧ lone s.dev x.owner ∧ (s.dev.ctx x.owner).queues.get 5 = [o] ∧
       buildWaits s.dev 0x40005 x.owner = false ∧ (x.link 0).cause = 0 ∧
       (match bindResult s.dev x.job (x.link 0) with | .ok _ => true | .error _ => false) = true) := by
  unfold chainHere lone; decide +kernel

/-- The owner of both links has left. -/
def orphan (s : State) : State := upd (fun k => { k with cond := .free }) s
def sixteen : List EngOp := List.replicate 16 (op0 (.chfree 0x40006))

theorem witness_LinksAndHops_advance :
    (let x := chain2 [link 1 1, link 2 1]
     let s := slotted ready1 open1 x
     liveChain s.dev (s.dev.slots.get 1).handle = some x ∧ (s.dev.slots.get 1).state = .ready ∧ x.frozen = false ∧
       (s.dev.slots.get 1).badS = false ∧ (s.dev.slots.get 1).pos + 1 ≠ x.links.length ∧ (boundSlot s.dev x 0x40005 1).isSome = true ∧
       (taskOf s.dev 0 x.job).map Ctx.serial = some 1 ∧ taskOf s.dev 0 x.job = some (s.dev.ctx 0) ∧ lone s.dev 0 ∧
       ((s.dev.ctx 0).queues.get 5).length < 16 ∧ taskOf (orphan s).dev 0 x.job = none ∧
       16 ≤ (((upd (fun k => { k with queues := SMap.set [] 5 sixteen }) s).dev.ctx 0).queues.get 5).length) ∧
    (let x := chain2 [link 1 1]
     let s := slotted ready1 default x
     liveChain s.dev 0x40005 = some x ∧ (s.dev.slots.get 1).state = .ready ∧ (s.dev.slots.get 1).pos + 1 = x.links.length ∧
       (s.dev.slots.get 1).acc = []) ∧
    (let x := chain2 [link 1 1, link 2 1]
     let again : Slot := { open1 with state := .advanced, resend := true, badS := true }
     let s := slotted again open1 x
     let t := slotted again { open1 with inboxGot := true } x
     liveChain s.dev 0x40005 = some x ∧ (boundSlot s.dev x 0x40005 1).map Slot.inboxGot = some false ∧
       (boundSlot t.dev x 0x40005 1).map Slot.inboxGot = some true ∧ taskOf s.dev 0 x.job = some (s.dev.ctx 0)) ∧
    (let x := { chain2 [link 1 1, link 2 1] with frozen := true }
     liveChain (slotted ready1 open1 x).dev 0x40005 = some x) := by
  unfold lone; decide +kernel

theorem witness_LinksAndHops_hop :
    (let x := chain2 [link 1 1, link 2 1]
     let s := mail (.hop 0 2 []) (slotted ready1 { open1 with done := 2 } x)
     let t := s.dev.slots.get (0 * 8 + 2)
     s.dev.msgs[0]? = some (.hop 0 2 []) ∧ t.state = .opened ∧ t.inboxGot = false ∧ t.done = t.count ∧ coreDown s.dev 0 = false ∧
       (s.dev.pkg 0).unreachable = false ∧ (liveChain s.dev t.handle).any (fun x => x.frozen) = false ∧
       coreDown (dev (fun d => { d with disabled := [0] }) s).dev 0 = true ∧ liveChain s.dev t.handle = some x) ∧
    (let s := mail (.hop 0 2 []) (slotted ready1 { open1 with inboxGot := true } (chain2 [link 1 1, link 2 1]))
     (s.dev.slots.get (0 * 8 + 2)).inboxGot = true ∧ (s.dev.slots.get (0 * 8 + 2)).state = .opened) ∧
    ((mail (.hop 0 3 []) base).dev.slots.get (0 * 8 + 3)).state = .free := by decide +kernel

theorem witness_LinksAndHops_freeze :
    (let x := chain2 [link 1 1, link 2 1]
     let at_ (t2 : Slot) : Prop :=
       let s := slotted ready1 t2 x
       let t := s.dev.slots.get 2
       liveChain s.dev t.handle = some x ∧ boundSlot s.dev x t.handle t.pos = some t ∧ (x.link t.pos).core * 8 + (x.link t.pos).slot = 2
     at_ { ready1 with badS := true } ∧ at_ { ready1 with badIn := true } ∧ at_ open1 ∧
       at_ { ready1 with state := .advanced, resend := true, badOut := true }) ∧
    (let s := dev (fun d => { d with disabled := [0] }) (slotted ready1 open1 (chain2 [link 1 1, link 2 1]))
     (s.dev.slots.get 2).badS = false ∧ coreDown s.dev 0 = true ∧ coreDown base.dev 0 = false) := by decide +kernel

theorem witness_LinksAndHops_goOn :
    (let x := chain2 [link 1 1, link 2 1]
     let s := slotted { open1 with held := true } open1 x
     let t := s.dev.slots.get 1
     liveChain s.dev t.handle = some x ∧ t.held = true ∧ x.frozen = false ∧ (s.dev.ctx 0).cond = .resident ∧
       (s.dev.ctx 0).allot.links.getLsbD 1 = true ∧ (reserve s.dev 0 (linkStarts (s.dev.ctx 0) t.handle t.pos)).isSome = true ∧
       (slotted open1 open1 x).dev.slots.get 1 ≠ t) ∧
    (let n : Node := { nodeOf (.contrib 0x40005 0 0 false false) (some 0) (some 0) .done with ps := .pending :: List.replicate 7 .done }
     let wide (s : State) : State := upd (fun k => { k with allot := { k.allot with arLen := 0 } }) s
     let s := wide (bound2 { open1 with held := true } chain1 (nodesOf [load1 true, n] 0 false))
     let t := s.dev.slots.get 2
     liveChain s.dev t.handle = some chain1 ∧ t.held = true ∧ reserve s.dev 0 (linkStarts (s.dev.ctx 0) t.handle t.pos) = none) ∧
    (let x := { chain2 [link 2 1] with closed := some (0, 0), filled := some 3, closer := 1, ctt := 31 }
     let s := bound2 { (default : Slot) with state := .advanced } x base
     chainHere s 0 5 x 0x40005 ∧ lone s.dev 0 ∧ x.frozen = false ∧ (boundSlot s.dev x 0x40005 0).map Slot.state = some .advanced ∧
       x.latched = false ∧ x.ctt ≠ 0xFF ∧ (s.dev.ctx 0).serial = x.closer ∧ (s.dev.ctx 0).cond = .resident) ∧
    (let x := { chain2 [link 2 1] with closed := some (0, 0), filled := some 3 }
     chainHere (bound2 { (default : Slot) with state := .advanced } x base) 0 5 x 0x40005 ∧ x.ctt = 0xFF ∧
       (chain2 [link 2 1]).filled = none) := by
  unfold chainHere lone; decide +kernel

/-- An armed entry with a tile source and two peers on core 0, the second with a flag. -/
def entry0 (state : Nat) (ready : Bool) : Ctt :=
  { (default : Ctt) with
    state := state, ready := ready, src := .node 0, mask := 1, flagAct := true, dl := true, deadline := 1000, gtag := 2
    peers := [⟨0x100, none, 0, 0⟩, ⟨0x500, some 0x4000, 0, 0⟩] }
def entered (e : Ctt) (l : List EngOp) (now : Nat := 999) : State :=
  dev (fun d => d.updPkg 0 fun p => { p with frame := BitVec.ofNat 64 now })
    (upd (fun k => { k with ctt := SMap.set [] 31 e, queues := SMap.set [] 3 l }) (nodesOf [{ doneNode with ety := .e2m1 }] 0 false))
def firing : EngOp := op0 (.firing 31) .started 1

def peer2 : Peer := ⟨0x500, some 0x4000, 0, 0⟩
def servedBy (idx cause inner : Nat) : PeerRes := { (default : PeerRes) with idx := idx, cause := cause, inner := inner }

theorem witness_CollectivesFire_start :
    (let s := entered (entry0 1 true) []
     let k := s.dev.ctx 0
     lone s.dev 0 ∧ (k.ctt.get 31).state = 1 ∧ (k.ctt.get 31).ready = true ∧ sourceSettled k (k.ctt.get 31) = true ∧
       (k.queues.get 3).length < 16 ∧ (base.dev.ctx 0).ctt.get 31 ≠ k.ctt.get 31) ∧
    (let o := op0 (.firing 31)
     let s := entered (entry0 2 false) [o]
     (s.dev.ctx 0).queues.get 3 = [o] ∧ o.phase = .queued ∧ ((s.dev.ctx 0).ctt.get 31).served = [] ∧
       mayGo (s.dev.ctx 0) 3 o ∧ ((s.dev.ctx 0).ctt.get 31).src = .node 0) := by
  unfold lone mayGo; decide +kernel

theorem witness_CollectivesFire_peers :
    (let s := entered { entry0 2 false with served := [servedBy 0 0 0] } [firing]
     let e := (s.dev.ctx 0).ctt.get 31
     lone s.dev 0 ∧ firingHead (s.dev.ctx 0) 31 firing [] ∧ nextPeer e = some (1, peer2) ∧ coreDown s.dev 0 = false ∧
       peerFault s.dev 0 e peer2 = none ∧ peerTask s.dev 0 peer2 = some (s.dev.ctx 0) ∧ e.glob = false ∧
       soundSpad s.dev (s.dev.ctx 0) ∧ e.flagAct = true ∧ 0x4000 + 8 ≤ (s.dev.ctx 0).allot.spLen ∧
       (∀ x ∈ selectedOffsets (s.dev.ctx 0) e, peerDest (s.dev.ctx 0) e peer2 + x < 0x4000) ∧
       selectedOffsets (s.dev.ctx 0) e = List.range 256 ∧ (List.range 256).Nodup) ∧
    (let s := entered { entry0 2 false with peers := [⟨0, none, 48, 0⟩, ⟨0, none, 5, 0⟩], served := [servedBy 0 0x0C 0] } [firing]
     nextPeer ((s.dev.ctx 0).ctt.get 31) = some (1, ⟨0, none, 5, 0⟩) ∧ coreDown s.dev 48 = true ∧ coreDown s.dev 5 = false ∧
       5 / 2 ^ 11 < s.dev.npkg ∧ (s.dev.pkg 0).unreachable = false ∧ peerTask s.dev 0 ⟨0, none, 5, 0⟩ = none) := by
  unfold lone firingHead soundSpad
  refine ⟨⟨by decide +kernel, by decide +kernel, by decide +kernel, by decide +kernel, by decide +kernel, by decide +kernel,
    by decide +kernel, by decide +kernel, by decide +kernel, by decide +kernel, by decide +kernel, by decide +kernel, List.nodup_range⟩,
    by decide +kernel⟩

theorem witness_CollectivesFire_end :
    (let s := upd (fun k => { k with nodes := [] })
       (entered { entry0 2 false with served := [servedBy 0 0 0, servedBy 1 0x0C 5] } [firing])
     let e := (s.dev.ctx 0).ctt.get 31
     lone s.dev 0 ∧ firingHead (s.dev.ctx 0) 31 firing [] ∧ (s.dev.ctx 0).nodes = [] ∧ (s.dev.ctx 0).holds = [] ∧
       (s.dev.ctx 0).fences = [] ∧ (s.dev.ctx 0).cond ≠ .free ∧ firing.done = none ∧ nextPeer e = none ∧
       e.served.find? (fun y => y.idx == 1 && y.cause != 0) = some (servedBy 1 0x0C 5) ∧ e.peers[1]? = some peer2 ∧
       (∀ i, i < 1 → ∀ y ∈ e.served, y.idx = i → y.cause = 0)) ∧
    (let e := { entry0 2 false with served := [servedBy 0 0 0, servedBy 1 0 0] }
     nextPeer e = none ∧ (∀ x ∈ e.served, x.cause = 0)) := by
  unfold lone firingHead; decide +kernel

theorem witness_CollectivesFire_deadline :
    (let s := entered (entry0 1 false) [] 1000
     let e := (s.dev.ctx 0).ctt.get 31
     lone s.dev 0 ∧ e.state = 1 ∧ e.dl = true ∧ e.dlp = false ∧ e.deadline.toNat ≤ (s.dev.pkg 0).frame.toNat ∧
       ((entered e []).dev.pkg 0).frame.toNat < e.deadline.toNat) ∧
    ((mail (.notice 0) base).dev.msgs[0]? = some (.notice 0) ∧ (base.dev.ctx 0).alive = true ∧ (base.dev.ctx 1).alive = false ∧
      lone base.dev 1) := by
  unfold lone; decide +kernel

/-! ### Failures, resets and boot -/

theorem witness_FailuresContainThemselves :
    (base.dev.dies.get 511).inReset = false ∧
    ((dev fun d => { d with dies := [(3, { (default : Die) with inReset := true })] }).dev.dies.get 3).inReset = true ∧
    (base.dev.ctx 0).cond ≠ .free ∧ (base.dev.ctx 0).susp = none ∧
    (let x := chain2 [link 1 1]
     chainHere (slotted ready1 open1 x) 0 5 x 0x40005 ∧ ∃ l ∈ x.links, l.core / 2 ^ 11 = 0) := by
  unfold chainHere; decide +kernel

/-- A message whose flit has failed 16 transmissions. -/
def failing : FlitFails := ⟨0, 16⟩

theorem witness_ResetsActByDomain_resets :
    (63 < 64 ∧ SMap.wf base.dev.ctxs = true ∧ base.dev.memWf = true) ∧
    (let s := dev (fun d => d.updPkg 0 fun p => { p with badPorts := List.range 143 }) base
     143 ≤ (s.dev.pkg 0).badPorts.length ∧ 143 < 144 ∧ 143 ∉ (s.dev.pkg 0).badPorts ∧ 7 ∈ (s.dev.pkg 0).badPorts ∧
       (base.dev.pkg 0).badPorts.length < 143) ∧
    (16 ≤ failing.fails ∧ (mail (.notice 0) base).dev.msgs[failing.msg]? = some (.notice 0) ∧
      (mail (.tread 5 3 1) base).dev.msgs[failing.msg]? = some (.tread 5 3 1) ∧ base.dev.msgs[failing.msg]? = none ∧
      (mail (.spawn default) base).dev.msgs[failing.msg]? = some (.spawn default)) ∧
    (let x := chain2 [link 1 1, link 2 1]
     let s := mail (.hop 0 2 []) (slotted ready1 open1 x)
     s.dev.msgs[failing.msg]? = some (.hop 0 2 []) ∧ liveChain s.dev (s.dev.slots.get (0 * 8 + 2)).handle = some x) := by
  decide +kernel

theorem witness_ResetsActByDomain_host :
    (base.dev.cxl = true ∧ base.dev.bridge = 0 ∧ (dev (fun d => { d with cxl := false }) base).dev.cxl = false) ∧
    (let s := lineAt { (homeOf 1024 true []) with active := 4 } default []
     (0x280 / 128 = 5 ∧ 0x280 % 8 = 0 ∧ 0x280 / 2 ^ 46 % 64 = 0 ∧ 0x280 % 2 ^ 46 < 0x7FF8000000) ∧ s.dev.cxl = true ∧ s.dev.bridge = 0 ∧
       (s.dev.hl 5 8).tokens = 0 ∧ (s.dev.homes.get 5).active ≠ 0 ∧ (s.dev.homes.get 5).active ≠ 8 + 1) ∧
    plainLine base.dev 5 ∧ lineAtHome base.dev 5 ∧ (base.dev.homes.get 5).away + 1 < 1024 :=
  ⟨by decide +kernel, by decide +kernel, by unfold plainLine soundLine; decide +kernel,
   ⟨by decide +kernel, by decide +kernel, fun _ => ⟨rfl, rfl, rfl, rfl⟩, fun _ h => by cases h⟩, by decide +kernel⟩

theorem witness_BootIsMeasuredAndReported :
    (base.dev.pkg 0).admitState = 0 ∧ (base.dev.pkg 0).bootStage = 0 ∧ ((admitted 7 1 []).dev.pkg 0).admitState ≠ 0 ∧
    (let at_ (n : Nat) : State := dev (fun d => d.updPkg 0 fun p => { p with bootStage := n }) base
     ((at_ 1).dev.pkg 0).bootStage = 1 ∧ ((at_ 2).dev.pkg 0).bootStage = 2 ∧ 2 < ((at_ 3).dev.pkg 0).bootStage ∧
       ((at_ 3).dev.pkg 0).admitState = 0) ∧
    ((⟨0, .host⟩ : SpdmTo).pkg = base.dev.bridge ∧ (⟨1, .host⟩ : SpdmTo).pkg ≠ base.dev.bridge) := by decide +kernel

theorem witness_StepKeepsMemoryCanonical : canonical running ∧ (match step running with | .next _ => true | _ => false) = true :=
  ⟨⟨by decide +kernel, fun b h => by cases h⟩, by decide +kernel⟩

/-! ## Ill-formed terms: each check of the encoding refuses one -/

def vs (n : Nat) : VOp := .v (BitVec.ofNat 5 n)
def m3 (sp : Space) : MAddr := ⟨3, 0, sp⟩
def one1 (et : ET) : V1 := ⟨g0, .va, false, vs 1, vs 2, et⟩
def two1 (et : ET) : V2 := ⟨g0, .va, false, vs 1, vs 2, vs 3, et⟩

theorem illformed_operands :
    ([.vadd { ar1 with d := .y 0 }, .vadd { ar1 with d := .q 0, ws := true }, .vadd { ar1 with a := .p 1 }, .vadd { ar1 with b := .y 6 },
      .vadd { ar1 with et := .f32 }, .vand (two1 .f32), .vmin (two1 .b1), .vmov (one1 .cb16), .vsel (two1 .b1) 0,
      .vmac ⟨g0, .va, false, vs 1, vs 2, vs 3, .y 7, .i32, false⟩, .vfadd ⟨g0, .va, false, vs 1, vs 2, vs 3, .e4m3, .rne, false⟩,
      .vfma ⟨g0, .va, false, vs 1, vs 2, vs 3, .p 0, .f32, .rne, false⟩, .vrcpa ⟨g0, .va, false, .p 1, vs 2⟩, .vfabs (one1 .i32),
      .vredmax ⟨g0, .va, false, vs 1, vs 2, 0, .e5m2⟩, .vredsum ⟨g0, .va, false, vs 1, vs 2, 0, .f32⟩ true,
      .vmaxi ⟨g0, .va, false, true, .q 1, vs 2, 3, 0⟩, .vdot g0 .va false (vs 1) (vs 2) (vs 3) (vs 4) .f16 .e4m3,
      .vtlu (two1 .i8) (some (.p 1)), .vshuf (two1 .i8) .table none, .vshuf (two1 .i8) .lo (some (vs 4)),
      .vbcst (some 1) g0 .va false (vs 1) 5 .i32, .vidx g0 .va false (vs 1) 5 1 .f32, .pcnt false g0 .va 1 1 .f32,
      .pmovV2P g0 .va 1 (vs 1) .b1, .pmovP2V g0 .va false (.p 1) 1 .i8, .vcmp .uo g0 .va 1 (vs 1) (vs 2) .i32,
      .vldl g0 (.q 1) 3 0, .vld g0 (vs 1) (m3 .lane) .g32 0, .vldb g0 (.y 1) (m3 .spad) .w32, .vst g0 (.p 1) (m3 .spad) .g32 0,
      .vgth g0 (vs 1) 3 0 (.q 1), .vsct g0 (vs 1) 3 0 (.y 6)] : List Instr).all (fun i => !i.wf) = true := by decide

theorem illformed_immediates :
    ([.br .eq g0 1 2 4, .jmp g0 1, .loop g0 2, .vshi .shl (one1 .i8) 8, .vext false g0 .va 1 (vs 1) 64 .i32, .vins (one1 .i8) 1 256,
      .vcvt (one1 .f32) .bf16 .rne false 2, .vcvt (one1 .e8m0) .i8 .rne false 0, .vcvt (one1 .i8) .e8m0 .rne false 0,
      .vcvt (one1 .i16) .i8 .rtz false 0, .vcbdec g0 .va false (vs 1) (vs 2) 3 .bf16 0 8, .tew .min g0 .rtz 1 2 3,
      .tews .max g0 .sr 1 2 3, .tst g0 1 2 3 0, .tforce g0 1 0, .lds true g0 1 (m3 .spad) .w64, .amol ⟨g0, .add, 5, 6, 7, 8⟩,
      .subs ad 8, .unsub g0 false 5 8, .strb ad 8, .stru g0 false 5 8, .rrel g0 false 5 1 0, .rfin g0 false 5 8 1, .qfence g0 false 5 0,
      .gload ad 5 0, .gload ad 5 1025, .gmask true ad 5 0, .gmask false ad 5 129, .fence g0 none none false,
      .fence g0 none (some 0) true, .waitT g0 5 6, .rds g0 5 0x005, .wrs g0 5 0xFFF, .bundleIssue] : List Instr).all (fun i => !i.wf) = true ∧
    ([.vshi .shl (one1 .i8) 7, .vext false g0 .va 1 (vs 1) 63 .i32, .vcvt (one1 .f32) .bf16 .sr true 1,
      .vcbdec g0 .va false (vs 1) (vs 2) 3 .f32 0 15, .subs ad 7, .gload ad 5 1024, .gmask false ad 5 128, .waitT g0 5 5,
      .fence g0 none none true, .loop g0 0xFFFFFFF8] : List Instr).all Instr.wf = true := by decide

/-! ## Single steps, with values of the spec's own examples and tables -/

/-- The last result in flight. -/
def newest (s : State) : Entry := ((s.dev.ctx 0).infl.getLast?).getD default
def runs (i : Instr) (s : State) : State := after (exec i s)
/-- The scalar that an instruction sends, with the counts still to go after its own. -/
def sends (i : Instr) (s : State) : Nat × Nat := let e := newest (runs i s); ((e.val.setWidth 64).toNat, e.rem)
def vecs (l : List (Nat × Vec)) (s : State := base) : State :=
  dev (fun d => { d with vpool := l.foldl (fun m x => m.set x.1 x.2) d.vpool }) s
/-- An element of the vector that an instruction sends, with the flags it raises. -/
def lane (i : Instr) (s : State) (w n : Nat) : Nat × Nat := let e := newest (runs i s); (elem e.val w n, e.flags.toNat)

/-- R174: −2^63 / −1 is −2^63, remainder 0. -/
theorem test_div_corner :
    let s := regs [(4, 0x8000000000000000), (5, 0xFFFFFFFFFFFFFFFF)]
    (sends (.div ⟨g0, false, 3, 4, 5⟩) s).1 = 2 ^ 63 ∧ (sends (.rem ⟨g0, false, 3, 4, 5⟩) s).1 = 0 := by decide +kernel

/-- R174: a divisor of zero traps INT_DIVZERO with the dividend and the tag, 0x010 for `rem`. -/
theorem test_div_by_zero :
    let k := (runs (.rem ⟨g0, true, 3, 4, 5⟩) (sprs [(0x050, 0x20000), (0x05A, 0xFFFFFFFF)] (regs [(4, 7)]))).dev.ctx 0
    k.spr' 0x051 = 0x0E ∧ k.spr' 0x054 = 7 ∧ k.spr' 0x055 = 0x010 := by decide +kernel

/-- R158: a scalar load from the scratchpad takes 6 counts; R160: a byte is sign-extended. -/
theorem test_lds : sends (.lds false g0 3 ⟨4, 0xFFFFF, .spad⟩ .w8) (wr 0 [(7, 1, 0x80)] (regs [(4, 8)])) = (0xFFFFFFFFFFFFFF80, 5) := by
  decide +kernel

/-- R27, the example: VOFS = 3 takes v18 to 5 and v31 to 2 of the upper sixteen. -/
theorem test_rotation :
    let k := (upd (fun k => { k with allot := { k.allot with vBase := 64 } }) (sprs [(0x012, 3)])).me
    k.vphys 18 = 85 ∧ k.vphys 31 = 82 := by decide +kernel

/-- R13, the example: global core 1234 of package 9 is packed core id 0x4E62. -/
theorem test_core_names : pkgOf 0x4E62 = 9 ∧ 0x4E62 / 2 ^ 8 % 8 = 6 ∧ 0x4E62 / 2 ^ 6 % 4 = 1 ∧ 0x4E62 % 64 = 34 := by decide +kernel

/-- R186 to R188, the worked conversions of 0x3E99_999A: RNE and RTZ results with the RNE flags. -/
theorem test_round_narrow :
    let v : List (ET × Nat × Nat) := [(.bf16, 0x3E9A, 0x3E99), (.f16, 0x34CD, 0x34CC), (.e5m2, 0x35, 0x34), (.e4m3, 0x2A, 0x29), (.e2m1, 1, 0)]
    (v.all fun x => (convert .f32 x.1 .rne false 0 0x3E99999A).1 == x.2.1 && (convert .f32 x.1 .rtz false 0 0x3E99999A).1 == x.2.2) = true ∧
    (v.map fun x => (convert .f32 x.1 .rne false 0 0x3E99999A).2.toNat) = [16, 16, 16, 16, 24] := by decide +kernel

/-- R192, the example: under SR a word below 0x999A_0000 rounds up to 0x3E9A, one not below it down to 0x3E99. -/
theorem test_round_stochastic :
    (convert .f32 .bf16 .sr false 0x80000000 0x3E99999A).1 = 0x3E9A ∧ (convert .f32 .bf16 .sr false 0xA0000000 0x3E99999A).1 = 0x3E99 ∧
    (convert .f32 .bf16 .sr false 0x99999999 0x3E99999A).1 = 0x3E9A ∧ (convert .f32 .bf16 .sr false 0x999A0000 0x3E99999A).1 = 0x3E99 := by
  decide +kernel

/-- R219, the worked conversions: rounding to integers, clamping with its flags, NaN, narrowing and widening. -/
theorem test_convert_integers :
    (convert .f32 .i8 .rne false 0 0xC0700000).1 = 0xFC ∧ (convert .f32 .i32 .rne false 0 0x40200000).1 = 2 ∧
    (convert .f32 .i32 .rna false 0 0x40200000).1 = 3 ∧ (convert .f32 .i32 .rtz false 0 0x40200000).1 = 2 ∧
    (convert .f32 .i8 .rne false 0 0x43960000) = (127, 1) ∧ (convert .f32 .i8 .rne true 0 0x43960000) = (127, 16) ∧
    (convert .f32 .i32 .rne false 0 0x7FC00000) = (0, 1) ∧ (convert .i16 .n8 .rne false 0 0xFF38) = (0x38, 0) ∧
    (convert .i16 .n8 .rne true 0 0xFF38) = (0, 0) ∧ (convert .i32 .f32 .rne false 0 16777217) = (0x4B800000, 16) ∧
    (convert .e8m0 .f32 .rne false 0 0x82) = (0x41000000, 0) := by decide +kernel

/-- "Two halves into one register": part 1 fills elements 64 to 127, and takes 4 counts. -/
theorem test_vcvt_part :
    let i := Instr.vcvt ⟨g0, .va, false, vs 3, vs 2, .f32⟩ .bf16 .rne false 1
    let s := vecs [(2, 0x40490FDB), (3, 0x3E9A)]
    (lane i s 16 64).1 = 0x4049 ∧ (lane i s 16 0).1 = 0x3E9A ∧ (newest (runs i s)).rem = 3 := by decide +kernel

/-- R221, the example: index 0x2A5B with entry 42 = 0x1410_2103, E = 125, T = 1: −0.875, 0.125, …, 0.375 in f32, no flag. -/
theorem test_vcbdec :
    let i := Instr.vcbdec g0 .va false (vs 9) (vs 2) 6 .f32 0 0
    let s := dev (fun d => { d with cbt := [(42, 0x14102103)], caps := d.caps }) (regs [(6, 0x7D)] (vecs [(2, 0x2A5B)]))
    issuesB i s = true →
    ((List.range 8).map fun n => (lane i s 32 n).1) =
      [0xBF600000, 0x3E000000, 0xBEC00000, 0xBF200000, 0x3E000000, 0xBEC00000, 0x3F900000, 0x3EC00000] ∧ (lane i s 32 0).2 = 0 := by
  decide +kernel

/-- "A group worked through": the adder drops what the shift drops, so S is 0x3FD7_F000, inexact. -/
theorem test_group :
    let i := Instr.vdot g0 .va false (vs 3) (vs 1) (vs 2) (vs 4) .e4m3 .e4m3
    lane i (vecs [(1, 0xD83C810158), (2, 0x5839202058)]) 32 0 = (0x3FD7F000, 16) := by decide +kernel

/-- "A scan with ties, zeros and NaN": the first two scans of R236. -/
theorem test_scan :
    let i (acc : Bool) : Instr := .vmaxi ⟨g0, .va, false, acc, vs 6, vs 4, 7, 5⟩
    let s0 := preds [(5, 0xFFFF)] (vecs [(6, 0xFFFFFFFFFF800000), (4, 0x000000007FC000000000000080000000)])
    let s1 := preds [(5, 0xF0000F)] (regs [(7, 64)] (vecs [(6, 0x100000000), (4, 0xC0F00000 * 2 ^ 160)]))
    (lane (i false) s0 32 0 = (0, 0) ∧ (lane (i false) s0 32 1).1 = 1) ∧
    (lane (i true) s1 32 0 = (0, 0) ∧ (lane (i true) s1 32 1).1 = 1) := by decide +kernel

/-- The three-stage loop of 08: at PASSCNT 2 and rotation 0, p15's register becomes ones, VOFS 15 and POFS 7, and it is taken. -/
theorem test_loop :
    let t := runs (.loop g0 0) (sprs [(0x010, 2), (0x011, 2)])
    let k := t.dev.ctx 0
    k.spr' 0x010 = 1 ∧ k.spr' 0x012 = 0x70F ∧ (newest t).dest = .pred 15 ∧ (newest t).val = (BitVec.allOnes 256).setWidth 2048 ∧ k.pc = 0x10000 := by decide +kernel

/-- Where an address of the running context leads, and whether it is compressed. -/
def leadsTo (s : State) (va : Word) (k : Access) : Option (Nat × Bool) :=
  match translate s.dev s.cur va k with
  | .ok pa cmp => some (pa, cmp)
  | .fault _ => none

/-- The translation worked through in 04: the window's offset, and the 2 MiB page of the second access. -/
theorem test_window :
    let s := sprs [(0x040, 0x100000000000), (0x041, 0x40000000), (0x042, 0xFFFFF02000000000)]
    leadsTo s 0x100000123480 .read = some (0x2000123480, true) := by decide +kernel
theorem test_walk :
    let put (a v : Nat) (d : Dev) : Dev := { d with gmem := wrMem d.gmem a (littleEndian 8 v) }
    let s := dev (fun d => put (0x1000 + 8 * 254) 0x2001 (put (0x2000 + 8 * 256) 0x3001 (put (0x3000 + 8 * 3) 0x0000010003400087
      (d.updJob 0 1 fun j => { j with ptroot := 0x1000 })))) base
    leadsTo s 0x7F4000601A38 .read = some (0x10003401A38, false) ∧ leadsTo s 0x7F4000601A38 .fetch = none := by decide +kernel

/-- R40, R363: `trap s5, 0x12` pends SOFTWARE; it is taken at the next boundary. -/
theorem test_trap : ((runs (.trap g0 5 0x12) base).dev.ctx 0).post.get 0 ≠ none ∧ ((runs (.trap off 5 0x12) base).dev.ctx 0).post.get 0 = none := by
  decide +kernel

/-- R68: a misaligned register target traps MISALIGNED at issue, with the pc at the handler. -/
theorem test_jr_misaligned :
    let t := runs (.jr g0 61 4) (sprs [(0x050, 0x20000), (0x05A, 0xFFFFFFFF)])
    (t.dev.ctx 0).pc = 0x20000 ∧ (t.dev.ctx 0).hs = .trap ∧ (t.dev.ctx 0).spr' 0x051 = 8 ∧ (t.dev.ctx 0).spr' 0x052 = 0x10000 := by
  decide +kernel

/-- R116: `amol.cas` stores sb where memory holds sc, and gives what memory held. -/
theorem test_amol_cas :
    let s := wr 0x100 [(0, 8, 9)] (regs [(6, 0x100), (7, 5), (8, 9)])
    (sends (.amol (amo1 .cas)) s).1 = 9 ∧ rdMem (runs (.amol (amo1 .cas)) s).dev.spad 0x2100 8 = 5 := by decide +kernel

/-- R351: the last arrival starts the next generation, modulo 2^16. -/
theorem test_signal :
    (runs (.signal g0 5 15) (gathered ⟨1, 2, 1, 0xFFFF⟩)).dev.barriers.get 15 = ⟨1, 2, 0, 0⟩ := by decide +kernel

/-- "A rotated row": with core 2 disabled, the `vld` fails at its due count with the row's lowest address, its tag and core 2. -/
theorem test_rotated_row :
    let s := dev (fun d => { d with disabled := [2] }) (regs [(4, 0x210000)])
    let e := newest (runs (.vld g0 (vs 9) ⟨4, 0x100, .cluster⟩ .g32 8) s)
    (e.fault.map fun r => (r.cause, r.info0.toNat, r.info1.toNat, r.info2.toNat)) = some (0x0C, 0x210100, 0x802, 2) ∧ e.rem = 13 := by
  decide +kernel


end Sys2Proof.Tests
end

section
/-! PROOFS. The special registers as `rds` reads them and `wrs` checks and writes them (R36, R37, R53, R372). -/

namespace Sys2Proof.Proofs

open Sys2Proof Sys2Proof.Machine Sys2Proof.Claims

/-! ## What a syllable alone in its bundle reads -/

theorem env_on (s : State) (i : Instr) (g : Guard) : (s.env i).on g = guardOn s.me g := rfl

theorem env_trap (s : State) (i : Instr) (cause : Nat) : (s.env i).trap cause = trapOf s i cause := rfl

theorem ready_pkg (s : State) (p : Nat) : s.ready.pkg p = s.dev.pkg p := by
  obtain ⟨ctxs, vpool, hd⟩ := deliverDue_frame s.dev s.cur
  rw [State.ready, hd]; rfl

theorem ready_pageVa (s : State) : s.ready.pageVa = s.dev.pageVa := by
  obtain ⟨ctxs, vpool, hd⟩ := deliverDue_frame s.dev s.cur
  rw [State.ready, hd]

/-- The frame of the call-sheet entry that released the task, and all ones for a task of none (R37). -/
theorem readSpr_sheetFrame (d : Dev) (c : Nat) (addr : Word) :
    readSpr d c addr 0x0A1 = ((d.ctx c).task.sheet.map fun f => BitVec.ofNat 64 f.1).getD (BitVec.allOnes 64) := by
  cases h : (d.ctx c).task.sheet <;> simp [readSpr, h]

/-- Delivery leaves the packages and the place of the system page alone, and the rest is read of the context itself (R37). -/
theorem readSpr_ready (s : State) (n : Nat) : readSpr s.ready s.cur s.me.pc n = specialValue s n := by
  by_cases hframe : n = 0x0A0
  · subst hframe; exact congrArg Pkg.frame (ready_pkg s _)
  by_cases hsheet : n = 0x0A1
  · subst hsheet; exact readSpr_sheetFrame _ _ _
  by_cases hpage : n = 0x0B0
  · subst hpage; exact ready_pageVa s
  by_cases hrot : n = 0x012
  · subst hrot; rfl
  unfold readSpr specialValue
  split <;> simp_all [State.me, Config.saveSize]

/-! ## What `wrs` writes -/

theorem sprMask_of_readOnly {n : Nat} (k : Ctx) (v : Word) (hn : n ∈ readOnly) : sprMask k n v = 0#64 := by
  simp only [readOnly, List.mem_cons, List.not_mem_nil, or_false] at hn
  rcases hn with rfl | rfl | rfl | rfl | rfl | rfl | rfl | rfl | rfl | rfl | rfl | rfl <;> rfl

/-- Every assigned register but a read-only one, ROTOFS and CUEPEND takes the bits of its writable fields,
whatever the allotment. -/
theorem sprMask_of_writable {n : Nat} (k : Ctx) (v : Word) (hn : n ∈ sprNumbers) (hro : n ∉ readOnly) (hrot : n ≠ 0x012)
    (hpend : n ≠ 0x062) : sprMask k n v = writable n v := by
  unfold sprMask
  split <;> simp_all [writable, bits, sprNumbers, readOnly]

theorem writable_ne_zero (n : Nat) (v : Word) : writable n v ≠ 0#64 := by
  unfold writable
  split
  · split <;> decide
  all_goals decide

theorem sprEffect_eq (n : Nat) (k : Ctx) :
    sprEffect n k =
      if n = 0x030 ∨ n = 0x031 ∨ n = 0x032 then { k with rq := [] }
      else if n = 0x090 then { k with bktL2 := bucketFull (k.spr' 0x090) }
      else if n = 0x091 then { k with bktHbm := bucketFull (k.spr' 0x091) }
      else k := by
  unfold sprEffect
  split <;> simp_all [Spr.tbl2, Spr.tbhbm]

/-- A write to an assigned register changes the context as R37 and R126 say. -/
theorem writeSpr_eq {n : Nat} (d : Dev) (c : Nat) (v : Word) (hn : n ∈ sprNumbers) :
    writeSpr d c n v = d.updCtx c fun k => written k n v := by
  unfold writeSpr
  congr 1
  funext k
  unfold written
  by_cases hro : n ∈ readOnly
  · have hpend : n ≠ 0x062 := by rintro rfl; exact absurd hro (by decide)
    simp [hro, hpend, sprMask_of_readOnly]
  by_cases hpend : n = 0x062
  · subst hpend; rfl
  by_cases hrot : n = 0x012
  · subst hrot
    by_cases hsize : k.allot.vSize = 32 <;> simp [hsize, sprMask, sprEffect, readOnly]
  · simp [hro, hpend, hrot, sprMask_of_writable k v hn hro hrot hpend, writable_ne_zero, sprEffect_eq]

theorem written_cond (k : Ctx) (n : Nat) (v : Word) : (written k n v).cond = k.cond := by
  unfold written; repeat' split
  all_goals rfl

theorem written_infl (k : Ctx) (n : Nat) (v : Word) : (written k n v).infl = k.infl := by
  unfold written; repeat' split
  all_goals rfl

/-! ## The checks of `rds` and `wrs` -/

theorem privHits_of_allowed {i : Instr} {s : State} {n : Nat} (h : n ∈ privileged → s.me.privNow = true) :
    (s.env i).privHits n = [] := by
  have hk : (s.env i).k = s.me := rfl
  have hp : sprPriv = privileged := rfl
  by_cases hn : n ∈ privileged <;> simp [Env.privHits, hk, hp, hn, h]

theorem privHits_of_denied {i : Instr} {s : State} {n : Nat} (hn : n ∈ privileged) (hu : s.me.privNow = false) :
    (s.env i).privHits n = [(s.env i).hit 6 (trapOf s i 0x07)] := by
  have hk : (s.env i).k = s.me := rfl
  have hp : sprPriv = privileged := rfl
  simp [Env.privHits, hk, hp, hn, hu, env_trap]

theorem fails_nil (E : Env) : E.fails [] = [] := rfl

theorem fails_cons (E : Env) (b : Bool) (h : Hit) (l : List (Bool × Hit)) :
    E.fails ((b, h) :: l) = if b then h :: E.fails l else E.fails l := by
  cases b <;> rfl

theorem mem_fails {E : Env} {l : List (Bool × Hit)} {x : Hit} : x ∈ E.fails l ↔ (true, x) ∈ l := by
  simp [Env.fails]

/-- The checks of the value a `wrs` writes have rank 9, so PRIV goes before them (R68). -/
theorem rank_of_mem_wrsHits {E : Env} {n : Nat} {v : Word} {x : Hit} (hx : x ∈ E.wrsHits n v) : x.rank = 9 := by
  simp only [Env.wrsHits, mem_fails, List.mem_cons, List.not_mem_nil, or_false, Prod.mk.injEq] at hx
  obtain ⟨-, rfl⟩ | ⟨-, rfl⟩ := hx <;> rfl

/-- A hit of a lower rank than every later one decides (R68). -/
theorem bestHit_of_lower_rank {h : Hit} {l : List Hit} (hl : ∀ x ∈ l, h.rank < x.rank) : bestHit (some h) l = some h := by
  induction l with
  | nil => rfl
  | cons x r ih =>
    have hx : h.rank < x.rank := hl x (by simp)
    have hb : x.before h = false := by simp [Hit.before]; omega
    simpa [bestHit, hb] using ih fun y hy => hl y (by simp [hy])

section ValueChecks

variable {i : Instr} {s : State} {n : Nat} {v : Word}

theorem wrsHits_of_allowed (h : wrsAllowed s.me n v) : (s.env i).wrsHits n v = [] := by
  obtain ⟨-, htarget, hsave⟩ := h
  have hk : (s.env i).k = s.me := rfl
  simp only [Env.wrsHits, hk]
  by_cases hn : n = 0x0E0
  · subst hn
    obtain ⟨halign, hlow, hhigh⟩ := hsave rfl
    simp [Env.fails, sprTargets, alignedTo, halign, Spr.hwb, Spr.hwl, Config.saveSize, hlow, hhigh]
  · by_cases ht : n ∈ sprTargets
    · simp [Env.fails, hn, ht, alignedTo, htarget ht]
    · simp [Env.fails, hn, ht]

/-- MISALIGNED decides over ACCESS_VIOLATION, whose cause is the higher (R68). -/
theorem bestHit_wrsHits_of_misaligned
    (h : (n ∈ sprTargets ∧ v.toNat % 8 ≠ 0) ∨ (n = 0x0E0 ∧ v.toNat % 256 ≠ 0)) :
    bestHit none ((s.env i).wrsHits n v) = some ((s.env i).hit 9 { trapOf s i 0x08 with info2 := v }) := by
  have hmis : ((sprTargets.contains n && !alignedTo 8 v.toNat) || (n == 0x0E0 && !alignedTo 256 v.toNat)) = true := by
    simpa [alignedTo] using h
  have hafter : ((s.env i).hit 9 ((s.env i).trap causeViolation)).before
      ((s.env i).hit 9 { (s.env i).trap 0x08 with info2 := v }) = false := by
    simp [Hit.before, Env.hit, Env.trap, causeViolation]
  simp only [Env.wrsHits, fails_cons, fails_nil, hmis, if_true]
  split
  · simp only [bestHit, hafter, Bool.false_eq_true, if_false]; rfl
  · rfl

theorem wrsHits_of_outside (hn : n = 0x0E0) (halign : v.toNat % 256 = 0)
    (hout : v.toNat < (s.me.spr' 0x040).toNat ∨ (s.me.spr' 0x040).toNat + (s.me.spr' 0x041).toNat < v.toNat + 0x20000) :
    (s.env i).wrsHits n v = [(s.env i).hit 9 (trapOf s i 0x0B)] := by
  subst hn
  have hk : (s.env i).k = s.me := rfl
  have hbad : (!(decide ((s.me.spr' Spr.hwb).toNat ≤ v.toNat) &&
      decide (v.toNat + Config.saveSize ≤ (s.me.spr' Spr.hwb).toNat + (s.me.spr' Spr.hwl).toNat))) = true := by
    simp only [Bool.not_eq_true', Bool.and_eq_false_iff, decide_eq_false_iff_not, Nat.not_le]
    exact hout
  simp only [Env.wrsHits, hk, fails_cons, fails_nil, hbad]
  simp [sprTargets, alignedTo, halign, env_trap, causeViolation]

end ValueChecks

/-! ## `rds` and `wrs` alone in their bundles -/

theorem rds_issues {g : Guard} {sd : BitVec 6} {num : BitVec 12} {s : State} (h : Issues (.rds g sd num) s)
    (hp : num.toNat ∈ privileged → s.me.privNow = true) :
    exec (.rds g sd num) s = .next (s.issue (.rds g sd num) s.ready
      (if guardOn s.me g then s.me.withEntry
        (result s (.rds g sd num) 2 (if sd = 0 then .none else .scalar (s.me.sphys sd.toNat))
          ((specialValue s num.toNat).setWidth 2048))
       else s.me) none) := by
  show execRds g sd num s = _
  have hchk := privHits_of_allowed (i := .rds g sd num) hp
  unfold execRds
  by_cases hon : guardOn s.me g = true
  · rw [if_pos hon, ← readSpr_ready]
    exact syllable_issues_upd (f := fun k => k.withEntry _) h hchk (by rw [env_on, if_pos hon]; rfl) h.me_resident
      (Nat.le_trans (Nat.le_of_eq (Ctx.outstanding_withEntry _ _ rfl)) h.room)
  · rw [if_neg hon]
    exact syllable_issues_none h hchk (by rw [env_on, if_neg hon])

theorem wrs_issues {g : Guard} {sa : BitVec 6} {num : BitVec 12} {s : State} (hwf : (Instr.wrs g sa num).wf = true)
    (h : Issues (.wrs g sa num) s) (ha : wrsAllowed s.me num.toNat (s.me.rdS sa)) :
    exec (.wrs g sa num) s = .next (
      if guardOn s.me g = false then s.issue (.wrs g sa num) s.ready s.me none
      else s.issue (.wrs g sa num) s.ready (written s.me num.toNat (s.me.rdS sa)) none) := by
  show execWrs g sa num s = _
  have hnum : num.toNat ∈ sprNumbers := by simpa [Instr.wf] using hwf
  have hchk : (s.env (.wrs g sa num)).privHits num.toNat ++ (s.env (.wrs g sa num)).wrsHits num.toNat (s.me.rdS sa) = [] := by
    rw [privHits_of_allowed ha.1, wrsHits_of_allowed ha]; rfl
  unfold execWrs
  by_cases hon : guardOn s.me g = true
  · rw [if_neg (by simp [hon])]
    refine syllable_issues_upd (f := fun k => written k num.toNat (s.me.rdS sa)) h hchk ?_ ?_ ?_
    · rw [env_on, if_pos hon, writeSpr_eq _ _ _ hnum]; rfl
    · rw [written_cond]; exact h.me_resident
    · rw [Ctx.outstanding, written_infl]; exact h.room
  · rw [if_pos (by simpa using hon)]
    exact syllable_issues_none h hchk (by rw [env_on, if_neg hon])

theorem rds_traps_priv {g : Guard} {sd : BitVec 6} {num : BitVec 12} {s : State} (h : Issues (.rds g sd num) s)
    (hn : num.toNat ∈ privileged) (hu : s.me.privNow = false) :
    exec (.rds g sd num) s = .next (s.trapped (trapOf s (.rds g sd num) 0x07)) :=
  syllable_traps h (x := (s.env (.rds g sd num)).hit 6 (trapOf s (.rds g sd num) 0x07)) (by
    rw [privHits_of_denied hn hu]; rfl)

/-- A failed check of a `wrs` that decides is the trap taken. -/
theorem wrs_traps {g : Guard} {sa : BitVec 6} {num : BitVec 12} {s : State} {x : Hit} (h : Issues (.wrs g sa num) s)
    (hx : bestHit none ((s.env (.wrs g sa num)).privHits num.toNat ++
      (s.env (.wrs g sa num)).wrsHits num.toNat (s.me.rdS sa)) = some x) :
    exec (.wrs g sa num) s = .next (s.trapped x.rec_) :=
  syllable_traps h hx

theorem wrs_traps_priv {g : Guard} {sa : BitVec 6} {num : BitVec 12} {s : State} (h : Issues (.wrs g sa num) s)
    (hn : num.toNat ∈ privileged) (hu : s.me.privNow = false) :
    exec (.wrs g sa num) s = .next (s.trapped (trapOf s (.wrs g sa num) 0x07)) :=
  wrs_traps h (by
    rw [privHits_of_denied hn hu]
    exact bestHit_of_lower_rank fun y hy => by rw [rank_of_mem_wrsHits hy]; exact (by decide : 6 < 9))

theorem wrs_traps_misaligned {g : Guard} {sa : BitVec 6} {num : BitVec 12} {s : State} (h : Issues (.wrs g sa num) s)
    (hp : num.toNat ∈ privileged → s.me.privNow = true)
    (hm : (num.toNat ∈ sprTargets ∧ (s.me.rdS sa).toNat % 8 ≠ 0) ∨ (num.toNat = 0x0E0 ∧ (s.me.rdS sa).toNat % 256 ≠ 0)) :
    exec (.wrs g sa num) s = .next (s.trapped { trapOf s (.wrs g sa num) 0x08 with info2 := s.me.rdS sa }) :=
  wrs_traps h (by rw [privHits_of_allowed hp, List.nil_append, bestHit_wrsHits_of_misaligned hm])

theorem wrs_traps_outside {g : Guard} {sa : BitVec 6} {num : BitVec 12} {s : State} (h : Issues (.wrs g sa num) s)
    (hp : s.me.privNow = true) (hn : num.toNat = 0x0E0) (halign : (s.me.rdS sa).toNat % 256 = 0)
    (hout : (s.me.rdS sa).toNat < (s.me.spr' 0x040).toNat ∨
      (s.me.spr' 0x040).toNat + (s.me.spr' 0x041).toNat < (s.me.rdS sa).toNat + 0x20000) :
    exec (.wrs g sa num) s = .next (s.trapped (trapOf s (.wrs g sa num) 0x0B)) :=
  wrs_traps h (by rw [privHits_of_allowed fun _ => hp, List.nil_append, wrsHits_of_outside hn halign hout]; rfl)

/-- A register that holds a branch target is open to every privilege (R37). -/
theorem not_privileged_of_target {n : Nat} (hn : n ∈ sprTargets) : n ∉ privileged := by
  simp only [sprTargets, List.mem_cons, List.not_mem_nil, or_false] at hn
  rcases hn with rfl | rfl | rfl | rfl <;> decide

/-- Settles O16: reads by what delivery leaves alone, writes register by register against R37's table of writable fields, and the
traps by the rank of each failed check. -/
theorem specialRegistersReadAndWrite : Obligations.SpecialRegistersReadAndWrite := by
  unfold Obligations.SpecialRegistersReadAndWrite
  refine ⟨fun g sd num s _ h hp => rds_issues h hp, fun g sa num s hwf h ha => wrs_issues hwf h ha,
    fun g r num s => ⟨?_, ?_, ?_, ?_, ?_⟩⟩
  · exact rds_traps_priv
  · exact wrs_traps_priv
  · exact fun h ht hm => wrs_traps_misaligned h (fun hn => absurd hn (not_privileged_of_target ht)) (.inl ⟨ht, hm⟩)
  · exact fun h hn hp hm => wrs_traps_misaligned h (fun _ => hp) (.inr ⟨hn, hm⟩)
  · exact fun h hn hp halign hout => wrs_traps_outside h hp hn halign hout

end Sys2Proof.Proofs
end

section
/-! PROOFS. A record of the fault ring whose address lies past the 52-bit physical space (R71, R89, R377). -/

namespace Sys2Proof.Proofs

open Sys2Proof Sys2Proof.Machine Sys2Proof.Claims

/-- A ring whose BASE is the highest that FRING_BASE holds, with TAIL at its 64th record: that record's address, BASE + 64 × 64, is
2^52, one past the physical space. One record waits, the ring is not full, and package 0 posts a notification at the first counted
request. -/
def wrappedRing : State :=
  { State.reset with
    dev := { Dev.reset with
      pkgs := [(0, { (default : Pkg) with
        migThresh := 1, fringBase := 0x000FFFFFFFFFF000#64, fringSize := 7, fringTail := 64, frecs := [default] })] } }

theorem wrappedRing_homeFree (line : Nat) : homeFree wrappedRing.dev line :=
  ⟨rfl, rfl, rfl, rfl, fun _ => ⟨rfl, rfl, rfl, rfl⟩, rfl⟩

/-- The record's request is counted for package 0, the address's package bits being taken modulo 64, and posts a notification
there. -/
theorem wrappedRing_posts : ∃ t, exec (.faultRingRecord 0) wrappedRing = .next t ∧ (t.dev.pkg 0).migTail = 1 :=
  ⟨_, rfl, by decide +kernel⟩

/-- What the statement has of a written record leaves the tail of the package's notification ring as it was. -/
theorem migTail_of_recordWritten (d : Dev) (line h : Nat) (v : Line) (frecs : List FRec) (tail pkg : Nat) :
    (((wroteAt (counted d line) line h v).updPkg pkg fun p => { p with frecs := frecs, fringTail := tail }).pkg pkg).migTail =
      (d.pkg pkg).migTail := by
  simp [Dev.updPkg, Dev.pkg, wroteAt, counted, Dev.updHl, Dev.setHl, Dev.updHome]

/-- Refutes O43: the statement looks for MIG_THRESH at package a / 2^46, where no notification is due, while a record at the address
2^52 is counted at package 0, whose threshold it reaches; so the step also posts a notification, and the statement's next state
has none. -/
theorem not_firmwareRegistersAndFaultRing : ¬ Obligations.FirmwareRegistersAndFaultRing := by
  unfold Obligations.FirmwareRegistersAndFaultRing
  rintro ⟨hring, -⟩
  obtain ⟨-, hwaits⟩ := hring 0 wrappedRing
  obtain ⟨-, hroom⟩ := hwaits default [] rfl (by decide) (by decide)
  obtain ⟨-, hfree⟩ := hroom (by decide) (by decide) (by decide)
  obtain ⟨v, -, hexec⟩ := hfree (wrappedRing_homeFree _) (by decide) (by decide)
  obtain ⟨t, ht, hposted⟩ := wrappedRing_posts
  have hstate := ht.symm.trans hexec
  injection hstate with hstate
  rw [hstate] at hposted
  exact absurd ((migTail_of_recordWritten _ _ _ _ _ _ _).symm.trans hposted) (by decide)

end Sys2Proof.Proofs
end

section
/-! PROOFS. Boot in its steps, and what management answers (R14, R37, R298, R388 to R391). -/

namespace Sys2Proof.Proofs

open Sys2Proof Sys2Proof.Machine Sys2Proof.Claims

/-! ## Changes to a package -/

/-- A change to a package depends only on what it makes of that package. -/
theorem updPkg_congr {d : Dev} {pkg : Nat} {f g : Pkg → Pkg} (h : f (d.pkg pkg) = g (d.pkg pkg)) :
    d.updPkg pkg f = d.updPkg pkg g := by
  unfold Dev.updPkg
  exact congrArg (fun p => { d with pkgs := d.pkgs.set pkg p }) h

/-- Two changes to a package are one, when the first does not leave it as at reset. -/
theorem updPkg_updPkg {d : Dev} {pkg : Nat} {f : Pkg → Pkg} (g : Pkg → Pkg) (h : f (d.pkg pkg) ≠ default) :
    (d.updPkg pkg f).updPkg pkg g = d.updPkg pkg fun p => g (f p) := by
  have hpkgs : (d.updPkg pkg f).pkgs.set pkg (g ((d.updPkg pkg f).pkgs.get pkg)) = d.pkgs.set pkg (g (f (d.pkg pkg))) := by
    show (d.pkgs.set pkg (f (d.pkg pkg))).set pkg (g ((d.pkgs.set pkg (f (d.pkg pkg))).get pkg)) = _
    rw [SMap.get_set_same, SMap.set_set _ _ _ _ h]
  exact congrArg (fun m => { d with pkgs := m }) hpkgs

/-- A package whose boot has measured something is not as it was at reset. -/
theorem ne_default_of_bootStage {p : Pkg} (h : p.bootStage ≠ 0) : p ≠ default := by
  rintro rfl
  exact h rfl

/-! ## The steps of boot (R388) -/

/-- A step of boot that measures: the register extends, and the step is counted. -/
def measured (i : Nat) (digest : BitVec 384) (p : Pkg) : Pkg :=
  { p with mr := p.mr.set i (extended p i digest), bootStage := p.bootStage + 1 }

theorem booted_extendMr (p : Pkg) (i : Nat) (digest : BitVec 384) : (extendMr p i digest).booted = measured i digest p := rfl

section Steps

variable {d : Dev} {pkg : Nat} {ok : Bool} {a b : BitVec 384} {config : BootConfig}

/-- Boot that has ended, in STATE 1 or 2, goes no further. -/
theorem bootStep_of_ended (h : (d.pkg pkg).admitState ≠ 0) : bootStep d pkg ok a b config = d := by
  simp only [bootStep, if_pos h]

theorem bootStep_signatureFails (h : (d.pkg pkg).admitState = 0) (hn : (d.pkg pkg).bootStage = 0) :
    bootStep d pkg false a b config = d.updPkg pkg fun p => { p with admitState := 2, bootReason := Config.bootReason pkg } := by
  simp only [bootStep, if_neg (not_not_intro h), hn, Bool.false_eq_true, if_false]

theorem bootStep_bootFirmware (h : (d.pkg pkg).admitState = 0) (hn : (d.pkg pkg).bootStage = 0) :
    bootStep d pkg true a b config = d.updPkg pkg (measured 0 ((d.pkg pkg).image.getD a)) := by
  simp only [bootStep, if_neg (not_not_intro h), hn, if_true]
  exact updPkg_congr (booted_extendMr _ _ _)

theorem bootStep_runtimeFirmware (h : (d.pkg pkg).admitState = 0) (hn : (d.pkg pkg).bootStage = 1) :
    bootStep d pkg ok a b config = d.updPkg pkg (measured 1 b) := by
  simp only [bootStep, if_neg (not_not_intro h), hn, booted_extendMr]

/-- What the configuration sets of a package beside its registers (R37, R298, R391). -/
def configured (config : BootConfig) (p : Pkg) : Pkg :=
  { p with
    pinlim := config.pinlim, mgroups := config.groups.foldl (fun (m : SMap (List Nat)) (g : Nat × List Nat) => SMap.set m g.1 g.2) []
    capDrop := if 800 ≤ config.watts ∧ config.watts ≤ 2400 then 2400 - config.watts else p.capDrop }

/-- The device with a package's core enables as the configuration has them (R14). -/
def coresEnabled (d : Dev) (pkg : Nat) (config : BootConfig) : Dev :=
  { d with
    disabled := (d.disabled.filter fun core => core / 2 ^ 11 != pkg) ++
      config.disabled.filter fun core => core / 2 ^ 11 == pkg }

theorem installConfig_eq (d : Dev) (pkg : Nat) (config : BootConfig) :
    installConfig d pkg config = (coresEnabled d pkg config).updPkg pkg (configured config) := by
  simp only [installConfig, Bool.and_eq_true, decide_eq_true_eq]
  rfl

/-- The configuration is installed and measured in one change of the package. -/
theorem bootStep_configuration (h : (d.pkg pkg).admitState = 0) (hn : (d.pkg pkg).bootStage = 2) :
    bootStep d pkg ok a b config =
      (coresEnabled d pkg config).updPkg pkg fun p => measured 2 config.digest (configured config p) := by
  have hstage : (configured config (d.pkg pkg)).bootStage ≠ 0 := by
    show (d.pkg pkg).bootStage ≠ 0
    omega
  simp only [bootStep, if_neg (not_not_intro h), hn, booted_extendMr, installConfig_eq]
  exact updPkg_updPkg _ (ne_default_of_bootStage hstage)

theorem bootStep_ends (h : (d.pkg pkg).admitState = 0) (hn : 2 < (d.pkg pkg).bootStage) :
    bootStep d pkg ok a b config = d.updPkg pkg fun p => { p with admitState := 1 } := by
  obtain ⟨n, hn⟩ := Nat.exists_eq_add_of_le' hn
  simp only [bootStep, if_neg (not_not_intro h), hn]

end Steps

/-! ## Management (R389, R390) -/

/-- A request is answered where it came from: the mailbox, which the bridge package alone has, or the side-band (R382, R389). -/
def answeredWith (port : SpdmTo) (s : State) (o : Out) (l : List Byte) : Prop :=
  (port.port = .host → port.pkg ≠ s.dev.bridge → o = .next s) ∧
  (port.port = .host → port.pkg = s.dev.bridge →
    o = goes s ({ s.dev with free := s.dev.free + 1 }.updPkg port.pkg fun p => { p with doe := p.doe ++ l })) ∧
  (port.port = .sideband →
    o = goes s ({ s.dev with free := s.dev.free + 1 }.updPkg port.pkg fun p => { p with sideband := p.sideband ++ l }))

theorem answeredWith_answer (port : SpdmTo) (s : State) (code : Nat) (more : Pkg → List Byte) :
    answeredWith port s (answer s port.pkg port.port code more)
      (Config.spdmAnswer code s.dev.free ++ more (s.dev.pkg port.pkg)) := by
  refine ⟨fun hp hb => ?_, fun hp hb => ?_, fun hp => ?_⟩
  · simp only [answer, hp, if_neg hb]
  · simp only [answer, hp, if_pos hb]
    rfl
  · simp only [answer, hp]
    rfl

/-- The requests that report no register are answered by a text of their own. -/
theorem request_answered {port : SpdmTo} {i : Instr} (s : State)
    (h : i ∈ ([.getVersion port, .getCapabilities port, .negotiateAlgorithms port, .getDigests port] : List Instr) ∨
      (∃ n, i = .getCertificate port n) ∨ (∃ n, i = .challenge port n)) :
    ∃ l, answeredWith port s (exec i s) l := by
  simp only [List.mem_cons, List.not_mem_nil, or_false] at h
  obtain (rfl | rfl | rfl | rfl) | ⟨n, rfl⟩ | ⟨n, rfl⟩ := h <;>
    exact ⟨_, answeredWith_answer port s _ _⟩

theorem getMeasurements_answered (port : SpdmTo) (s : State) {i : Nat} (hlow : 1 ≤ i) (hhigh : i ≤ 8) :
    answeredWith port s (exec (.getMeasurements port i) s)
      (Config.spdmAnswer 0xE0 s.dev.free ++ littleEndian 48 ((s.dev.pkg port.pkg).mr.get (i - 1)).toNat) := by
  have hreported := answeredWith_answer port s 0xE0 fun p =>
    if 1 ≤ i && i ≤ 8 then bytesOf 48 (p.mr.get (i - 1)).toNat else []
  rwa [if_pos (by simp only [hlow, hhigh, decide_true, Bool.and_self])] at hreported

/-- The ten readings of a report, four bytes each (R390). -/
def readings (free : Nat) : List Byte := (List.range 10).flatMap fun i => bytesOf 4 (Config.sensor i free)

theorem length_bytesOf (n x : Nat) : (bytesOf n x).length = n := by
  simp only [bytesOf, List.length_map, List.length_range]

theorem length_readings (free : Nat) : (readings free).length = 40 :=
  calc (readings free).length = ((List.range 10).map fun _ => 4).sum := by
        simp only [readings, List.length_flatMap, length_bytesOf]
    _ = 40 := rfl

theorem pldmMonitoring_reports (pkg : Nat) (s : State) : exec (.pldmMonitoring pkg) s =
    goes s ({ s.dev with free := s.dev.free + 1 }.updPkg pkg fun p =>
      { p with sideband := p.sideband ++ readings s.dev.free ++ littleEndian 1 p.admitState ++ littleEndian 4 p.bootReason }) := rfl

theorem pldmFirmwareUpdate_stages (pkg : Nat) (image : BitVec 384) (s : State) :
    exec (.pldmFirmwareUpdate pkg image) s = goes s (s.dev.updPkg pkg fun p => { p with staged := some image }) := rfl

/-- A step of boot changes the device alone. -/
theorem boot_goes (pkg : Nat) (ok : Bool) (a b : BitVec 384) (config : BootConfig) (s : State) :
    exec (.boot pkg ok a b config) s = goes s (bootStep s.dev pkg ok a b config) := rfl

/-- Settles O58: boot by the steps it has made, the configuration being installed and measured as one change of its package; each
answer by where its request came from. -/
theorem bootIsMeasuredAndReported : Obligations.BootIsMeasuredAndReported := by
  unfold Obligations.BootIsMeasuredAndReported
  refine ⟨fun pkg ok a b config s => ?_, fun port s => ⟨fun i => request_answered s, fun i hlow hhigh => ?_⟩,
    fun pkg s => ⟨_, length_readings _, pldmMonitoring_reports pkg s⟩, pldmFirmwareUpdate_stages⟩
  · intro p o measures
    have ho : o = goes s (bootStep s.dev pkg ok a b config) := boot_goes ..
    rw [ho]
    refine ⟨fun h => ?_, fun h => ⟨?_, ?_, ?_, ?_, ?_⟩⟩
    · rw [bootStep_of_ended h]; rfl
    · rintro hn rfl
      exact ⟨_, congrArg (goes s) (bootStep_signatureFails h hn)⟩
    · rintro hn rfl
      exact congrArg (goes s) (bootStep_bootFirmware h hn)
    · exact fun hn => congrArg (goes s) (bootStep_runtimeFirmware h hn)
    · exact fun hn => congrArg (goes s) (bootStep_configuration h hn)
    · exact fun hn => congrArg (goes s) (bootStep_ends h hn)
  · exact ⟨_, getMeasurements_answered port s hlow hhigh⟩

end Sys2Proof.Proofs
end
